-- ==== Sys2Proof/Word.lean ====
section
/-! DEFINITION. The word types of the part (00_scope.md R4, R5): bytes, 32-bit and 64-bit words. -/

namespace Sys2Proof

/-- A byte. -/
abbrev Byte := BitVec 8
/-- A 32-bit word: one vector register of one thread (R72). -/
abbrev W32 := BitVec 32
/-- A 64-bit word: a scalar register, a control and status register (R12). -/
abbrev W64 := BitVec 64
/-- A value of the accumulator format X40 (R146). -/
abbrev X40 := BitVec 40
/-- A value of the accumulator format X80 (R146). -/
abbrev X80 := BitVec 80
/-- A core number: the region number times 128 plus the index in the region (R20). -/
abbrev CoreNum := BitVec 13
/-- A region number, RG00 to RG63 (R19). -/
abbrev RegionNum := BitVec 6
/-- A niche number, 0 to 63. -/
abbrev NicheNum := BitVec 6
/-- A queue number, 0 to 4,095 (R356). -/
abbrev QueueNum := BitVec 12
/-- A Trestle port number, TP00 to TP35 (R23). -/
abbrev PortNum := BitVec 6

end Sys2Proof
end

