-- ==== Sys2Proof/Syntax.lean ====
section
/-! DEFINITION. The commands of the block: one constructor of `Instr` per row of spec/opcode_table.json,
with the operands a row needs to say where it acts (the table gives no operand fields; see the assumption log, 2). -/

namespace Sys2Proof

/-- Who makes a register access: the rights of R41, R62, R65, R96, R253, R358, R507, R561 name these. -/
inductive Actor where
  | firmware
  | supervisor
  | job (n : NicheNum)
  | placement
deriving DecidableEq, Repr

/-- The four engines of a core (03_core.md), numbered 0 to 3 as in the exception record. -/
inductive Eng where
  | se | ve | me | de
deriving DecidableEq, Repr

/-- A write of a core's matrix engine that is granted: its place among those that wait (R210). -/
structure GrantAt where
  core : CoreNum
  idx : Nat
deriving DecidableEq, Repr

/-- What an accepted flit carries beside its SEQ: ACK, and whether the decoder corrected symbols of its codeword (R422). -/
structure FlitIn where
  ack : BitVec 10
  corrected : Bool
deriving DecidableEq, Repr

/-- A group slot of the VE of a core. -/
structure VeAt where
  core : CoreNum
  slot : BitVec 5
deriving DecidableEq, Repr

/-- The issuing stream of an instruction that both the SE and the VE implement. -/
inductive Strm where
  | se (core : CoreNum)
  | ve (g : VeAt)
deriving DecidableEq, Repr

/-- The kinds of access a translation distinguishes (R260). -/
inductive AccKind where
  | load | store | atomic | fetch | inval | touch
deriving DecidableEq, Repr

/-- What an ECC decoder finds in a word (R77, R79, R81). -/
inductive EccFind where
  | clean
  | single
  | double
deriving DecidableEq, Repr

/-- Fields of an R-format instruction word (R129), less OP and FN, which the row gives. -/
structure RFmt where
  pred : BitVec 3
  pneg : Bool
  dst : Byte
  src1 : Byte
  src2 : Byte
  src3 : Byte
  fmt : BitVec 4
  fmt2 : BitVec 4
  rnd : BitVec 3
  sat : BitVec 2
  flush : Bool
  rsvd : BitVec 2
deriving DecidableEq, Repr

/-- Fields of an I-format or B-format instruction word (R129), less OP and FN. -/
structure IFmt where
  pred : BitVec 3
  pneg : Bool
  dst : Byte
  src1 : Byte
  imm : W32
deriving DecidableEq, Repr

/-- Fields of an M-format instruction word (R129), less OP and FN. -/
structure MFmt where
  pred : BitVec 3
  pneg : Bool
  dst : Byte
  src1 : Byte
  src2 : Byte
  scope : BitVec 3
  size : BitVec 3
  space : Bool
  sx : Bool
  off : BitVec 16
deriving DecidableEq, Repr

/-- A received HELLO link record (R418, table Link record). -/
structure HelloRec where
  device : BitVec 14
  idValid : Bool
  minVer : BitVec 2
  maxVer : BitVec 2
  incarnation : BitVec 16
  hops : BitVec 6
deriving DecidableEq, Repr

/-- A received packet: the header of the table Packet header, less KIND, which the row gives, and its data. -/
structure Packet where
  status : BitVec 4
  src : BitVec 14
  dst : BitVec 14
  niche : NicheNum
  channel : Byte
  sys : Bool
  dl : Bool
  lengthM1 : BitVec 12
  addr : BitVec 62
  tag : W32
  op : BitVec 4
  size : BitVec 2
  lanes : BitVec 6
  arg : W64
  data : List Byte
deriving DecidableEq, Repr

/-- What the sensors sampled in one second of power-on time (R488): for a location, its highest temperature
in quarter degrees; for a region, its highest regulator voltage in mV, absent while it was OFF throughout; and what
the aging monitors of the dies other than compute dies read, in kHz, by location (R494). -/
structure PatSample where
  temps : List (BitVec 6 × Int)
  volts : List (RegionNum × Nat)
  aging : List (BitVec 6 × List Nat)
deriving DecidableEq, Repr

/-- What one margin probe of a region meets (R490 to R494). -/
structure ProbeRun where
  vop : Nat
  firstWarn : Option Nat
  temp : Int
  disturbed : Bool
  aging : List Nat
deriving DecidableEq, Repr

/-- What the board and the host present at power-up: RDIMM capacities in GiB per bulk channel (R257),
address straps (R551), the host's QCL range (R450), whether TPPS edges arrive (R536); and the errors that the
self-test finds, in order: location, cause, core (R535). -/
structure PowerUp where
  dimms : List Nat
  strap0 : Bool
  strap1 : Bool
  hostMin : Byte
  hostMax : Byte
  tpps : Bool
  selfTest : List (BitVec 6 × Byte × Option CoreNum)
deriving DecidableEq, Repr

/-- One constructor per row of spec/opcode_table.json. -/
inductive Instr where
  /-- REGISTER_WRITE (R9). A write to a control and status register that has no row of its own sets its writable fields per the access codes, or is ignored for reserved, unmapped or unauthorised addresses. -/
  | registerWrite (a : Actor) (off : BitVec 32) (bytes : Nat) (v : W64)
  /-- TPPS_EDGE (R44). A TPPS rising edge applies an armed load as a step or slew and measures the phase error of a board source. -/
  | tppsEdge (phase : BitVec 16)
  /-- LOAD_ARM (R44). Setting LOAD_ARM arms the load of TL_LOAD at the next TPPS edge. -/
  | loadArm (a : Actor)
  /-- SOURCE_LOST_TIMEOUT (R48). No valid timeline input for 2 s, or for 64 slots, moves a LOCKED timeline to HOLDOVER and sets SOURCE_LOST. -/
  | sourceLostTimeout
  /-- HOLDOVER_EXPIRY (R48). HOLDOVER lasting 20 ms without the source returning moves the timeline to FREE. -/
  | holdoverExpiry
  /-- BOOKED_SLOT_START (R59). At the start of a booked slot the port's protocol engine gives the booked niche and channel precedence, or sends nothing while not LOCKED. -/
  | bookedSlotStart (port : PortNum)
  /-- TL_BOOK_WRITE (R65). A write to a booking table entry by its permitted writer takes effect from the next frame; other writers are ignored. -/
  | tlBookWrite (a : Actor) (ofRegion : Bool) (n : BitVec 6) (idx : BitVec 10) (v : W32)
  /-- REG_CLOCK_WRITE (R66). A write to REG_CLOCK starts an allowed region clock transition, or is refused whole and writes a Patina record. -/
  | regClockWrite (a : Actor) (region : RegionNum) (v : W64)
  /-- CLOCK_TRANSITION_DONE (R562). A region clock transition ends at a region-cycle boundary, after the drain of R51 for OFF or the re-sync and region reset when leaving HALT or OFF. -/
  | clockTransitionDone (region : RegionNum)
  /-- DROOP_CYCLE (R54). A droop detector lengthens a region cycle, counting it in REG_DROOP_COUNT and abandoning any margin probe. -/
  | droopCycle (region : RegionNum)
  /-- FRAME_END (R412). At the end of each timeline frame each niche's interference index LAST, AVG and FRAME are computed. -/
  | frameEnd (counts : List (NicheNum × Nat × Nat))
  /-- ENGINE_ENTRY_FETCH (R67). An engine takes the next entry of its own front-end queue, the ME and DE queue fetchers placing commands into the issue FIFO. -/
  | engineEntryFetch (core : CoreNum) (e : Eng)
  /-- LAUNCH_ENTRY_START (R109). The VE starts a launch entry after its previous entry completed, checking the shape and raising LAUNCH_SHAPE when no block can fit. -/
  | launchEntryStart (core : CoreNum)
  /-- KERNEL_START (R123). Before a kernel's first instruction the core writes back and invalidates its data cache and clears ARITH_FLAGS. -/
  | kernelStart (core : CoreNum) (e : Eng)
  /-- BLOCK_ADMIT (R104). The VE admits the next waiting block whole once registers, slots and drawer space fit. -/
  | blockAdmit (core : CoreNum)
  /-- KERNEL_END (R124). After the last thread exits or the SE ends its entry and the store buffer drains, the core writes back every dirty data-cache line. -/
  | kernelEnd (core : CoreNum) (e : Eng)
  /-- ENTRY_COMPLETE (R109). An engine entry completes once the kernel-end write-back has been acknowledged. -/
  | entryComplete (core : CoreNum) (e : Eng)
  /-- BARRIER_WATCHDOG_EXPIRY (R120). A barrier waiting past the niche's watchdog setting raises BARRIER_STALL on the waiting group or block. -/
  | barrierWatchdogExpiry (core : CoreNum) (whole : Bool) (slot : BitVec 5)
  /-- TRANSCENDENTAL_RESULT (R94). A transcendental slice's results are written 12 region cycles after it entered the unit. -/
  | transcendentalResult (core : CoreNum)
  /-- DRAWER_CE_WRITEBACK (R77). A corrected drawer word is written back in the next cycle the bank grants to no port, unless a store overtook it. -/
  | drawerCeWriteback (core : CoreNum)
  /-- SCRUB_READ (R81). The patrol scrubber reads a drawer word in an idle bank cycle and corrects or poisons it. -/
  | scrubRead (core : CoreNum) (word : BitVec 14) (f : EccFind)
  /-- DCACHE_FILL (R84). The outstanding data-cache miss fill completes, allocating a way and releasing waiting accesses. -/
  | dcacheFill (core : CoreNum)
  /-- DCACHE_WRITEBACK (R85). A dirty line's write-back completes and frees the write-back buffer. -/
  | dcacheWriteback (core : CoreNum)
  /-- ICACHE_FILL (R91). An instruction-cache line fill completes, unless the fetched word is poisoned. -/
  | icacheFill (t : Strm)
  /-- DCACHE_INIT_DONE (R89). The 72-cycle data-cache invalidation at reset ends and DCACHE_READY becomes 1. -/
  | dcacheInitDone (core : CoreNum)
  /-- ICACHE_INIT_DONE (R92). The 136-cycle instruction-cache invalidation ends and ICACHE_READY becomes 1. -/
  | icacheInitDone (core : CoreNum)
  /-- DCACHE_WBI (R90). Setting DCACHE_WBI writes back every dirty line, invalidates every line, and the device clears the bit at the end. -/
  | dcacheWbi (a : Actor) (core : CoreNum)
  /-- ICACHE_INV (R92). Setting ICACHE_INV invalidates the instruction cache in 136 region cycles. -/
  | icacheInv (a : Actor) (core : CoreNum)
  /-- ILLEGAL_INSTR (R130). A word with an undefined or malformed encoding raises ILLEGAL_INSTR whatever the predicate. -/
  | illegalInstr (t : Strm) (w : W64)
  /-- ADD (R129). Scalar 64-bit add, wrapping or saturating. -/
  | add (core : CoreNum) (f : RFmt)
  /-- SUB (R129). Scalar 64-bit subtract, wrapping or saturating. -/
  | sub (core : CoreNum) (f : RFmt)
  /-- MUL (R129). Scalar multiply giving the low 64 bits. -/
  | mul (core : CoreNum) (f : RFmt)
  /-- MULH (R129). Scalar signed multiply giving the high 64 bits. -/
  | mulh (core : CoreNum) (f : RFmt)
  /-- MULHU (R129). Scalar unsigned multiply giving the high 64 bits. -/
  | mulhu (core : CoreNum) (f : RFmt)
  /-- AND (R129). Scalar bitwise AND. -/
  | and (core : CoreNum) (f : RFmt)
  /-- OR (R129). Scalar bitwise OR. -/
  | or (core : CoreNum) (f : RFmt)
  /-- XOR (R129). Scalar bitwise XOR. -/
  | xor (core : CoreNum) (f : RFmt)
  /-- SHL (R129). Scalar shift left by sB[5:0]. -/
  | shl (core : CoreNum) (f : RFmt)
  /-- SHR (R129). Scalar logical shift right. -/
  | shr (core : CoreNum) (f : RFmt)
  /-- SRA (R129). Scalar arithmetic shift right. -/
  | sra (core : CoreNum) (f : RFmt)
  /-- MIN (R129). Scalar signed minimum. -/
  | min (core : CoreNum) (f : RFmt)
  /-- MAX (R129). Scalar signed maximum. -/
  | max (core : CoreNum) (f : RFmt)
  /-- MINU (R129). Scalar unsigned minimum. -/
  | minu (core : CoreNum) (f : RFmt)
  /-- MAXU (R129). Scalar unsigned maximum. -/
  | maxu (core : CoreNum) (f : RFmt)
  /-- SEL (R129). Scalar select of sA or sB by a predicate. -/
  | sel (core : CoreNum) (f : RFmt)
  /-- SALUI (R129). Scalar integer operation with an immediate in place of sB. -/
  | salui (core : CoreNum) (fn : BitVec 5) (f : IFmt)
  /-- SCMP (R129). Scalar compare writing a predicate. -/
  | scmp (core : CoreNum) (fn : BitVec 5) (f : RFmt)
  /-- SCMPI (R129). Scalar compare with an immediate writing a predicate. -/
  | scmpi (core : CoreNum) (fn : BitVec 5) (f : IFmt)
  /-- LI (R129). Scalar load of a sign-extended immediate. -/
  | li (core : CoreNum) (f : IFmt)
  /-- LIH (R129). Scalar load of an immediate into the high 32 bits. -/
  | lih (core : CoreNum) (f : IFmt)
  /-- PAND (R129). Predicate AND. -/
  | pand (t : Strm) (f : RFmt)
  /-- POR (R129). Predicate OR. -/
  | por (t : Strm) (f : RFmt)
  /-- PXOR (R129). Predicate XOR. -/
  | pxor (t : Strm) (f : RFmt)
  /-- PANDN (R129). Predicate AND NOT. -/
  | pandn (t : Strm) (f : RFmt)
  /-- VALU (R129). Vector 32-bit integer operation per thread. -/
  | valu (g : VeAt) (fn : BitVec 5) (f : RFmt)
  /-- VALUI (R129). Vector integer operation with an immediate. -/
  | valui (g : VeAt) (fn : BitVec 5) (f : IFmt)
  /-- ADDP (R131). Vector 64-bit add of register pairs. -/
  | addp (g : VeAt) (f : RFmt)
  /-- POPC (R129). Vector count of ones. -/
  | popc (g : VeAt) (f : RFmt)
  /-- CLZ (R129). Vector count of leading zeros. -/
  | clz (g : VeAt) (f : RFmt)
  /-- FADD (R162). Vector float add with one rounding. -/
  | fadd (g : VeAt) (f : RFmt)
  /-- FSUB (R162). Vector float subtract with one rounding. -/
  | fsub (g : VeAt) (f : RFmt)
  /-- FMUL (R162). Vector float multiply with one rounding. -/
  | fmul (g : VeAt) (f : RFmt)
  /-- FMA (R162). Vector fused multiply-add with one rounding. -/
  | fma (g : VeAt) (f : RFmt)
  /-- FMIN (R170). Vector float minimum with the NaN and signed-zero rules. -/
  | fmin (g : VeAt) (f : RFmt)
  /-- FMAX (R170). Vector float maximum with the NaN and signed-zero rules. -/
  | fmax (g : VeAt) (f : RFmt)
  /-- FABS (R154). Clears the sign bit without rounding or flags. -/
  | fabs (g : VeAt) (f : RFmt)
  /-- FNEG (R154). Inverts the sign bit without rounding or flags. -/
  | fneg (g : VeAt) (f : RFmt)
  /-- VCMP (R129). Vector integer compare writing a predicate. -/
  | vcmp (g : VeAt) (fn : BitVec 5) (f : RFmt)
  /-- VCMP_FLOAT (R171). Vector float compare FEQ, FLT, FLE or FUN writing a predicate. -/
  | vcmpFloat (g : VeAt) (fn : BitVec 5) (f : RFmt)
  /-- CVT (R166). Vector conversion between formats. -/
  | cvt (g : VeAt) (f : RFmt)
  /-- RCP (R93). Reciprocal on the transcendental unit. -/
  | rcp (g : VeAt) (f : RFmt)
  /-- RSQ (R93). Reciprocal square root on the transcendental unit. -/
  | rsq (g : VeAt) (f : RFmt)
  /-- SQRT (R93). Square root on the transcendental unit. -/
  | sqrt (g : VeAt) (f : RFmt)
  /-- EXP2 (R93). Base-2 exponential on the transcendental unit. -/
  | exp2 (g : VeAt) (f : RFmt)
  /-- LOG2 (R93). Base-2 logarithm on the transcendental unit. -/
  | log2 (g : VeAt) (f : RFmt)
  /-- SINPI (R93). Sine of pi times the operand. -/
  | sinpi (g : VeAt) (f : RFmt)
  /-- COSPI (R93). Cosine of pi times the operand. -/
  | cospi (g : VeAt) (f : RFmt)
  /-- VLI (R129). Vector load of an immediate. -/
  | vli (g : VeAt) (f : IFmt)
  /-- SHFL (R129). Vector shuffle reading vA of another lane. -/
  | shfl (g : VeAt) (f : RFmt)
  /-- BCAST (R129). Broadcast of the lowest active lane's value. -/
  | bcast (g : VeAt) (f : RFmt)
  /-- BALLOT (R129). Mask of active lanes whose predicate is 1. -/
  | ballot (g : VeAt) (f : RFmt)
  /-- ID (R103). Reads a logical thread identifier. -/
  | id (g : VeAt) (f : RFmt)
  /-- BR (R132). Relative branch, splitting a group lane by lane. -/
  | br (t : Strm) (f : IFmt)
  /-- BL (R132). Branch and link. -/
  | bl (t : Strm) (f : IFmt)
  /-- JR (R132). Jump to a register target. -/
  | jr (t : Strm) (f : IFmt)
  /-- JLR (R132). Jump to a register target and link. -/
  | jlr (t : Strm) (f : IFmt)
  /-- EXIT (R110). A VE thread exits, freeing group and block resources, or the SE ends its queue entry. -/
  | exit (t : Strm) (f : IFmt)
  /-- LD (R278). Load from niche virtual address or drawer offset. -/
  | ld (t : Strm) (f : MFmt)
  /-- ST (R300). Store into the store buffer. -/
  | st (t : Strm) (f : MFmt)
  /-- LD_ACQ (R293). Scoped load-acquire performed at the home. -/
  | ldAcq (t : Strm) (f : MFmt)
  /-- ST_REL (R293). Scoped store-release after earlier accesses reach its scope. -/
  | stRel (t : Strm) (f : MFmt)
  /-- ATOM_ADD (R310). Atomic add at the home returning the old value. -/
  | atomAdd (t : Strm) (f : MFmt)
  /-- ATOM_MIN (R310). Atomic signed minimum at the home. -/
  | atomMin (t : Strm) (f : MFmt)
  /-- ATOM_MAX (R310). Atomic signed maximum at the home. -/
  | atomMax (t : Strm) (f : MFmt)
  /-- ATOM_MINU (R310). Atomic unsigned minimum at the home. -/
  | atomMinu (t : Strm) (f : MFmt)
  /-- ATOM_MAXU (R310). Atomic unsigned maximum at the home. -/
  | atomMaxu (t : Strm) (f : MFmt)
  /-- ATOM_AND (R310). Atomic AND at the home. -/
  | atomAnd (t : Strm) (f : MFmt)
  /-- ATOM_OR (R310). Atomic OR at the home. -/
  | atomOr (t : Strm) (f : MFmt)
  /-- ATOM_XOR (R310). Atomic XOR at the home. -/
  | atomXor (t : Strm) (f : MFmt)
  /-- ATOM_XCHG (R310). Atomic exchange at the home. -/
  | atomXchg (t : Strm) (f : MFmt)
  /-- ATOM_CAS (R310). Atomic compare-and-swap at the home. -/
  | atomCas (t : Strm) (f : MFmt)
  /-- ATOM_FADD (R316). Atomic F32 fused add at the home. -/
  | atomFadd (t : Strm) (f : MFmt)
  /-- ORD_L (R288). Load barrier waiting for earlier loads and atomics. -/
  | ordL (t : Strm) (f : MFmt)
  /-- ORD_S (R288). Store barrier waiting for earlier stores to be acknowledged or lost. -/
  | ordS (t : Strm) (f : MFmt)
  /-- ORD_LS (R288). Full barrier. -/
  | ordLs (t : Strm) (f : MFmt)
  /-- CWB (R565). Writes back cache lines of a line, range or whole cache. -/
  | cwb (t : Strm) (f : MFmt)
  /-- CINV (R565). Invalidates cache lines, discarding dirty data, or the instruction cache. -/
  | cinv (t : Strm) (f : MFmt)
  /-- CWBI (R565). Writes back then invalidates cache lines. -/
  | cwbi (t : Strm) (f : MFmt)
  /-- HOT (R272). HINT adding PROMOTE_THRESH to the page tally. -/
  | hot (t : Strm) (f : MFmt)
  /-- COLD (R272). HINT making pages demotion candidates. -/
  | cold (t : Strm) (f : MFmt)
  /-- WILL_NEED (R272). HINT backing unbacked pages now. -/
  | willNeed (t : Strm) (f : MFmt)
  /-- DONT_NEED (R272). HINT acting as COLD. -/
  | dontNeed (t : Strm) (f : MFmt)
  /-- TIER_SHELF (R272). HINT moving pages to the shelf once. -/
  | tierShelf (t : Strm) (f : MFmt)
  /-- TIER_HBM (R272). HINT moving pages to HBM4 once. -/
  | tierHbm (t : Strm) (f : MFmt)
  /-- TIER_BULK (R272). HINT moving pages to the bulk tier once. -/
  | tierBulk (t : Strm) (f : MFmt)
  /-- TIER_REMOTE (R272). HINT moving pages to remote memory once. -/
  | tierRemote (t : Strm) (f : MFmt)
  /-- PIN (R272). HINT backing pages and setting PINNED. -/
  | pin (t : Strm) (f : MFmt)
  /-- UNPIN (R272). HINT clearing PINNED. -/
  | unpin (t : Strm) (f : MFmt)
  /-- NEAR (R272). HINT moving pages to the issuing region's shelf segment. -/
  | near (t : Strm) (f : MFmt)
  /-- HINT_PROCESS (R273). The placement unit takes a hint from the niche's hint queue and applies it. -/
  | hintProcess (n : NicheNum)
  /-- SYNC_G (R117). Group barrier arrival, releasing when every live thread arrived. -/
  | syncG (g : VeAt) (f : MFmt)
  /-- SYNC_B (R118). Block barrier arrival, releasing when every live thread arrived. -/
  | syncB (g : VeAt) (f : MFmt)
  /-- SEM_SIG (R321). Signals a core hardware semaphore and serves its queue from the head. -/
  | semSig (t : Strm) (f : IFmt)
  /-- SEM_WAIT (R321). Takes from a core hardware semaphore or queues. -/
  | semWait (t : Strm) (f : IFmt)
  /-- SEM_TRY (R321). Takes from a core hardware semaphore only if possible at once. -/
  | semTry (t : Strm) (f : IFmt)
  /-- NSEM_SIG (R327). Signals a niche semaphore. -/
  | nsemSig (t : Strm) (f : IFmt)
  /-- NSEM_WAIT (R327). Takes from a niche semaphore or queues. -/
  | nsemWait (t : Strm) (f : IFmt)
  /-- NSEM_TRY (R327). Tries a niche semaphore take. -/
  | nsemTry (t : Strm) (f : IFmt)
  /-- MXI (R68). Writes a 128-bit matrix command into the ME issue FIFO. -/
  | mxi (core : CoreNum) (f : RFmt)
  /-- DMAI (R68). Writes a 128-bit DMA command into the DE issue FIFO. -/
  | dmai (core : CoreNum) (f : RFmt)
  /-- QCVT (R182). Quantises to a register and updates a statistics record. -/
  | qcvt (g : VeAt) (f : RFmt)
  /-- QST (R185). Quantises and stores one block with its scale and updates a statistics record. -/
  | qst (g : VeAt) (f : RFmt)
  /-- TLR (R53). Reads the region's timeline copy. -/
  | tlr (t : Strm) (f : IFmt)
  /-- FLGR (R175). Reads ARITH_FLAGS after older instructions complete. -/
  | flgr (t : Strm) (f : IFmt)
  /-- FLGC (R173). Clears ARITH_FLAGS bits selected by a mask. -/
  | flgc (t : Strm) (f : IFmt)
  /-- CYC (R54). Reads REG_CYCLES. -/
  | cyc (t : Strm) (f : IFmt)
  /-- BRK (R144). Raises BREAK. -/
  | brk (t : Strm) (f : IFmt)
  /-- STORE_BUFFER_DRAIN (R300). A store-buffer entry leaves the buffer into the cache, drawer bank or mesh. -/
  | storeBufferDrain (core : CoreNum) (ve : Bool) (idx : Nat)
  /-- STORE_ACK (R281). A home acknowledges a store performed there. -/
  | storeAck (core : CoreNum) (idx : Nat)
  /-- LOAD_RESPONSE (R281). Data of an outstanding load or atomic returns and the load is performed. -/
  | loadResponse (core : CoreNum) (idx : Nat)
  /-- TRANSLATION_WALK (R259). A walk through the niche table completes, filling the translation cache or raising PAGE_FAULT, ACCESS or POISON. -/
  | translationWalk (core : CoreNum) (e : Eng) (slot : BitVec 5) (va : BitVec 57) (k : AccKind)
  /-- MULTIPLY (R201). The ME starts a multiply command after its semaphore take, performing steps into a tile. -/
  | multiply (core : CoreNum)
  /-- DRAIN (R221). The ME drains a tile, converting each value to the output format. -/
  | drain (core : CoreNum)
  /-- FLAGS (R224). The ME writes its ARITH_FLAGS to the drawer and clears masked bits. -/
  | flags (core : CoreNum)
  /-- SPILL (R239). The ME adds tile rows into a spill grant in X80 and zeroes them. -/
  | spill (core : CoreNum)
  /-- RESUME (R240). The ME returns a spill grant to a tile or drains it. -/
  | resume (core : CoreNum)
  /-- WEIGHT_LOAD_DONE (R206). A chunk's shadow weights finish loading and become active after the previous chunk's rows. -/
  | weightLoadDone (core : CoreNum)
  /-- DRAIN_ROW_WRITE (R210). A drain's column group write of a tile row is granted and performed. -/
  | drainRowWrite (at_ : GrantAt)
  /-- ME_COMMAND_COMPLETE (R219). An ME command's writes are performed and it signals SIG_SEM. -/
  | meCommandComplete (core : CoreNum)
  /-- LIST (R342). The DE starts a block-list command after its semaphore take. -/
  | list (core : CoreNum)
  /-- CONTRIB (R354). The DE sends a partial to the armature tagged with its rank tuple. -/
  | contrib (core : CoreNum)
  /-- BLOCK_START (R342). The DE starts the next block-list entry once its semaphore and transfer limit allow. -/
  | blockStart (core : CoreNum)
  /-- BLOCK_PERFORMED (R339). A block's writes are performed and its signal is given in entry order. -/
  | blockPerformed (core : CoreNum) (idx : Nat)
  /-- LATE_DATA (R351). At the first tick after its due slot an unperformed block is counted late and recorded. -/
  | lateData (core : CoreNum)
  /-- ARMATURE_ADD (R248). An armature adder makes an addition once both operands have arrived. -/
  | armatureAdd (red : Nat) (lo hi : Nat)
  /-- PAGE_BACKING (R268). The placement unit backs a PLACED leaf with a zero-filled frame and the waiting access proceeds. -/
  | pageBacking (n : NicheNum) (va : BitVec 57)
  /-- EPOCH_END (R269). At the end of an epoch the placement unit reviews tallies and chooses migrations. -/
  | epochEnd
  /-- MIGRATION_COMPLETE (R270). A page copy ends, the leaf takes the new frame and the old frame returns to its pool. -/
  | migrationComplete (idx : Nat)
  /-- NPL_SHOOT (R264). Setting START invalidates named translations of a niche. -/
  | nplShoot (a : Actor) (n : NicheNum) (v : W64)
  /-- SHOOTDOWN_DONE (R264). Accesses through invalidated entries complete and DONE is set. -/
  | shootdownDone (n : NicheNum)
  /-- NPL_CONFIG_WRITE (R276). A write to NPL_ROOT, NPL_POOL or NPL_CONTROL takes effect only with no resident context, else is refused with a Patina record. -/
  | nplConfigWrite (a : Actor) (n : NicheNum) (reg : BitVec 3) (v : W64)
  /-- NSEM_COUNT_WRITE (R332). A write to NSEM_STATE.COUNT takes effect only with no resident context, else is refused with a Patina record. -/
  | nsemCountWrite (a : Actor) (n : NicheNum) (k : BitVec 12) (v : W64)
  /-- DOORBELL (R357). A write to FE_DOORBELL advances a queue's tail or sets DB_BAD; for a feed queue it signals FEED_SEM. -/
  | doorbell (a : Actor) (q : QueueNum) (tail : W32)
  /-- NOP (R359). Command queue NOP becomes final at once. -/
  | nop (q : QueueNum)
  /-- INSTALL (R364). Reads, checks and casts a maquette image. -/
  | install (q : QueueNum)
  /-- LAUNCH (R368). Starts a launch of a maquette, capturing the current bank. -/
  | launch (q : QueueNum)
  /-- PATCH (R376). Writes a parameter bank that no launch captured and makes it current. -/
  | patch (q : QueueNum)
  /-- ABORT (R377). Aborts a target launch or fence wait, or marks an unstarted target. -/
  | abort (q : QueueNum)
  /-- FENCE_WAIT (R385). Waits until a fence reaches a value. -/
  | fenceWait (q : QueueNum)
  /-- FENCE_SIGNAL (R385). Raises a local or remote fence to a value. -/
  | fenceSignal (q : QueueNum)
  /-- REMOVE (R366). Frees a maquette number or ends with BUSY. -/
  | remove (q : QueueNum)
  /-- NODE_RELEASE (R369). The dispatcher releases a node whose dependences are satisfied. -/
  | nodeRelease (l : Nat) (node : Nat)
  /-- ENGINE_ENTRY_WRITE (R373). The dispatcher writes a rank's engine entry into a core's engine queue once it has room. -/
  | engineEntryWrite (l : Nat) (node : Nat) (rank : Nat) (e : Eng)
  /-- NODE_COMPLETE (R370). A node completes once its entries, commands, contributions and reductions are done. -/
  | nodeComplete (l : Nat) (node : Nat)
  /-- ENTRY_FINAL (R381). After the completion word is performed the device writes word 7, advances HEAD and sends the interrupt message. -/
  | entryFinal (q : QueueNum) (seq : W32)
  /-- FENCE_CYCLE (R386). A detected fence cycle ends its waits with FENCE_CYCLE and halts their queues. -/
  | fenceCycle (n : NicheNum)
  /-- FENCE_TIMEOUT (R387). A fence wait reaching the niche's fence timeout ends with FENCE_TIMEOUT. -/
  | fenceTimeout (q : QueueNum)
  /-- FE_FENCE_WRITE (R385). A write to FE_FENCE sets the larger of the fence and the value written. -/
  | feFenceWrite (a : Actor) (n : NicheNum) (fence : BitVec 10) (v : W64)
  /-- QUEUE_ENABLE (R389). Setting ENABLE takes BASE and HOST, zeroes pointers and writes the ring header's HEAD. -/
  | queueEnable (a : Actor) (q : QueueNum) (v : W64)
  /-- QUEUE_DISABLE (R390). Clearing ENABLE stops new entries starting and ignores doorbells. -/
  | queueDisable (a : Actor) (q : QueueNum)
  /-- QUEUE_RESUME (R363). RESUME restarts a HALTED queue at its lowest unstarted entry. -/
  | queueResume (a : Actor) (q : QueueNum)
  /-- QUEUE_RESET (R363). RESET sets the read position and HEAD to TAIL. -/
  | queueReset (a : Actor) (q : QueueNum)
  /-- NICHE_GRANT_WRITE (R391). A write to NICHE_GRANT takes effect only when allowed, else is refused with a Patina record. -/
  | nicheGrantWrite (a : Actor) (n : NicheNum) (v : W64)
  /-- NICHE_CONTROL_WRITE (R415). A write to NICHE_CONTROL or QUEUE_CTX takes effect only with no resident context. -/
  | nicheControlWrite (a : Actor) (ofQueue : Bool) (idx : BitVec 12) (v : W64)
  /-- GRANT_CLEAR (R395). Setting NICHE_CLEAR.START starts the grant-clear or sets REFUSED. -/
  | grantClear (a : Actor) (n : NicheNum) (v : W64)
  /-- GRANT_CLEAR_DONE (R396). The selected parts of the grant-clear have been performed and DONE is set. -/
  | grantClearDone (n : NicheNum)
  /-- CONTEXT_PLACE (R397). A context with no state on a region is placed there when released work. -/
  | contextPlace (region : RegionNum) (n : NicheNum) (ctx : BitVec 4)
  /-- SLICE_END (R398). A context's time slice on a region ends, pre-empting it if another context waits. -/
  | sliceEnd (region : RegionNum)
  /-- SAVE_COMPLETE (R403). The save image of a region is written and the region becomes free. -/
  | saveComplete (region : RegionNum)
  /-- RESTORE (R399). The device restores the chosen saved context on a free region. -/
  | restore (region : RegionNum)
  /-- SUSPEND (R400). Setting SUSPEND pre-empts a context on every region and keeps it off. -/
  | suspend (a : Actor) (n : NicheNum) (ctx : BitVec 4)
  /-- HELLO (R418). A received HELLO negotiates the version and checks identities and INCARNATION. -/
  | hello (port : PortNum) (h : HelloRec)
  /-- CREDIT (R427). A CREDIT record returns units to a channel and sub-lane. -/
  | credit (port : PortNum) (n : NicheNum) (channel : BitVec 8) (sys dl : Bool) (units : BitVec 16)
  /-- REPLAY (R422). A REPLAY record makes the sender resend from the expected SEQ. -/
  | replay (port : PortNum) (seq : BitVec 10)
  /-- TIME (R441). A TIME record gives the one-way delay and steers a Trestle-sourced timeline. -/
  | time (port : PortNum) (t1 t2 t3 t4 : W64)
  /-- BOOK (R443). A BOOK record writes the peer port's booking entry. -/
  | book (port : PortNum) (idx : BitVec 10) (dir : Bool) (n : NicheNum) (channel : BitVec 8) (valid : Bool)
  /-- FLIT_REJECT (R422). A flit failing RS, parity or SEQ is discarded with later flits and a REPLAY is sent. -/
  | flitReject (port : PortNum)
  /-- RETRAIN_DONE (R423). A retrain ends and sending resumes at the oldest unacknowledged flit. -/
  | retrainDone (port : PortNum) (ok : Bool)
  /-- PORT_ENABLE (R418). Setting a port's ENABLE starts PHY training. -/
  | portEnable (a : Actor) (port : PortNum) (v : W64)
  /-- PORT_RETRAIN (R423). The RETRAIN bit starts a retrain of the port. -/
  | portRetrain (a : Actor) (port : PortNum)
  /-- READ (R437). A READ packet is performed at the home if admitted, else answered DENIED. -/
  | read (port : PortNum) (p : Packet)
  /-- WRITE (R436). A WRITE packet is performed at the home and acknowledged. -/
  | write (port : PortNum) (p : Packet)
  /-- ATOMIC (R436). An ATOMIC packet is performed at the remote home. -/
  | atomic (port : PortNum) (p : Packet)
  /-- RESP (R436). A RESP returns data or status to the requester. -/
  | resp (port : PortNum) (p : Packet)
  /-- ACK (R436). An ACK completes a remote write. -/
  | ack (port : PortNum) (p : Packet)
  /-- CONTRIB_PACKET (R354). A contribution reaches the armature for a fabric-level addition. -/
  | contribPacket (port : PortNum) (p : Packet)
  /-- FENCE (R438). A FENCE packet sets a fence if admitted, else is answered DENIED. -/
  | fence (port : PortNum) (p : Packet)
  /-- LEASE (R439). A LEASE packet grants or returns a zeroed 2 MiB frame. -/
  | lease (port : PortNum) (p : Packet)
  /-- ASSIGN (R434). An ASSIGN packet gives the device its identifier while ID_VALID is 0. -/
  | assign (port : PortNum) (p : Packet)
  /-- CHANNEL_RECLAIM (R428). A channel idle for 1 ms with credits returned has its buffer share reclaimed. -/
  | channelReclaim (port : PortNum) (n : NicheNum) (channel : BitVec 8)
  /-- DEVICE_DEAD (R444). A target silent for 50 µs with a failing first hop is declared dead and its operations ended. -/
  | deviceDead (dev : BitVec 14)
  /-- TR_ID_WRITE (R434). A write to TR_ID sets the identifier while every port is disabled. -/
  | trIdWrite (a : Actor) (v : W64)
  /-- ROUTE_CONFIG_WRITE (R447). A write to ROUTE_MODE, TR_TORUS or TR_ROUTE takes effect only while every port is disabled. -/
  | routeConfigWrite (a : Actor) (which : BitVec 2) (dev : BitVec 14) (v : W64)
  /-- QCL_TRAINING (R450). QCL training completes and the port runs at the negotiated version. -/
  | qclTraining (peerMin peerMax : Byte)
  /-- QCL_REPLAY (R452). A rejected QCL flit is replayed. -/
  | qclReplay
  /-- QCL_RETRAIN (R452). A QCL retrain, caused or requested, ends with the port up or QCL_LOST. -/
  | qclRetrain (requested ok : Bool)
  /-- HOST_ACCESS (R453). A host access through an aperture acts as an external-stream access. -/
  | hostAccess (func : BitVec 7) (aperture : Bool) (off : BitVec 48) (bytes : Nat) (wr : Option W64)
  /-- HOST_LINE_REQUEST (R462). The host requests a window line, recalling the least recent one when the directory is full. -/
  | hostLineRequest (line : BitVec 48) (excl : Bool)
  /-- HOST_WRITEBACK (R464). A host write-back of a window line arrives and answers any recall. -/
  | hostWriteback (line : BitVec 48) (data : List Byte)
  /-- RECALL_TIMEOUT (R463). A recall unanswered for 100 µs poisons the line. -/
  | recallTimeout (line : BitVec 48)
  /-- MSG_UNMASK (R465). Clearing MASK while PENDING sends one message. -/
  | msgUnmask (a : Actor) (m : BitVec 12) (v : W64)
  /-- QCL_WIN_WRITE (R470). A write to a window register is ignored while the directory holds its lines. -/
  | qclWinWrite (a : Actor) (w : BitVec 4) (v : W64)
  /-- GET_VERSION (R533). SPDM GET_VERSION request. -/
  | getVersion
  /-- GET_CAPABILITIES (R533). SPDM GET_CAPABILITIES request. -/
  | getCapabilities
  /-- NEGOTIATE_ALGORITHMS (R533). SPDM NEGOTIATE_ALGORITHMS accepting only Ed448 and SHA3-512. -/
  | negotiateAlgorithms
  /-- GET_DIGESTS (R533). SPDM GET_DIGESTS request. -/
  | getDigests
  /-- GET_CERTIFICATE (R533). SPDM GET_CERTIFICATE returning slot 0. -/
  | getCertificate
  /-- CHALLENGE (R533). SPDM CHALLENGE signed with the alias key. -/
  | challenge
  /-- GET_MEASUREMENTS (R534). SPDM GET_MEASUREMENTS returning the measurement blocks. -/
  | getMeasurements
  /-- DEVICE_FATAL_RECOVERY (R479). A DEVICE_FATAL error runs the recovery sequence to service or holds under R481. -/
  | deviceFatalRecovery (cause : Byte) (dimms : List Nat)
  /-- FIRMWARE_WATCHDOG (R472). A management core missing its 100 ms watchdog is a DEVICE_FATAL error. -/
  | firmwareWatchdog
  /-- REGULATOR_FAULT (R472). A region regulator trip is a DEVICE_FATAL error. -/
  | regulatorFault (region : RegionNum)
  /-- ERR_RELEASE (R478). GO makes a FAULTED context EMPTY. -/
  | errRelease (a : Actor) (v : W64)
  /-- ERROR_INJECT (R486). Arming ERR_INJECT makes the next access at the selected place find the error. -/
  | errorInject (a : Actor) (v : W64)
  /-- PATINA_SECOND (R488). Each second of power-on time firmware adds histogram bins and counter increases. -/
  | patinaSecond (p : PatSample)
  /-- MARGIN_PROBE (R491). A margin probe steps the region voltage down until a slack monitor warns. -/
  | marginProbe (region : RegionNum) (p : ProbeRun)
  /-- LIFETIME_SET (R500). Every 600 s firmware signs and journals a LIFETIME set. -/
  | lifetimeSet
  /-- SHUTDOWN_REQ (R501). Setting SHUTDOWN_REQ journals a final set and sets SHUTDOWN_DONE. -/
  | shutdownReq (a : Actor)
  /-- JOURNAL_FAULT (R502). A flash write or erase failure buffers records and sets JOURNAL_FAULT. -/
  | journalFault (status : W64)
  /-- PATINA_READ_LATEST (R505). A read of the latest journalled LIFETIME record of a location. -/
  | patinaReadLatest (smb : Bool)
  /-- PATINA_READ_BY_SEQ (R505). A read of a location's record with a given SEQ. -/
  | patinaReadBySeq (smb : Bool)
  /-- PATINA_READ_LIVE (R505). A read of a live LIFETIME record signed at the request. -/
  | patinaReadLive (smb : Bool)
  /-- SMBUS_SELECT (R505). SMBus command 0x40 selects a location and record. -/
  | smbusSelect (d : Byte) (seq : W64)
  /-- SMBUS_STATUS (R551). SMBus command 0x41 returns DONE, NOT_FOUND and length and releases SMB_ALERT_N. -/
  | smbusStatus
  /-- SMBUS_READ_CHUNK (R505). SMBus command 0x42 returns record bytes from an offset. -/
  | smbusReadChunk (off : BitVec 16)
  /-- FRIEZE_ARM (R517). Changing ARM from 0 to 1 discards the buffer and re-arms it. -/
  | friezeArm (a : Actor) (region : RegionNum) (v : W64)
  /-- FRZ_TRIGGER_WRITE (R513). A write to FRZ_TRIGGER triggers the selected regions. -/
  | frzTriggerWrite (a : Actor) (v : W64)
  /-- TRIG_TICK (R513). A region copy reaching TRIG_TICK triggers the region. -/
  | trigTick (region : RegionNum)
  /-- SINK_COPY (R512). In STREAM mode a record is copied to the sink ring and leaves the buffer. -/
  | sinkCopy (region : RegionNum)
  /-- TIME_SYNC (R511). A region writes a TIME_SYNC record when 2^34 ticks have passed since its last. -/
  | timeSync (region : RegionNum)
  /-- PERST_N_DEASSERT (R545). PERST_N deasserted with rails good starts the power-up sequence. -/
  | perstNDeassert (p : PowerUp)
  /-- PERST_N_ASSERT (R546). PERST_N asserted puts the device in power-on reset at once. -/
  | perstNAssert
  /-- SUPPLY_FAULT (R546). A rail outside its window for over 1 µs causes power-on reset. -/
  | supplyFault (rail : BitVec 4) (mv : Nat) (ns : Nat)
  /-- VERSION (R539). Mailbox VERSION negotiates the mailbox version. -/
  | version
  /-- CLAIM (R536). Mailbox CLAIM moves the device to hosted mode. -/
  | claim
  /-- RELEASE (R536). Mailbox RELEASE returns the device to memory-donor mode. -/
  | release
  /-- RESET (R523). Mailbox RESET performs a recovery reset. -/
  | reset (dimms : List Nat)
  /-- FLASH_WRITE (R540). Mailbox FLASH_WRITE writes into a non-running image slot. -/
  | flashWrite
  /-- SET_BOOT (R529). Mailbox SET_BOOT sets PREF and TRIAL for a valid slot. -/
  | setBoot
  /-- CONFIRM (R529). Mailbox CONFIRM clears TRIAL and TRIES. -/
  | confirm
  /-- COMMIT_SVN (R528). Mailbox COMMIT_SVN blows MIN_SVN up to the running SVN. -/
  | commitSvn
  /-- POWER_CAP (R558). Mailbox POWER_CAP sets the package power cap. -/
  | powerCap
  /-- GET_CERT (R532). Mailbox GET_CERT returns a die's Patina certificate. -/
  | getCert
  /-- POWER_CAP_CONTROL (R558). Every 1 ms firmware compares average power with the cap and steps region clocks. -/
  | powerCapControl (watts : Nat)
  /-- THERMAL_CONTROL (R559). Firmware steps a region down or up on its junction temperature. -/
  | thermalControl (region : RegionNum) (temp : BitVec 12)
  /-- THERMAL_TRIP (R560). A junction at 105 °C or an HBM4 catastrophic report trips the device and puts regions in OFF. -/
  | thermalTrip
  /-- HBM_REPAIR (R26). Firmware performs post-package repair of a row inside an HBM4 stack and records an HBM_REPAIR Patina event. -/
  | hbmRepair (stack : BitVec 4) (row : W64)
  /-- MEMORY_PATROL_SCRUB (R472). The patrol scrubber of the shelf, HBM4 or bulk tier reads a word, correcting and writing back or poisoning it. -/
  | memoryPatrolScrub (pa : BitVec 48) (f : EccFind)
  /-- MESH_FLIT_REJECT (R472). A plinth mesh flit with a parity mismatch is replayed, which is MESH_REPLAY, and after eight failed replays it becomes MESH_UE. -/
  | meshFlitReject (link : BitVec 8) (again : Bool)
  /-- FLIT_ACCEPT (R422). A flit with the expected SEQ is accepted in order, its ACK frees the peer's replay buffer, and the receiver regains its footing after a replay. -/
  | flitAccept (port : PortNum) (seq : BitVec 10) (ack : FlitIn)
  /-- HOST_RECALL_ANSWER (R461). The host answers a recall or invalidation of a window line that it held shared, letting the waiting device access proceed. -/
  | hostRecallAnswer (line : BitVec 48)
  /-- RESTORE_COMPLETE (R403). The save image of a context has been read back onto a region, the context's engines resume or a poisoned word makes it FAULTED, and Frieze records the end. -/
  | restoreComplete (region : RegionNum)
  /-- JOURNAL_FAULT_CLEARED (R502). Flash works again, so firmware writes the buffered records out in signing order, writes a JOURNAL_FAULT event and clears JOURNAL_FAULT. -/
  | journalFaultCleared
  /-- SMBUS_ALERT_RESPONSE (R551). The SMBus controller performs the alert response, and the device releases SMB_ALERT_N. -/
  | smbusAlertResponse
  /-- RESERVED_OPCODE (R361). The dispatcher starts a command entry with a reserved opcode, which ends with INVALID, DETAIL 3, and halts its queue. -/
  | reservedOpcode (q : QueueNum)
  /-- RESERVED_COMMAND_KIND (R217). The ME or the DE starts a command whose KIND is reserved, which raises CMD_INVALID. -/
  | reservedCommandKind (core : CoreNum) (de : Bool)
deriving DecidableEq, Repr

end Sys2Proof
end

