-- ==== Sys2Proof/Config.lean ====
section
/-! DEFINITION. What an implementation fixes and what the manual leaves open: constants with no body, so that nothing
in Lean can evaluate them and a statement about one holds whatever it is (R2, R3; assumption log, 4). -/

namespace Sys2Proof.Config

/-- The byte an unpredictable location holds: by the seed of its range and its address (R51, R82, R107, R480). -/
opaque freeByte : Nat → Nat → BitVec 8
/-- The n-th unpredictable 64-bit value. -/
opaque freeWord : Nat → BitVec 64
/-- The n-th unpredictable 32-bit value of a register file: seed and register (R108). -/
opaque freeReg : Nat → Nat → BitVec 32
/-- An unpredictable spill value: seed and place (R245). -/
opaque freeSpill : Nat → Nat → BitVec 80
/-- An unpredictable tile value: seed and place (R51). -/
opaque freeTile : Nat → Nat → BitVec 40
/-- The n-th open yes-or-no. -/
opaque freeBit : Nat → Bool
/-- The n-th open choice among several. -/
opaque freeNat : Nat → Nat
/-- The difference of at most one tick between a region copy and the plinth copy after a re-sync (R49, R55): 0, 1 or 2 stand for -1, 0, 1. -/
opaque skew : Nat → Fin 3

/-- DISC_ID.STEPPING, per silicon. -/
opaque stepping : BitVec 8
/-- The ECC syndrome of an error in a word (table Record detail: nonzero, encoding not published), less 1. -/
opaque syndrome : Nat → Fin 255
/-- The unique device secret (R525). -/
opaque uds : List (BitVec 8)
/-- The serial number of a die (table Plinth and die fuses), or of a stack (IDENT). -/
opaque serial : Nat → BitVec 64
/-- The stepping byte of a die (IDENT). -/
opaque dieStepping : Nat → BitVec 8
/-- Umapel's manufacturer identity, as IDCODE holds it (R553). -/
opaque manufacturer : BitVec 11
/-- The ROM's measurement input (R534 index 1). -/
opaque romBytes : List (BitVec 8)
/-- SHAKE256 (FIPS 202): first n bytes of the hash of a byte string. -/
opaque shake256 : List (BitVec 8) → Nat → List (BitVec 8)
/-- The Ed448 public key of a 57-byte private key (RFC 8032). -/
opaque ed448Public : List (BitVec 8) → List (BitVec 8)
/-- Ed448ph signature with a context (RFC 8032): key, context, message. -/
opaque ed448phSign : List (BitVec 8) → String → List (BitVec 8) → List (BitVec 8)
/-- Whether an Ed448ph signature that the key's holder did not make verifies (RFC 8032, R506): public key, context, message, signature. -/
opaque ed448phVerify : List (BitVec 8) → String → List (BitVec 8) → List (BitVec 8) → Bool
/-- Whether an Ed448 signature verifies against boot-ROM key k, with a context (R528). -/
opaque ed448Verify : Nat → String → List (BitVec 8) → List (BitVec 8) → Bool
/-- The DER bytes of the X.509 certificate of the Patina key of a location under MIN_SVN (R532). -/
opaque patinaCert : Nat → Nat → List (BitVec 8)
/-- The SPDM 1.2 response to a request, an ERROR among them where neither Ed448 nor SHA3-512 is offered: request code, request bytes, what was exchanged before, the measurement blocks (R533, R534). -/
opaque spdmResponse : Nat → List (BitVec 8) → List (List (BitVec 8)) → List (BitVec 8) → List (BitVec 8)
/-- Lane eye margins of a location (table Sensor inventory): location, lane, power-on second. -/
opaque eyeMargin : Nat → Nat → Nat → BitVec 64
/-- Regulator output current of a region (PAT_SENSOR): region, power-on second. -/
opaque regCurrent : Nat → Nat → BitVec 12
/-- Repair resources left as a stack reports them (REPAIRS). -/
opaque repairLeft : Nat → Nat → BitVec 32
/-- Where an offset of aperture 1 of a profile function lies, by the ranges (base, bytes) of its niche's memory: a local physical address, outside all of them where it maps nothing (table Apertures names the ranges, not their order). -/
opaque jexlorPlace : List (Nat × Nat) → Nat → Nat

end Sys2Proof.Config
end

