-- ==== Sys2Proof/Machine/State.lean ====
section
/-! DEFINITION. What the block holds: every register, queue, buffer, counter, mode and pin that the spec gives the
device, as plain data, and the queue of waiting commands. A field's default is its value at power-on reset
(Reset columns of the register tables, R14); INVENTORY.md lists each with its rule. -/

namespace Sys2Proof.Machine

/-- Why the block stops with a fault. -/
inductive Fault where
  /-- Raised by SUPPLY_FAULT when a rail passes an absolute maximum rating: R555 says that damage may result
  and that no rule of the manual holds. Safe: the model claims nothing beyond it. -/
  | beyondAbsoluteMaximum (rail : BitVec 4)
deriving DecidableEq, Repr

/-- Why a command has no meaning in the model. -/
inductive Refusal where
  /-- An arm of `exec` that has no meaning yet names its row. Safe. -/
  | notModelled (mnemonic : String)
deriving DecidableEq, Repr

/-- A finite map: pairs of key and value, keys rising. -/
abbrev Sparse (α : Type) := List (Nat × α)

/-- A byte store. `cells` lists (address, byte), addresses rising, and lists no zero outside the ranges of
`havoc`; `havoc` lists the ranges (base, length, seed) whose contents became unpredictable, newest first;
`poison` lists, rising, the aligned 64-bit words whose poison bit is set (R77). -/
structure Memory where
  cells : List Host.Cell := []
  havoc : List (Nat × Nat × Nat) := []
  poison : List Nat := []
deriving DecidableEq, Repr

/-- Where an access goes after translation (R255): a local physical address of this device, a physical address
of another device, or host memory. -/
inductive Tgt where
  | dev (pa : Nat)
  | remote (device : BitVec 14) (pa : Nat)
  | host (pa : Nat)
deriving DecidableEq, Repr

/-! ## Timeline (02_timeline.md) -/

/-- The timeline block. -/
structure Timeline where
  /-- TL_NOW, the plinth copy (R42). -/
  now : W64 := 0
  /-- TL_STATUS.STATE: FREE 0, ACQUIRE 1, LOCKED 2, HOLDOVER 3. -/
  state : BitVec 3 := 0
  sourceLost : Bool := false
  stepped : Bool := false
  depthExceeded : Bool := false
  hops : BitVec 6 := 0
  phaseErr : BitVec 16 := 0
  /-- TL_CONTROL: SOURCE [1:0], PORT [7:2], LOAD_ARM [8]. -/
  control : W64 := 0
  /-- TL_LOAD. -/
  load : W64 := 0
  /-- Consecutive measurements within 8 ticks, toward LOCKED (table Timeline states). -/
  goodRun : Nat := 0
  /-- Consecutive measurements above 8 ticks while LOCKED (R48). -/
  badRun : Nat := 0
  /-- Tick of the last valid TPPS edge; none until the first one after the board source is selected (R549). -/
  lastEdge : Option W64 := none
  /-- External time (ns) of the last valid input of the source, and of the entry to HOLDOVER (R48). -/
  lastInput : Nat := 0
  holdSince : Nat := 0
  /-- Ticks still to be slewed, signed (R45). -/
  slew : Int := 0
  /-- Nanoseconds until the next slewed tick is permitted (R45: at most 100 ticks per millisecond). -/
  slewWait : Nat := 0
  /-- Port booking tables, key port * 1024 + slot index, the entry in force (R64). -/
  portBook : Sparse W32 := []
  /-- Region booking tables, key region * 1024 + slot index (R64). -/
  regionBook : Sparse W32 := []
  /-- Entries written in the present frame, in force from the next (R58): table (false port, true region), key, entry, frame written. -/
  bookNext : List (Bool × Nat × W32 × Nat) := []
deriving DecidableEq, Repr

/-! ## A core (03_core.md to 09_accumulation.md, 11 to 13) -/

/-- A stopped, waiting or free place of a thread at the barriers of R116 to R118. -/
inductive Arrival where
  | no | group | block
deriving DecidableEq, Repr

/-- One VE thread: its program counter, predicates p0 to p7 (bit 0 reads as 1, R71), its state at a barrier,
whether it exited, its SR count (R160) and its first lost store (R305). -/
structure Thread where
  pc : W64 := 0
  preds : Byte := 0
  arrived : Arrival := .no
  exited : Bool := false
  srCount : BitVec 48 := 0
  lost : Option W64 := none
deriving DecidableEq, Repr

/-- One resident group of 32 threads in a group slot. -/
structure Group where
  /-- Logical GROUP (R103). -/
  index : Nat := 0
  /-- The block slot that holds its block. -/
  blockSlot : Nat := 0
  /-- REGS of the launch, N of R72. -/
  regs : Nat := 8
  threads : List Thread := []
  /-- Vector registers written since admission, key lane * 256 + register; the others hold the free values of `seed` (R108). -/
  vregs : Sparse W32 := []
  seed : Nat := 0
  /-- The model's own count of its issues: a register that holds a free value may read differently at each (R3). -/
  draw : Nat := 0
  /-- last_pc and streak of R112. -/
  lastPc : W64 := 0
  streak : Nat := 0
  /-- Queued on a core or niche semaphore (R323). -/
  semWait : Bool := false
  /-- Tick of the first arrival at the waiting SYNC.G barrier (R120). -/
  barStart : Option W64 := none
  /-- Region cycle at which its threads began to wait at a barrier (R520). -/
  barCyc : Option W64 := none
deriving DecidableEq, Repr

/-- One resident block in a block slot: its BLOCK, its drawer allocation (R107) and its SYNC.B barrier. -/
structure BlockRes where
  block : Nat := 0
  base : Nat := 0
  kib : Nat := 0
  barStart : Option W64 := none
deriving DecidableEq, Repr

/-- An engine queue entry (table Engine entry): the words it carries, and the launch that wrote it. -/
structure EngineEntry where
  kind : Eng
  node : Nat
  maquette : BitVec 12
  niche : NicheNum
  bank : Bool
  super : Bool
  /-- Word 1: entry address, or command [63:0]. -/
  word1 : W64
  /-- Word 2: SR seed, RANK and RANKS, or command [127:64]. -/
  word2 : W64
  /-- Word 3: the launch shape of a VE entry. -/
  word3 : W64
  /-- Word 4: the block range of a VE entry. -/
  word4 : W64
  /-- Word 5: STREAM_KIB and GRANTS. -/
  word5 : W64
  bankPa : BitVec 62
  window : W64
  /-- The launch and rank that the dispatcher wrote it for. -/
  launch : Nat
  rank : Nat
deriving DecidableEq, Repr

/-- Who waits in the queue of a core semaphore (R324). -/
inductive SemWho where
  | se
  | ve (slot : BitVec 5)
  | me
  | de
  /-- A block-list entry of the DE (R342). -/
  | deBlock
deriving DecidableEq, Repr

/-- A queued waiter: its count, the lanes of a group that wait, the tick and the region cycle at which it queued. -/
structure Waiter where
  who : SemWho
  need : Nat
  lanes : List Nat := []
  since : W64 := 0
  cyc : W64 := 0
deriving DecidableEq, Repr

/-- A core hardware semaphore (R321 to R326). -/
structure HwSem where
  count : Nat := 0
  overflow : Bool := false
  queue : List Waiter := []
deriving DecidableEq, Repr

/-- The issuer of a matrix or DMA command (R143). -/
inductive Issuer where
  | insn (pc : W64)
  | entry (node : Nat) (maquette : BitVec 12)
deriving DecidableEq, Repr

/-- A 128-bit command in an issue FIFO (R68). -/
structure FifoCmd where
  lo : W64
  hi : W64
  issuer : Issuer
  launch : Nat
  rank : Nat
  node : Nat
  super : Bool
  /-- Its WAIT_SEM count has been taken (R218, R334). -/
  taken : Bool := false
  /-- It is queued on its WAIT_SEM. -/
  waiting : Bool := false
deriving DecidableEq, Repr

/-- A column group's write of one tile row that waits for its grant (R210): its columns, the writes (a block's codes and its scale
byte are one grant), and what the row adds to a statistics record (R223). -/
structure Granule where
  col : Nat
  cols : Nat
  writes : List (Nat × List Byte)
  stat : Option (Nat × List Nat) := none
deriving DecidableEq, Repr

/-- The shadow weights of a chunk (R206): for each of its blocks and columns the code bytes and the scale byte as they were read, and
the first poisoned word met. -/
structure Shadow where
  blocks : List (List Byte × Option Byte)
  bad : Option Nat := none
deriving DecidableEq, Repr

/-- A matrix command that has started: its chunk position, the shadow weights of its next chunk (R206), the rows its drain has read
and has in all, and the column-group writes that wait for a grant (R210). -/
structure MeRun where
  cmd : FifoCmd
  chunk : Nat
  chunks : Nat
  shadow : Option Shadow := none
  row : Nat := 0
  rows : Nat := 0
  writes : List Granule := []
  /-- The drain record, read once at the start (R221). -/
  record : List Byte := []
  /-- Every range of the drawer the command writes (R143), and the region cycle at which it started (R520). -/
  dest : List (Nat × Nat) := []
  since : W64 := 0
deriving DecidableEq, Repr

/-- A part of a block, within one page at either end: its source (none for FILL), destination and bytes, and the niche
virtual addresses of its ends where they have one. -/
structure Piece where
  src : Option Tgt
  dst : Tgt
  len : Nat
  srcVa : Option Nat := none
  dstVa : Option Nat := none
deriving DecidableEq, Repr

/-- A started block of a block list, until its signal is given (R339, R342): its entry's words and its parts, translated
when it starts. -/
structure DeBlock where
  index : Nat
  w0 : W64 := 0
  w1 : W64 := 0
  w2 : W64
  w3 : W64
  pieces : List Piece := []
  /-- Its requests so far: parts issued, and parts done before a pre-emption (R343); its parts must be translated again. -/
  issued : Nat := 0
  done : Nat := 0
  stale : Bool := false
  performed : Bool := false
deriving DecidableEq, Repr

/-- A LIST or CONTRIB in progress on the DE. -/
structure DeRun where
  cmd : FifoCmd
  isList : Bool
  space : Bool
  addr : Nat
  count : Nat
  next : Nat
  /-- Anchor slot of R350. -/
  anchor : Nat
  blocks : List DeBlock
  /-- The next entry has taken its WAIT_SEM count. -/
  taken : Bool := false
  waiting : Bool := false
  /-- Entries counted late (R351). -/
  late : List Nat := []
  /-- The region left RUN while the LIST ran (R352). -/
  leftRun : Bool := false
  /-- Entries read ahead of their start (R341); none where another device did not give the entry. -/
  ahead : List (Nat × Option (List Byte)) := []
  /-- Where the blocks started so far write (R143). -/
  wrote : List (Tgt × Nat) := []
deriving DecidableEq, Repr

/-- One lane's part of a store, load or remote access. -/
structure LaneAcc where
  lane : Nat
  va : Nat
  tgt : Tgt
  cache : Bool
  bytes : List Byte
  /-- Its place in the orders in which its core's mesh port and its region's plinth node accepted it (R292); 0 before. -/
  port : Nat := 0
  node : Nat := 0
  /-- The exception that a lane of a load has met: code and DETAIL. -/
  bad : Option (Nat × W64) := none
  /-- The scope of an LD.ACQ. -/
  scope : BitVec 3 := 0
deriving DecidableEq, Repr

/-- A store-buffer entry (R300); `slot` is none for the SE. -/
structure StoreEntry where
  slot : Option (BitVec 5)
  /-- The address of its instruction. -/
  pc : W64 := 0
  /-- The stream that issued it: a group by the seed of its registers (a later group may hold the slot), the SE by its entry's number. -/
  gid : Nat := 0
  lanes : List LaneAcc
  /-- Its place in the order of issue. -/
  num : Nat := 0
  /-- The scope of an ST.REL. -/
  rel : Option (BitVec 3) := none
  /-- It is a store of every active thread of its group: a QST or a QCVT (R300). -/
  all : Bool := false
  /-- The statistics record that it updates: its drawer offset, and what is added to its eight fields (R186, R189). -/
  stat : Option (Nat × List Nat) := none
  /-- A load of another thread has returned bytes from it (R301). -/
  seen : Bool := false
deriving DecidableEq, Repr

/-- The operand and the expected value of a lane of an atomic. -/
structure AtomLane where
  lane : Nat
  operand : W64
  expected : W64
deriving DecidableEq, Repr

/-- A word that an atomic operates on, with its lanes in order (R317). -/
structure AtomWord where
  tgt : Tgt
  lanes : List AtomLane
deriving DecidableEq, Repr

/-- A load or atomic outstanding (R70, R281): its number, destination, width, extension, whether it is an LD.ACQ, and
the lanes' accesses, whose bytes are empty until their data arrive. -/
structure LoadEntry where
  id : Nat
  /-- Its place in the order of issue. -/
  num : Nat := 0
  /-- Registers, by lane, that a later instruction of the stream has written: its data do not reach them (R564). -/
  skip : List (Nat × Nat) := []
  /-- An ATOM: the FN and the words that are still to be sent to another device. -/
  atom : Option (Nat × List AtomWord) := none
  slot : Option (BitVec 5)
  acq : Bool := false
  dst : Option Byte
  size : Nat
  sx : Bool
  pc : W64
  lanes : List LaneAcc
deriving DecidableEq, Repr

/-- A slice of a transcendental instruction in the unit (R94). -/
structure XfSlice where
  slot : BitVec 5
  dst : Byte
  results : List (Nat × W32)
  flags : Byte
deriving DecidableEq, Repr

/-- A stream that stored into a cache line: SE or group slot, its number, its lane. -/
structure Writer where
  slot : Option (BitVec 5)
  gid : Nat
  lane : Nat
deriving DecidableEq, Repr

/-- A line of a cache: its line address (with the device field of R36), its 64 bytes, the three copies of its valid and of its
dirty bit (R87), its words by number whose parity does not match (of 32 bits in the data cache, of 64 in the instruction cache),
its poisoned words by number 0 to 7, and the streams whose stores made it dirty (R305). -/
structure CacheLine where
  addr : Nat
  data : List Byte
  valid3 : BitVec 3 := 7
  dirty3 : BitVec 3 := 0
  badParity : List Nat := []
  poison : List Nat := []
  writers : List Writer := []
deriving DecidableEq, Repr

/-- Why the data cache is being written back whole: CORE_CONTROL.DCACHE_WBI (R90), the start or the end of a kernel of an
engine (R123, R124). -/
inductive FlushWhy where
  | wbi
  | start (isVe : Bool)
  | ending (isVe : Bool)
deriving DecidableEq, Repr

/-- The data cache (R83 to R90): lines by set * 4 + way, the replacement register L, the outstanding miss
(its line address and whether the VE made it) with its place at the mesh port, the write-back buffer, with the engine whose
miss filled it, and whether its line is on its way to another device, and the write-backs of the whole cache in progress. -/
structure DCache where
  lines : Sparse CacheLine := []
  lfsr : BitVec 16 := 1
  miss : Option (Nat × Bool) := none
  missPort : Nat := 0
  missNode : Nat := 0
  wb : Option CacheLine := none
  wbVe : Bool := false
  wbSent : Bool := false
  /-- The line of the miss, with its poisoned words, that another device has sent and that waits for the write-back buffer (R85). -/
  arrived : Option (List Byte × List Nat) := none
  flush : List FlushWhy := []
  ready : Bool := false
deriving DecidableEq, Repr

/-- The instruction cache (R91, R92): lines by set * 2 + way, and each set's least recently used way; and the word last fetched from
a line that may not be placed in it, with its address (R563). -/
structure ICache where
  lines : Sparse CacheLine := []
  lru : Sparse Nat := []
  loose : Option (Nat × W64) := none
  ready : Bool := false
deriving DecidableEq, Repr

/-- A translation-cache entry (R263): niche, the level of its leaf, the first virtual address, the leaf. -/
structure TcEntry where
  niche : NicheNum
  level : Nat
  va : Nat
  leaf : W64
deriving DecidableEq, Repr

/-- A pointer entry in a walker's cache (R263, R567): the level of the entry, the first address it covers, the local address of the
table it names. -/
structure PtrEntry where
  niche : NicheNum
  level : Nat
  va : Nat
  next : Nat
deriving DecidableEq, Repr

/-- The scalar engine. -/
structure Se where
  /-- s1 to s63 that hold a value other than zero at entry start (R374); s0 reads zero (R71). -/
  sregs : Sparse W64 := []
  preds : Byte := 0
  pc : W64 := 0
  entry : Option EngineEntry := none
  /-- The entry's kernel may issue: its start of R123 has been made. -/
  running : Bool := false
  /-- The entry ended (EXIT) and its kernel-end operations are due (R124). -/
  ended : Bool := false
  /-- Kernel-end write-backs acknowledged: the entry may complete. -/
  drained : Bool := false
  semWait : Bool := false
  flags : Byte := 0
  lost : Option W64 := none
  /-- The number of its stream: of the entry that runs. -/
  gid : Nat := 0
  buffer : List StoreEntry := []
deriving DecidableEq, Repr

/-- The vector engine. -/
structure Ve where
  entry : Option EngineEntry := none
  /-- The launch entry has started (R109) and its shape was accepted. -/
  started : Bool := false
  running : Bool := false
  ended : Bool := false
  drained : Bool := false
  /-- The next block to admit and the end of the range (R104, R373). -/
  nextBlock : Nat := 0
  endBlock : Nat := 0
  groups : Sparse Group := []
  blocks : Sparse BlockRes := []
  lastSlot : Nat := 31
  /-- The region cycle in which the group of a slot issued last. -/
  issuedAt : Sparse W64 := []
  flags : Byte := 0
  /-- The first lost store of a thread that has exited (R307), and the EXIT last executed: logical group, block, lane, address. -/
  lost : Option W64 := none
  /-- The least number that a group of the running entry can have. -/
  gid : Nat := 0
  lastExit : Nat × Nat × Nat × W64 := (0, 0, 0, 0)
  buffer : List StoreEntry := []
  xf : List XfSlice := []
deriving DecidableEq, Repr

/-- The matrix engine: its issue FIFO, the commands started and not complete (oldest first), its tiles by row * 32 + column, its
flags. -/
structure Me where
  fifo : List FifoCmd := []
  runs : List MeRun := []
  t0 : Sparse X40 := []
  t1 : Sparse X40 := []
  /-- When present, unlisted tile values are free values of this seed (R51); else +0. -/
  seed : Option Nat := none
  flags : Byte := 0
deriving DecidableEq, Repr

/-- The DMA engine. -/
structure De where
  fifo : List FifoCmd := []
  run : Option DeRun := none
  /-- Its lost-store flags by launch, with the first address (R345). -/
  lost : Sparse W64 := []
deriving DecidableEq, Repr

/-- A core: engines, engine queues (16 entries each, table Front-end limits), semaphores, caches, registers. -/
structure Core where
  se : Se := {}
  ve : Ve := {}
  me : Me := {}
  de : De := {}
  seQ : List EngineEntry := []
  veQ : List EngineEntry := []
  meQ : List EngineEntry := []
  deQ : List EngineEntry := []
  sems : Sparse HwSem := []
  dc : DCache := {}
  ic : ICache := {}
  tc : List TcEntry := []
  /-- Loads outstanding of both engines, oldest first. -/
  loads : List LoadEntry := []
  /-- Stores that left a buffer into the mesh and are not yet acknowledged, oldest first. -/
  storesOut : List StoreEntry := []
  /-- CORE_CONTROL: SE_HOLD to DE_HOLD [3:0], DCACHE_WBI [4], ICACHE_INV [5], SCRUB_EN [6]. -/
  control : W64 := 0x40
  /-- CORE_STATUS.FAILED. -/
  failed : Bool := false
  /-- CORE_ERR_COUNT. -/
  drawerCe : BitVec 16 := 0
  cacheRefetch : BitVec 16 := 0
  regReplay : BitVec 16 := 0
  /-- Reads that a parity mismatch on the core's data paths spoils: 1, the read and not its replay; 2, both (text after R74). No
  command makes one: it is a fault from outside. -/
  pathBad : BitVec 2 := 0
  drawerUe : BitVec 16 := 0
  /-- DRAWER_ECC_LOG. -/
  eccOff : BitVec 17 := 0
  eccScrub : Bool := false
  eccOverflow : Bool := false
  eccValid : Bool := false
  /-- The region cycle in which the word of DRAWER_ECC_LOG was captured (R100). -/
  eccCycle : W64 := 0
  /-- Drawer words whose corrected value waits to be written back (R77). -/
  ceWait : List Nat := []
  /-- Self counters 0 to 12 (R520). -/
  self : Sparse W64 := []
deriving DecidableEq, Repr

/-! ## A region -/

/-- MX_SPILL_GRANT (R253). -/
structure Grant where
  valid : Bool := false
  coreIndex : BitVec 7 := 0
  niche : NicheNum := 0
  requested : Bool := false
  /-- The launch and node that hold it (R245). -/
  launch : Nat := 0
  node : Nat := 0
  rank : Nat := 0
deriving DecidableEq, Repr

/-- One 16-byte Frieze record. -/
structure FrzRec where
  w0 : W64
  w1 : W64
deriving DecidableEq, Repr

/-- Frieze of one region (20_frieze.md). -/
structure FrzRegion where
  /-- FRZ_CONTROL; ARM is 1 at reset. -/
  control : W64 := 0x80
  trigTick : W64 := 0
  fill : Nat := 0
  next : Nat := 0
  triggered : Bool := false
  frozen : Bool := false
  wrapped : Bool := false
  dropped : W32 := 0
  /-- FRZ_SINK; SIZE_LOG2 is 10 at reset. -/
  sink : W64 := 0x14
  sinkWrite : W32 := 0
  sinkRead : W32 := 0
  /-- Events dropped since the last LOSS record (R515). -/
  pendingLoss : Nat := 0
  /-- Records written at and since the trigger (table Buffer modes). -/
  afterTrig : Nat := 0
  /-- Tick of the last TIME_SYNC; none before the first record (R511). -/
  lastSync : Option W64 := none
  /-- Events of one or two records that wait in the staging, oldest first; and the records moved in the slot that moved one last
  (R515, R518). -/
  staged : List (List FrzRec) := []
  moved : Nat := 0
  movedSlot : Nat := 0
deriving DecidableEq, Repr

structure Region where
  /-- Pointer entries of the region's walker, oldest first (R263). -/
  ptrs : List PtrEntry := []
  /-- REG_CLOCK: STATE [2:0] (OFF at reset), STEP [5:3], DROOP_EN [6]. -/
  clock : W64 := 0x43
  /-- REG_CLOCK values of the transitions in progress, oldest first (R562). -/
  targets : List W64 := []
  cycles : W64 := 0
  /-- Phase of the region clock within a cycle, in MHz·ns, below 1,000. -/
  phase : Nat := 0
  droop : W64 := 0
  /-- The region's timeline copy (R49). -/
  tl : W64 := 0
  auditMismatches : W32 := 0
  auditChecks : W64 := 0
  feedStalls : W64 := 0
  drainStalls : W64 := 0
  grants : Sparse Grant := []
  /-- Spill values by grant * 1024 + row * 32 + column; unlisted values are free values of `spillSeed` (R245), or zero. -/
  spill : Sparse X80 := []
  spillSeed : Option Nat := some 0
  spillPoison : List Nat := []
  /-- Spill values with a single-bit error (R244), by the same number. No command sets one: the model draws no natural upset. -/
  spillBad : List Nat := []
  spillCe : W32 := 0
  spillUe : W32 := 0
  late : W32 := 0
  lateStretched : W32 := 0
  /-- The context that holds the region (R397): niche and context. -/
  holder : Option (NicheNum × BitVec 4) := none
  /-- The context that last ran there (R399). -/
  lastCtx : BitVec 4 := 0
  usedSinceClear : Bool := true
  /-- A pre-emption in progress, its save image not yet written (R401). -/
  preempting : Bool := false
  /-- A restore in progress: the context being read back (R403). -/
  restoring : Option (NicheNum × BitVec 4) := none
  /-- Tick at which the resident context's slice began (R398). -/
  sliceStart : W64 := 0
  /-- A holder resumption under way: holder context, waiting context, niche semaphore (R408). -/
  resumption : Option (BitVec 4 × BitVec 4 × BitVec 12) := none
  /-- The context to be restored ahead of every other (R408). -/
  first : Option (BitVec 4) := none
  /-- Tick at which the save or the restore in progress began (table Word 1 payloads, CONTEXT). -/
  moveStart : W64 := 0
  frz : FrzRegion := {}
  /-- PAT_SENSOR. -/
  temp : BitVec 12 := 0
  voltMv : BitVec 12 := 0
  current : BitVec 12 := 0
  lastMargin : BitVec 16 := 0xFFFF
  probeSkips : Nat := 0
  /-- The first of the 64 slot indices that firmware has booked for a margin probe, and the frame of the booking (R489). -/
  probeBook : Option (Nat × Nat) := none
  /-- The frame in which a probe was last started or skipped. -/
  probeFrame : Option Nat := none
  /-- Seconds of power-on time at the last probe of the region (R489). -/
  probedS : Nat := 0
  /-- The probe under way, when it started, V_op, and whether it was abandoned (R492). -/
  probe : Option (W64 × Nat × Bool) := none
  /-- Steps below 600 MHz that the power cap and the thermal control ask for (R558, R559). -/
  capStep : Nat := 0
  thermStep : Nat := 0
  /-- It reached 95 °C and has not yet fallen below 92 °C; samples since (R559). -/
  hot : Bool := false
  cool : Nat := 0
deriving DecidableEq, Repr

/-! ## Niches and placement -/

/-- A niche semaphore's waiter (R328). -/
structure NWaiter where
  core : CoreNum
  who : SemWho
  need : Nat
  lanes : List Nat := []
  since : W64 := 0
deriving DecidableEq, Repr

/-- A niche semaphore (R327), and the takes by which contexts hold it (R408). -/
structure NSem where
  count : Nat := 0
  overflow : Bool := false
  queue : List NWaiter := []
  /-- The least count that a take of each context has left since the context last signalled it (R408). -/
  takes : Sparse Nat := []
deriving DecidableEq, Repr

/-- A context of a niche. -/
structure Ctx where
  /-- NCTX_CONTROL: VALID, PRIORITY [2:1], SUSPEND [3]. -/
  control : W64 := 0
  /-- NCTX_SAVE. -/
  save : W64 := 0
  /-- NCTX_STATUS.STATE: EMPTY, RESIDENT, SAVED, FAULTED. -/
  state : BitVec 2 := 0
  preempts : W32 := 0
  /-- It has made its holder resumption in this slice (R409). -/
  resumed : Bool := false
deriving DecidableEq, Repr

/-- A hint in the niche's hint queue (R273): FN, address, length, issuing region. -/
structure Hint where
  fn : BitVec 5
  va : Nat
  len : Nat
  region : RegionNum
deriving DecidableEq, Repr

/-- What the placement unit knows of a page: samples by region, epochs without a sample, tier hint, COLD mark. -/
structure PageInfo where
  tally : Nat := 0
  byRegion : Sparse Nat := []
  idle : Nat := 0
  tierHint : Option (BitVec 2) := none
  cold : Bool := false
deriving DecidableEq, Repr

structure Niche where
  grant : W64 := 0
  /-- NICHE_CONTROL: SLICE_US 2,000, BARRIER_WD_US 10,000, FENCE_TIMEOUT_MS 1,000 at reset. -/
  control : W64 := 0x03E8_2710_07D0_0000
  excRing : W64 := 0xC
  excWrite : W32 := 0
  excRead : W32 := 0
  excDropped : W32 := 0
  interfLast : BitVec 16 := 0
  interfAvg : BitVec 16 := 0
  interfFrame : W32 := 0
  /-- NICHE_CLEAR: START, DONE, REGIONS, POOLS, STATE, REFUSED. -/
  clear : W64 := 0x1E
  /-- The parts that the grant-clear in progress performs (R396). -/
  clearing : Option (BitVec 3) := none
  /-- The zeros of the grant-clear to leased frames have been sent (R396). -/
  zeroSent : Bool := false
  profileId : W64 := 0
  ctxs : Sparse Ctx := []
  nplRoot : W64 := 0
  /-- NPL_POOL0 to NPL_POOL3 by index. -/
  pools : Sparse W64 := []
  /-- NPL_CONTROL: SHELF_EN and MIGRATE_EN at reset. -/
  nplControl : W64 := 5
  /-- NPL_SHOOT: START, DONE, ALL, VA_BASE. -/
  shoot : W64 := 2
  shootCount : W64 := 0
  /-- The virtual range of the invalidation in progress (R264): first address and bytes. -/
  shooting : Option (Nat × Nat) := none
  pinned : BitVec 24 := 0
  migrations : BitVec 16 := 0
  pinRefused : BitVec 16 := 0
  hints : List Hint := []
  pages : Sparse PageInfo := []
  nsems : Sparse NSem := []
  fences : Sparse W64 := []
deriving DecidableEq, Repr

/-- A migration in progress (R270). -/
structure Migration where
  niche : NicheNum
  va : Nat
  leafAddr : Nat
  oldFrame : BitVec 62
  newFrame : BitVec 62
  tier : BitVec 2
  bytes : Nat
  /-- Its copy over Trestle is under way (step 3 of R270). -/
  copying : Bool := false
deriving DecidableEq, Repr

/-- A backing whose zero fill of a frame on another device is not yet acknowledged (R268): the page and its frame. -/
structure Fill where
  niche : NicheNum
  va : Nat
  leafAddr : Nat
  frame : Nat
deriving DecidableEq, Repr

structure Placement where
  /-- PLACE_CONTROL at reset: MIGRATE_EN 1, SAMPLE_SHIFT 6, EPOCH_SLOTS 1,024, PROMOTE_THRESH 16, DEMOTE_EPOCHS 8, MIG_BW 2. -/
  control : W64 := 0x0A08_400D
  migrations : W32 := 0
  hintsDropped : BitVec 16 := 0
  migs : List Migration := []
  /-- Frames in use: niche, base (global physical), bytes. -/
  frames : List (NicheNum × Nat × Nat) := []
  /-- Frames of leases still held that a page has used: they are no longer zero (R268, R568). -/
  usedSlots : List Nat := []
  /-- Zero fills over Trestle under way. -/
  fills : List Fill := []
  /-- Niches whose last request for a leased frame was refused in this epoch (assumption log, 84). -/
  refused : List NicheNum := []
  /-- Accesses counted toward the next sample (R268, tallies). -/
  sampled : Nat := 0
deriving DecidableEq, Repr

/-- Context state saved for a region (R403): the cores as they stopped, and the tick of the save (R350). -/
structure SavedCtx where
  niche : NicheNum
  ctx : BitVec 4
  region : RegionNum
  tick : W64
  cores : List (Nat × Core)
deriving DecidableEq, Repr

/-! ## Front end (14_front_end.md) -/

/-- A started entry of a command queue. -/
structure QEntry where
  seq : W32
  words : List W64
  /-- The status and DETAIL decided for it, not yet written to word 7. -/
  outcome : Option (Byte × BitVec 7) := none
  /-- Its word 7 has been written. -/
  isFinal : Bool := false
  launch : Option Nat := none
  /-- Tick of its start, of a FENCE_WAIT (R387). -/
  since : W64 := 0
  /-- Commit tick (R371), for CW_STAMP. -/
  commit : W64 := 0
  /-- The target of an ABORT that waits on it. -/
  target : Option (QueueNum × W32) := none
  /-- A completion word was discarded (R381, R382). -/
  cwLost : Bool := false
  /-- Its completion word has left. -/
  cwSent : Bool := false
  /-- Parts of its source that other devices returned: offset, bytes, whether poisoned (R366, R376). -/
  got : List (Nat × List Byte × Bool) := []
deriving DecidableEq, Repr

structure Queue where
  /-- FE_SQ_BASE: ENABLE, HOST, BASE. -/
  base : W64 := 0
  /-- FE_SQ_CONFIG; SIZE_LOG2 is 4 at reset. -/
  config : W64 := 0x10
  head : W32 := 0
  tail : W32 := 0
  halted : Bool := false
  haltStatus : Byte := 0
  dbBad : Bool := false
  /-- Sequence number of the next entry to start. -/
  next : W32 := 0
  entries : List QEntry := []
  /-- Unstarted entries that an ABORT marked (R379). -/
  marks : List W32 := []
  /-- The ring header's HEAD is still to be written (R389). -/
  headOwed : Bool := false
  /-- Entries that another device returned, not yet started; none could not be read (R382). -/
  ahead : List (W32 × Option (List W64)) := []
  ctx : BitVec 4 := 0
deriving DecidableEq, Repr

/-- A node record of a maquette image. -/
structure NodeRec where
  parts : BitVec 4
  deps : List W64
  sePc : W64
  vePc : W64
  shape : W64
  ranks : Nat
  reduction : Option Nat
  streamKib : Byte
  meCmd : W64 × W64
  deCmd : W64 × W64
  wcet : W32
deriving DecidableEq, Repr

/-- A reduction record (R233, R247). -/
structure RedRec where
  f : Nat
  g : Nat
  c : Nat
  x80 : Bool
  asked : Bool
  rows : Nat
  cols : Nat
  k : Nat
  resultVa : Nat
deriving DecidableEq, Repr

structure ObjRec where
  va : Nat
  bytes : Nat
  tier : BitVec 2
  pin : Bool
deriving DecidableEq, Repr

structure ListRec where
  node : Nat
  count : Nat
  va : Nat
deriving DecidableEq, Repr

/-- An installed maquette (R364, R365). -/
structure Maquette where
  area : Nat
  nodes : List NodeRec
  reds : List RedRec
  objs : List ObjRec
  lists : List ListRec
  resident : Bool
  paramVa : W64
  current : Bool
  capt0 : Nat
  capt1 : Nat
  /-- The core of each rank of each node, as cast (R266). -/
  cast : List (List Nat)
  /-- To be cast again before the next launch (R367, R477). -/
  recast : Bool
  lastLaunch : Option Nat
deriving DecidableEq, Repr

inductive NodePhase where
  | waiting | released | complete | abandoned
deriving DecidableEq, Repr

/-- A node of a launch: what is still to be written into engine queues and what has not completed. -/
structure NodeRun where
  phase : NodePhase
  toWrite : List (Nat × Eng)
  open_ : List (Nat × Eng)
  /-- Of each rank: its core, and the GRANTS of its entries (R238). -/
  place : List (CoreNum × Nat) := []
deriving DecidableEq, Repr

structure Launch where
  queue : QueueNum
  seq : W32
  niche : NicheNum
  ctx : BitVec 4
  maq : BitVec 12
  bank : Bool
  seed : W64
  super : Bool
  prev : Option Nat
  nodes : List NodeRun
  /-- The status it ended with: COMPLETE, ABORTED, FAULTED. -/
  ended : Option Byte
deriving DecidableEq, Repr

/-- A reduction in the armature (R247 to R251): partials and sums by the range of flat ranks they cover. -/
structure Reduction where
  niche : NicheNum
  launch : Nat
  index : Nat
  f : Nat
  g : Nat
  c : Nat
  x80 : Bool
  rows : Nat
  cols : Nat
  resultVa : Nat
  /-- Flat ranks whose partial has been accepted. -/
  got : List Nat
  /-- (lo, hi, values; none marks a poisoned value). -/
  parts : List (Nat × Nat × List (Option X80))
  flags : Byte
  done : Bool
  /-- Values of a partial of another device that have arrived, by flat rank (R354). -/
  arriving : List (Nat × List (Option X80)) := []
  /-- Reduction blocks in all (R233). -/
  k : Nat := 1
  /-- Words of the result and its flag byte that have been written (R250). -/
  written : Nat := 0
deriving DecidableEq, Repr

structure FrontEnd where
  queues : Sparse Queue := []
  maqs : Sparse Maquette := []
  launches : Sparse Launch := []
  nextLaunch : Nat := 0
  reds : List Reduction := []
  /-- Translation cache and pointer cache of the plinth walker (R567). -/
  tc : List TcEntry := []
  ptrs : List PtrEntry := []
deriving DecidableEq, Repr

/-! ## Trestle (16_trestle.md) -/

/-- What a port sends: a packet with its KIND, or a link record with its REC and its body words. -/
inductive TxItem where
  | pkt (kind : BitVec 4) (p : Packet)
  | link (code : BitVec 4) (body : List W64)
deriving DecidableEq, Repr

structure Port where
  /-- TR_PORT_CONTROL: ENABLE, MAX_VER (2 at reset). -/
  control : W64 := 4
  state : BitVec 2 := 0
  ver : BitVec 2 := 0
  peerId : BitVec 14 := 0
  peerInc : BitVec 16 := 0
  peerHops : BitVec 6 := 0
  delay : BitVec 16 := 0
  /-- Codewords of which the decoder corrected symbols; FEC_CORRECTED counts them in units of 2^16 (R422). -/
  fecWords : Nat := 0
  rejected : BitVec 16 := 0
  retrains : BitVec 12 := 0
  bookMismatch : BitVec 12 := 0
  /-- SEQ of the next flit to send, and the flits sent and not yet acknowledged, oldest first (R422). -/
  txNext : BitVec 10 := 0
  tx : List (BitVec 10 × TxItem) := []
  /-- SEQ expected next, and whether flits are being discarded until it arrives. -/
  rxNext : BitVec 10 := 0
  rxReplay : Bool := false
  /-- Consecutive times that the flit awaited was rejected again after a REPLAY (R423). -/
  rxFails : Nat := 0
  /-- The flit awaited was rejected for an injected error (R486). -/
  rxInjected : Bool := false
  /-- Packets in the receive buffer whose service waits, with their KIND, oldest first (R427, R429). -/
  rx : List (BitVec 4 × Packet) := []
  /-- Consecutive failed replays of one SEQ (R423). -/
  replaySeq : BitVec 10 := 0
  replays : Nat := 0
  /-- T1 of the last TIME record received and the tick it arrived (R441). -/
  lastT1 : W64 := 0
  lastRx : W64 := 0
  /-- Credits by channel key: ((niche * 256 + channel) * 2 + SYS) * 2 + DL; unlisted means the full share (R427). -/
  credits : Sparse Nat := []
  /-- Packets that wait for credits, oldest first. -/
  parked : List (BitVec 4 × Packet) := []
  /-- Link records that wait for room in the replay buffer, oldest first: REC and body (R422). -/
  links : List (BitVec 4 × List W64) := []
  /-- The receive entries that BOOK records of this device wrote at the peer, by slot index (R443). -/
  peerBook : Sparse W32 := []
  /-- Shares held, by niche * 256 + channel (R427). -/
  shares : List Nat := []
  /-- When each share last carried a unit or had one credited, in nanoseconds since power-on (R428). -/
  shareUse : Sparse Nat := []
  /-- The booked slot that started last: its slot number, the niche and channel with precedence, and the body units that they
  sent in it (R59). -/
  booked : Option (Nat × NicheNum × Byte × Nat) := none
deriving DecidableEq, Repr

/-- TR_PORT_COUNTS.FEC_CORRECTED. -/
def Port.fec (x : Port) : Nat := min 0xFFFF (x.fecWords / 65536)

/-- Why a line was written back: by a flush of the whole cache, from the write-back buffer, or by a cache instruction or an
access at its home of the SE or the VE. -/
inductive BackWhy where
  | flush
  | buffer
  | engine (isVe : Bool)
deriving DecidableEq, Repr

/-- Who issued an operation toward another device, and what its answer completes. -/
inductive RemoteUse where
  | load (core : CoreNum) (id lane : Nat)
  | fill (core : CoreNum) (line : Nat)
  /-- A line of the instruction cache. -/
  | fetch (core : CoreNum) (line : Nat)
  | atomic (core : CoreNum) (id fn : Nat) (lanes : List (Nat × W64))
  /-- A store: its stream, its instruction and its address, its niche, its place in the order of issue. -/
  | store (core : CoreNum) (slot : Option (BitVec 5)) (gid lane : Nat) (pc : W64) (va : Nat) (niche : NicheNum) (num : Nat)
  /-- A line of the data cache: who wrote it back, for whom, and the streams that stored into it. -/
  | writeback (core : CoreNum) (why : BackWhy) (niche : NicheNum) (writers : List Writer)
  /-- Part `piece` of a block: its source read (`isRead`) or its destination written. -/
  | block (core : CoreNum) (launch index piece : Nat) (isRead : Bool)
  /-- An entry of a block list read. -/
  | listEntry (core : CoreNum) (launch index : Nat)
  /-- A result value or flag byte of a reduction, at a niche virtual address. -/
  | armature (launch index va : Nat)
  | fenceSignal (q : QueueNum) (seq : W32)
  | completion (q : QueueNum) (seq : W32)
  /-- An entry of a ring read. -/
  | entry (q : QueueNum) (seq : W32)
  /-- Bytes of an entry's source read, from an offset of it. -/
  | source (q : QueueNum) (seq : W32) (off : Nat)
  /-- Word 7 or HEAD of a ring written. -/
  | ring (q : QueueNum)
  /-- DUE of an entry of a cast list written. -/
  | castList (n : NicheNum)
  | lease (n : NicheNum)
  /-- Bytes of a page that a migration copies from or to another device: its virtual address and the offset. -/
  | page (n : NicheNum) (va off : Nat) (isRead : Bool)
  /-- A Frieze record copied to a sink ring on another device. -/
  | sink (r : RegionNum)
deriving DecidableEq, Repr

structure RemoteOp where
  tag : W32
  device : BitVec 14
  addr : Nat
  purpose : RemoteUse
  /-- When it was sent, in nanoseconds since power-on (R444). -/
  since : Nat := 0
deriving DecidableEq, Repr

/-- A frame granted to a peer (R439). -/
structure Lease where
  device : BitVec 14
  niche : NicheNum
  base : Nat
deriving DecidableEq, Repr

structure Trestle where
  /-- TR_CONTROL: ROUTE_MODE, ASSIGN_EN (1 at reset). -/
  control : W64 := 2
  incarnation : BitVec 16 := 0
  /-- TR_TORUS: DIMS 1, PORTS_PER_DIR 1 at reset. -/
  torus : W64 := 0x80_0001
  routes : Sparse W64 := []
  /-- TR_EXPORT words by entry * 2 + word. -/
  exports : Sparse W64 := []
  /-- Dead devices with the INCARNATION last known (R444, R446). -/
  dead : Sparse (BitVec 16) := []
  /-- Targets from which an UNREACHABLE response arrived (R444). -/
  unreachable : List Nat := []
  /-- When a device last acknowledged or responded, in nanoseconds since power-on (R444). -/
  heard : Sparse Nat := []
  ports : Sparse Port := []
  ops : List RemoteOp := []
  nextTag : W32 := 0
  /-- Frames of this device leased to peers. -/
  leases : List Lease := []
  /-- Frames leased from peers: niche, global physical base. -/
  held : List (NicheNum × Nat) := []
deriving DecidableEq, Repr

/-! ## QCL and messages (17_host_link.md) -/

structure Msg where
  addr : W64 := 0
  data : W32 := 0
  mask : Bool := true
  pending : Bool := false
  func : BitVec 7 := 0
deriving DecidableEq, Repr

/-- A host access that waits: its function and aperture, its offset and bytes, and the value of a write. -/
structure HostAcc where
  func : BitVec 7
  aperture : Bool
  off : Nat
  bytes : Nat
  wr : Option W64
deriving DecidableEq, Repr

structure Qcl where
  /-- QCL_CONTROL: ENABLE 1, MAX_VER 2 at reset. -/
  control : W64 := 5
  state : BitVec 2 := 0
  ver : Byte := 0
  peerMin : Byte := 0
  peerMax : Byte := 0
  replays : W32 := 0
  retrains : BitVec 16 := 0
  /-- Consecutive replays of one flit that failed (R452). -/
  fails : Nat := 0
  recallTimeouts : BitVec 16 := 0
  recalls : W32 := 0
  wins : Sparse W64 := []
  msgs : Sparse Msg := []
  /-- The plinth directory: lines the host holds, the least recently granted first; true is exclusive (R460). -/
  dir : List (Nat × Bool) := []
  /-- Lines being recalled or invalidated for a device access (R461). -/
  recalling : List Nat := []
  /-- When each of them was recalled, in nanoseconds since power-on (R463). -/
  recallAt : Sparse Nat := []
  /-- Host accesses that wait for a sleeping drawer, in order (R52, R454). -/
  hostWait : List HostAcc := []
  /-- Line requests of the host that wait for a recall, in order; true is exclusive (R462). -/
  lineWait : List (Nat × Bool) := []
  /-- QCL_SPDM_CTRL. -/
  spdmCtrl : W64 := 0
  spdmReq : Sparse Byte := []
  spdmRsp : Sparse Byte := []
  /-- The requests answered so far: the transcript the responder signs over. -/
  spdmLog : List (List Byte) := []
  /-- The data the last host read returned. -/
  lastRead : W64 := 0
deriving DecidableEq, Repr

/-! ## Errors (18_errors.md) -/

structure ErrRec where
  w0 : W64
  w1 : W64
  w2 : W64
  w3 : W64
deriving DecidableEq, Repr

structure Errors where
  control : W64 := 0
  write : W32 := 0
  read : W32 := 0
  corrDropped : W32 := 0
  sevDropped : BitVec 16 := 0
  fatalCount : BitVec 16 := 0
  lastCause : Byte := 0
  recovering : Bool := false
  held : Bool := false
  /-- ERR_INJECT and ERR_INJECT_ADDR. -/
  inject : W64 := 0
  injectAddr : W64 := 0
  /-- The ring, by slot 0 to 4,095. -/
  log : Sparse ErrRec := []
  /-- Owned errors of R477: core and power-on second. -/
  coreErrs : List (Nat × Nat) := []
  /-- Power-on seconds of DEVICE_FATAL errors (R481). -/
  fatals : List Nat := []
  /-- Failed replays of the mesh flit in hand, by link (R472). -/
  mesh : Sparse Nat := []
deriving DecidableEq, Repr

/-! ## Patina (19_patina.md) -/

/-- A signed record: location, TYPE, SEQ, all its bytes, and the byte count of the journal at which it was appended. -/
structure PatRec where
  loc : Nat
  type : Nat
  seq : Nat
  bytes : List Byte
  place : Nat := 0
deriving DecidableEq, Repr

/-- A MARGIN entry (table MARGIN entry). -/
structure Margin where
  time : W64
  word1 : W64
deriving DecidableEq, Repr

structure Patina where
  /-- PAT_CONTROL: PROBE_EN 1, PROBE_INTERVAL 24, MARGIN_ALERT_MV 20 at reset. -/
  control : W64 := 0x2831
  journalFault : Bool := false
  shutdownDone : Bool := false
  recordsDropped : W32 := 0
  /-- PAT_READ_CTRL: LOC, MODE, GO, DONE, NOT_FOUND, BYTES. -/
  readCtrl : W64 := 0
  readSeq : W64 := 0
  readBuf : List Byte := []
  /-- The SMBus channel: LOC and MODE selected, SEQ, GO pending, DONE, NOT_FOUND, its buffer. -/
  smbSel : Byte := 0
  smbSeq : W64 := 0
  smbGo : Bool := false
  smbDone : Bool := false
  smbNotFound : Bool := false
  smbBuf : List Byte := []
  /-- What the last SMBus read returned. -/
  smbOut : List Byte := []
  /-- Last SEQ and first 24 hash bytes of the last record, per location (R498). -/
  seqs : Sparse Nat := []
  prev : Sparse (List Byte) := []
  journal : List PatRec := []
  /-- Bytes appended to the journal in its life; its place in the ring is this modulo the ring's size (R499). -/
  head : Nat := 0
  /-- Status of the flash at the failure of R502. -/
  flashStatus : W64 := 0
  /-- Records kept while flash does not work (R502). -/
  buffered : List PatRec := []
  /-- Event bodies (EVENT code with location, three arguments) waiting to be signed, oldest first. -/
  events : List (W64 × W64 × W64 × W64) := []
  /-- Error-log records waiting for an ERRORS record (R500); true marks a CORRECTED one. -/
  errorsWait : List (Bool × ErrRec) := []
  /-- Live record per location: power-on second and record (R505). -/
  live : Sparse (Nat × PatRec) := []
  powerOnS : W32 := 0
  /-- The power-on second of the last LIFETIME set that fell due, and of the last measurement of the aging monitors outside the
  compute dies (R494, R500). -/
  setAt : Nat := 0
  agedAt : Nat := 0
  powerCycles : W32 := 0
  orderly : W32 := 0
  abrupt : W32 := 0
  fatalRecoveries : W32 := 0
  resumed : Bool := false
  /-- Histograms: temperature by loc * 16 + bin, voltage by region * 16 + bin. -/
  temps : Sparse W32 := []
  volts : Sparse W32 := []
  /-- LEDGER by loc * 128 + cause. -/
  ledger : Sparse W32 := []
  /-- Corrected events, poisoned words and owned errors per core. -/
  coreCorr : Sparse Nat := []
  coreUe : Sparse Nat := []
  coreOwned : Sparse Nat := []
  /-- Lifetime totals of hardware counters and their value at the last reading, by counter key (R496). -/
  totals : Sparse Nat := []
  lastRead : Sparse Nat := []
  /-- MARGIN entries per region, newest first, at most 8. -/
  margins : Sparse (List Margin) := []
  /-- Aging monitors by loc * 16 + monitor: BASE_KHZ, LAST_KHZ, TIME. -/
  aging : Sparse (W32 × W32 × W64) := []
  firstTime : Sparse W64 := []
  /-- Rows repaired, per stack. -/
  repairs : Sparse W32 := []
  /-- Trained capacity in GiB per bulk channel. -/
  channelGib : Sparse Nat := []
deriving DecidableEq, Repr

/-! ## Boot, firmware, board -/

structure Boot where
  /-- Fuses: MIN_SVN bits blown, KEY_REVOKE. -/
  minSvn : Nat := 0
  keyRevoke : BitVec 4 := 0
  /-- DEBUG_LOCK, blown in every shipped part (table Plinth and die fuses). -/
  debugLock : Bool := true
  /-- INCARNATION as the journal holds it (R435). -/
  incarnation : BitVec 16 := 0
  /-- The flash part: its bytes (R552). -/
  flash : Memory := { havoc := [(0, 0x400_0000, 0)] }
  /-- The slot running (false A, true B), its SVN, whether it booted under TRIAL. -/
  runSlot : Option Bool := none
  runSvn : Nat := 0
  /-- MIN_SVN when the Patina keys were derived (R531). -/
  keySvn : Nat := 0
  /-- Mailbox: last SEQ answered, VERSION succeeded (R538, R539). -/
  mbxSeq : BitVec 16 := 0
  mbxVersion : Bool := false
  /-- Power cap in watts and measurements in a row below 97 % (R558). -/
  capWatts : Nat := 3000
  capBelow : Nat := 0
  /-- Measurements of R534, taken at reset. -/
  measured : List Byte := []
deriving DecidableEq, Repr

/-- Pins of the table Management and control signals that carry state. -/
structure Pins where
  /-- PERST_N is low. -/
  perst : Bool := true
  /-- THERMTRIP_N is low. -/
  thermTrip : Bool := false
  /-- SMB_ALERT_N is low. -/
  smbAlert : Bool := false
  /-- SMBus target address, sampled at PERST_N (R551). -/
  smbAddr : BitVec 7 := 0x4C
  /-- The device drives the SPI pins of the flash: out of power-on reset and outside R530 (R552). -/
  spiDriven : Bool := false
  /-- Status lines sent on UART_TX since power-on reset (R554); what a line says is not given. -/
  uartLines : Nat := 0
deriving DecidableEq, Repr

/-- Discovery and top-level status (01_package.md). -/
structure Disc where
  bulkGib : BitVec 16 := 0
  /-- Bulk channels in use, ascending (R257). -/
  bulkChannels : List Nat := []
  deviceId : BitVec 14 := 0
  idValid : Bool := false
  fwReady : Bool := false
  mode : BitVec 3 := 0
  /-- A supervisor holds the device (table Device modes). -/
  claimed : Bool := false
  holeAddr : BitVec 48 := 0
  holeWrite : Bool := false
  holeOverflow : Bool := false
  holeValid : Bool := false
deriving DecidableEq, Repr

/-- What a release wrote: its target and bytes, its core and engine, its scope. -/
structure RelMark where
  tgt : Tgt
  bytes : List Byte
  core : CoreNum
  engine : Nat
  scope : BitVec 3
deriving DecidableEq, Repr

/-- Everything the block holds. -/
structure State where
  /-- Commands that wait, first in first out. -/
  pending : List Instr := []
  /-- The model's own counter of free values (assumption log, 4). -/
  fresh : Nat := 1
  /-- The next place in the orders of issue and of acceptance by mesh ports and plinth nodes (R292). -/
  order : Nat := 1
  /-- External physical time in nanoseconds since the state after reset (R7, table Units of time). -/
  ns : Nat := 0
  disc : Disc := {}
  tl : Timeline := {}
  /-- HBM4, bulk tier, shelf and drawers by local physical address; unpredictable at power-on (R82). -/
  mem : Memory := { havoc := [(0, 0x4000_0000_0000, 0)] }
  /-- Host memory by host physical address. -/
  hostMem : Memory := { havoc := [(0, 0x10_0000_0000_0000, 0)] }
  cores : Sparse Core := []
  regions : Sparse Region := []
  niches : Sparse Niche := []
  place : Placement := {}
  saved : List SavedCtx := []
  /-- The bytes last written by releases (R295). -/
  rels : List RelMark := []
  fe : FrontEnd := {}
  tr : Trestle := {}
  qcl : Qcl := {}
  err : Errors := {}
  pat : Patina := {}
  boot : Boot := {}
  pins : Pins := {}
  /-- FRZ_GLOBAL.CAP. -/
  frzCap : BitVec 3 := 2
  /-- Global counters 0 to 118 by index (R521). -/
  counters : Sparse W64 := []
deriving DecidableEq, Repr

/-- The device at power-on reset, PERST_N asserted: every field at its Reset value. -/
def State.reset : State := {}

end Sys2Proof.Machine
end

