-- ==== Sys2Proof/Machine/Bits.lean ====
section
/-! DEFINITION. Bit fields (R5), little-endian bytes (R5), sign extension, saturating counters, register halves (R13). -/

namespace Sys2Proof.Machine

/-- Field [lo + n - 1 : lo] of a word (R5). -/
def fld {w : Nat} (x : BitVec w) (lo n : Nat) : Nat := x.toNat / 2 ^ lo % 2 ^ n

/-- One bit of a word. -/
def bit {w : Nat} (x : BitVec w) (i : Nat) : Bool := x.getLsbD i

/-- A number with the field of n bits at lo set. -/
def putN (x lo n v : Nat) : Nat := x - x / 2 ^ lo % 2 ^ n * 2 ^ lo + v % 2 ^ n * 2 ^ lo

/-- A word with the field of n bits at lo set to v. -/
def setFld {w : Nat} (x : BitVec w) (lo n v : Nat) : BitVec w := BitVec.ofNat w (putN x.toNat lo n v)

/-- A word with one bit set to b. -/
def setBit {w : Nat} (x : BitVec w) (i : Nat) (b : Bool) : BitVec w := setFld x i 1 b.toNat

/-- The fields of a register assembled: (lowest bit, width, value). -/
def pack (fs : List (Nat × Nat × Nat)) : W64 :=
  BitVec.ofNat 64 (fs.foldl (fun acc f => acc + f.2.2 % 2 ^ f.2.1 * 2 ^ f.1) 0)

/-- A mask of n ones at lo. -/
def mask (lo n : Nat) : W64 := BitVec.ofNat 64 ((2 ^ n - 1) * 2 ^ lo)

/-- The writable bits `m` of a register take the new value and the others keep the old one. -/
def masked (m old new : W64) : W64 := (old &&& ~~~m) ||| (new &&& m)

/-- n bytes of a number, little-endian (R5). -/
def leBytes : Nat → Nat → List Byte
  | 0, _ => []
  | n + 1, v => BitVec.ofNat 8 v :: leBytes n (v / 256)

/-- The number that little-endian bytes spell (R5). -/
def leNat : List Byte → Nat
  | [] => 0
  | b :: bs => b.toNat + 256 * leNat bs

/-- The two's complement value of the low n bits. -/
def sextI (n v : Nat) : Int :=
  let m := v % 2 ^ n
  if m < 2 ^ (n - 1) then (m : Int) else (m : Int) - (2 : Int) ^ n

/-- The low n bits of an integer in two's complement. -/
def wrapN (n : Nat) (v : Int) : Nat := (v % (2 : Int) ^ n).toNat

/-- A counter that stops at its largest value. -/
def satAdd {w : Nat} (x : BitVec w) (d : Nat) : BitVec w :=
  if x.toNat + d < 2 ^ w then BitVec.ofNat w (x.toNat + d) else BitVec.ofNat w (2 ^ w - 1)

/-- ceil(a / b). -/
def ceilDiv (a b : Nat) : Nat := (a + b - 1) / b

/-- Whether two half-open ranges (base, length) meet. -/
def overlaps (a an b bn : Nat) : Bool := decide (a < b + bn) && decide (b < a + an)

/-- Whether the range (a, an) lies in (b, bn). -/
def within (a an b bn : Nat) : Bool := decide (b ≤ a) && decide (a + an ≤ b + bn)

/-- The positions of the ones among the low n bits, ascending. -/
def ones (n v : Nat) : List Nat := (List.range n).filter (fun i => v.testBit i)

/-- Padding of a byte list with zeros, or its first n bytes. -/
def fitBytes (n : Nat) (bs : List Byte) : List Byte := (bs ++ List.replicate (n - bs.length) 0).take n

end Sys2Proof.Machine
end

