-- ==== Sys2Proof/Machine/Ops.lean ====
section
/-! DEFINITION. The named operations over the state: finite maps, memory with its poison bits, the parts of State by
number, free values. -/

namespace Sys2Proof.Machine

/-! ## Finite maps -/

/-- The value at a key. -/
def Sparse.find {α : Type} : Sparse α → Nat → Option α
  | [], _ => none
  | (k, v) :: m, i => if i = k then some v else if i < k then none else Sparse.find m i

/-- The value at a key, or the given one. -/
def Sparse.getD {α : Type} (m : Sparse α) (i : Nat) (d : α) : α := (Sparse.find m i).getD d

/-- The map with the value at a key set; keys stay rising. -/
def Sparse.put {α : Type} : Sparse α → Nat → α → Sparse α
  | [], i, x => [(i, x)]
  | (k, v) :: m, i, x =>
    if i = k then (i, x) :: m else if i < k then (i, x) :: (k, v) :: m else (k, v) :: Sparse.put m i x

/-- The map without a key. -/
def Sparse.del {α : Type} (m : Sparse α) (i : Nat) : Sparse α := m.filter (fun p => p.1 != i)

/-- The map with every value changed. -/
def Sparse.mapVals {α : Type} (m : Sparse α) (f : Nat → α → α) : Sparse α := m.map (fun p => (p.1, f p.1 p.2))

/-- Rising keys. -/
def Sparse.rising {α : Type} : Sparse α → Bool
  | [] => true
  | [_] => true
  | p :: q :: m => decide (p.1 < q.1) && Sparse.rising (q :: m)

/-! ## Memory -/

/-- The seed of the newest range of unpredictable contents that holds an address. -/
def havocSeed : List (Nat × Nat × Nat) → Nat → Option Nat
  | [], _ => none
  | (b, n, sd) :: h, a => if b ≤ a ∧ a < b + n then some sd else havocSeed h a

/-- What an address that is not listed reads as: a free value in a range of unpredictable contents, else zero. -/
def Memory.unlisted (m : Memory) (a : Nat) : Byte :=
  match havocSeed m.havoc a with
  | some sd => Config.freeByte sd a
  | none => 0

/-- One byte of memory. -/
def Memory.byte (m : Memory) (a : Nat) : Byte :=
  match Sparse.find m.cells a with
  | some b => b
  | none => m.unlisted a

/-- Removal of a key from a rising list. -/
def cellsDel : List Host.Cell → Nat → List Host.Cell
  | [], _ => []
  | (k, v) :: m, i => if i = k then m else if i < k then (k, v) :: m else (k, v) :: cellsDel m i

/-- Memory with one byte written; poison bits stay. -/
def Memory.setByte (m : Memory) (a : Nat) (b : Byte) : Memory :=
  if (havocSeed m.havoc a).isNone && b == 0 then { m with cells := cellsDel m.cells a }
  else { m with cells := Sparse.put m.cells a b }

/-- n bytes from an address. -/
def Memory.bytes (m : Memory) (a : Nat) : Nat → List Byte
  | 0 => []
  | n + 1 => m.byte a :: Memory.bytes m (a + 1) n

/-- A byte as one read finds it: the draw of the read where the byte is unpredictable (R3). -/
def Memory.byteAt (m : Memory) (draw a : Nat) : Byte :=
  match Sparse.find m.cells a with
  | some b => b
  | none => if (havocSeed m.havoc a).isSome then Config.freeByte draw a else 0

/-- n bytes from an address as one read finds them. -/
def Memory.bytesAt (m : Memory) (draw a n : Nat) : List Byte := (List.range n).map (fun i => m.byteAt draw (a + i))

/-- None of n bytes from an address is unpredictable. -/
def Memory.known (m : Memory) (a n : Nat) : Bool :=
  (List.range n).all (fun i => (Sparse.find m.cells (a + i)).isSome || (havocSeed m.havoc (a + i)).isNone)

/-- Memory with bytes written from an address; poison bits stay. -/
def Memory.setBytes (m : Memory) (a : Nat) : List Byte → Memory
  | [] => m
  | b :: bs => Memory.setBytes (m.setByte a b) (a + 1) bs

/-- The aligned 64-bit words that (a, n) touches. -/
def wordsOf (a n : Nat) : List Nat :=
  if n = 0 then [] else (List.range ((a + n - 1) / 8 - a / 8 + 1)).map (fun i => (a / 8 + i) * 8)

/-- Whether any word of (a, n) is poisoned. -/
def Memory.poisoned (m : Memory) (a n : Nat) : Bool := (wordsOf a n).any (fun w => m.poison.contains w)

/-- The lowest poisoned word of (a, n). -/
def Memory.firstPoison (m : Memory) (a n : Nat) : Option Nat := (wordsOf a n).find? (fun w => m.poison.contains w)

/-- A word added to a rising list. -/
def insNat : List Nat → Nat → List Nat
  | [], i => [i]
  | k :: m, i => if i = k then k :: m else if i < k then i :: k :: m else k :: insNat m i

/-- Memory with words poisoned. -/
def Memory.addPoison (m : Memory) (ws : List Nat) : Memory := { m with poison := ws.foldl insNat m.poison }

/-- Memory with words no longer poisoned. -/
def Memory.dropPoison (m : Memory) (ws : List Nat) : Memory :=
  { m with poison := m.poison.filter (fun w => !ws.contains w) }

/-- The words that (a, n) covers whole. -/
def wholeWords (a n : Nat) : List Nat := (wordsOf a n).filter (fun w => within w 8 a n)

/-- A store (R80): where it is aligned to 8 bytes, a word that it covers whole takes new check bits and loses its poison; any other
word that it touches is merged and keeps its poison bit. -/
def Memory.store (m : Memory) (a : Nat) (bs : List Byte) : Memory :=
  let m := m.setBytes a bs
  if a % 8 = 0 then m.dropPoison (wholeWords a bs.length) else m

/-- A store that merges into every word it touches, as R185 and R189 state: poison bits stay. -/
def Memory.merge (m : Memory) (a : Nat) (bs : List Byte) : Memory := m.setBytes a bs

/-- A range whose contents became unpredictable: what was listed there goes. -/
def Memory.scramble (m : Memory) (a n seed : Nat) : Memory :=
  { m with cells := m.cells.filter (fun p => !(decide (a ≤ p.1) && decide (p.1 < a + n))), havoc := (a, n, seed) :: m.havoc }

/-- The unpredictable ranges outside (a, n): one that meets it is split around it. -/
def cutRange (a n : Nat) : List (Nat × Nat × Nat) → List (Nat × Nat × Nat)
  | [] => []
  | (b, k, sd) :: h =>
    if overlaps a n b k then
      (if b < a then [(b, a - b, sd)] else []) ++
        (if a + n < b + k then [(a + n, b + k - (a + n), sd)] else []) ++ cutRange a n h
    else (b, k, sd) :: cutRange a n h

/-- The byte range set to zero with fresh check bits: poison goes too (R396), and what was unpredictable there is so no longer. -/
def Memory.zero (m : Memory) (a n : Nat) : Memory :=
  { cells := m.cells.filter (fun p => !(decide (a ≤ p.1) && decide (p.1 < a + n))),
    havoc := cutRange a n m.havoc,
    poison := m.poison.filter (fun w => !within w 8 a n) }

/-- A number read little-endian. -/
def Memory.le (m : Memory) (a n : Nat) : Nat := leNat (m.bytes a n)

/-- An aligned 64-bit word. -/
def Memory.word (m : Memory) (a : Nat) : W64 := BitVec.ofNat 64 (m.le a 8)

/-- An aligned 8-byte store. -/
def Memory.setWord (m : Memory) (a : Nat) (v : W64) : Memory := m.store a (leBytes 8 v.toNat)

/-- Bytes copied within a memory, with every poison bit (R270, R344). -/
def Memory.copyFrom (m : Memory) (src : Memory) (a b n : Nat) : Memory :=
  let m1 := m.store b (src.bytes a n)
  m1.addPoison ((List.range n).filterMap (fun i =>
    if src.poison.contains ((a + i) / 8 * 8) then some ((b + i) / 8 * 8) else none))

/-- The canonical form: addresses rise, and no byte is listed as zero where an unlisted byte reads as zero. -/
def Memory.wf (m : Memory) : Bool :=
  Sparse.rising m.cells && m.cells.all (fun p => (havocSeed m.havoc p.1).isSome || p.2 != 0)

/-! ## Parts of the state by number -/

/-- A core as it is before anything happened to it: L seeded with the core number OR 1 (R86). -/
def Core.initial (n : Nat) : Core := { dc := { lfsr := BitVec.ofNat 16 (n ||| 1) } }

def State.core (s : State) (c : CoreNum) : Core := Sparse.getD s.cores c.toNat (Core.initial c.toNat)

def State.setCore (s : State) (c : CoreNum) (k : Core) : State := { s with cores := Sparse.put s.cores c.toNat k }

def State.updCore (s : State) (c : CoreNum) (f : Core → Core) : State := s.setCore c (f (s.core c))

def State.region (s : State) (r : RegionNum) : Region := Sparse.getD s.regions r.toNat {}

def State.setRegion (s : State) (r : RegionNum) (x : Region) : State := { s with regions := Sparse.put s.regions r.toNat x }

def State.updRegion (s : State) (r : RegionNum) (f : Region → Region) : State := s.setRegion r (f (s.region r))

/-- Every region changed. -/
def State.mapRegions (s : State) (f : Nat → Region → Region) : State := { s with regions := s.regions.mapVals f }

def State.niche (s : State) (n : NicheNum) : Niche := Sparse.getD s.niches n.toNat {}

def State.setNiche (s : State) (n : NicheNum) (x : Niche) : State := { s with niches := Sparse.put s.niches n.toNat x }

def State.updNiche (s : State) (n : NicheNum) (f : Niche → Niche) : State := s.setNiche n (f (s.niche n))

def Niche.ctx (x : Niche) (c : BitVec 4) : Ctx := Sparse.getD x.ctxs c.toNat {}

def State.ctx (s : State) (n : NicheNum) (c : BitVec 4) : Ctx := (s.niche n).ctx c

def State.updCtx (s : State) (n : NicheNum) (c : BitVec 4) (f : Ctx → Ctx) : State :=
  s.updNiche n (fun x => { x with ctxs := Sparse.put x.ctxs c.toNat (f (x.ctx c)) })

def Niche.nsem (x : Niche) (k : Nat) : NSem := Sparse.getD x.nsems k {}

def State.updNsem (s : State) (n : NicheNum) (k : Nat) (f : NSem → NSem) : State :=
  s.updNiche n (fun x => { x with nsems := Sparse.put x.nsems k (f (x.nsem k)) })

def State.queue (s : State) (q : QueueNum) : Queue := Sparse.getD s.fe.queues q.toNat {}

def State.setQueue (s : State) (q : QueueNum) (x : Queue) : State :=
  { s with fe := { s.fe with queues := Sparse.put s.fe.queues q.toNat x } }

def State.updQueue (s : State) (q : QueueNum) (f : Queue → Queue) : State := s.setQueue q (f (s.queue q))

def State.launch? (s : State) (l : Nat) : Option Launch := Sparse.find s.fe.launches l

def State.setLaunch (s : State) (l : Nat) (x : Launch) : State :=
  { s with fe := { s.fe with launches := Sparse.put s.fe.launches l x } }

/-- The key of a maquette number of a niche. -/
def maqKey (n : NicheNum) (m : BitVec 12) : Nat := n.toNat * 4096 + m.toNat

def State.maq? (s : State) (n : NicheNum) (m : BitVec 12) : Option Maquette := Sparse.find s.fe.maqs (maqKey n m)

def State.setMaq (s : State) (n : NicheNum) (m : BitVec 12) (x : Maquette) : State :=
  { s with fe := { s.fe with maqs := Sparse.put s.fe.maqs (maqKey n m) x } }

def State.port (s : State) (p : PortNum) : Port := Sparse.getD s.tr.ports p.toNat {}

def State.setPort (s : State) (p : PortNum) (x : Port) : State :=
  { s with tr := { s.tr with ports := Sparse.put s.tr.ports p.toNat x } }

def State.updPort (s : State) (p : PortNum) (f : Port → Port) : State := s.setPort p (f (s.port p))

/-- Every port changed. -/
def State.mapPorts (s : State) (f : Nat → Port → Port) : State := { s with tr := { s.tr with ports := s.tr.ports.mapVals f } }

def State.count (s : State) (i d : Nat) : State :=
  { s with counters := Sparse.put s.counters i (Sparse.getD s.counters i 0 + BitVec.ofNat 64 d) }

/-- The region of a core (R20). -/
def regionOf (c : CoreNum) : RegionNum := BitVec.ofNat 6 (c.toNat / 128)

/-- The index of a core in its region (R20). -/
def indexOf (c : CoreNum) : BitVec 7 := BitVec.ofNat 7 (c.toNat % 128)

/-- The core of an index of a region (R20). -/
def coreAt (r : RegionNum) (i : Nat) : CoreNum := BitVec.ofNat 13 (r.toNat * 128 + i)

/-- The compute die of a region: its location index (R18, R19). -/
def dieLoc (r : RegionNum) : Nat := 1 + 4 * (r.toNat / 8 / 2) + r.toNat % 8 / 2

/-- The die-local position of a region (R19). -/
def diePos (r : RegionNum) : Nat := 2 * (r.toNat / 8 % 2) + r.toNat % 8 % 2

/-- The start of a core's drawer (R35). -/
def drawerBase (c : CoreNum) : Nat := 0x2100_0000_0000 + c.toNat * 0x2_0000

/-- The start of a region's shelf segment (R255). -/
def shelfBase (r : RegionNum) : Nat := 0x2000_0000_0000 + r.toNat * 0x200_0000

/-- The niche to which a region is granted (R391). -/
def State.grantee (s : State) (r : RegionNum) : Option NicheNum :=
  (s.niches.find? (fun p => p.2.grant.getLsbD r.toNat)).map (fun p => BitVec.ofNat 6 p.1)

/-- The host port carries traffic: it is UP, or RETRAINING, which loses nothing (R452). -/
def State.hostUp (s : State) : Bool := s.qcl.state == 2 || s.qcl.state == 3

/-- The niche and context that hold a core's region (R397). -/
def State.owner (s : State) (c : CoreNum) : Option (NicheNum × BitVec 4) := (s.region (regionOf c)).holder

/-! ## Free values -/

/-- The next free 64-bit value (assumption log, 4). -/
def State.takeWord (s : State) : W64 × State := (Config.freeWord s.fresh, { s with fresh := s.fresh + 1 })

/-- A new seed of free values. -/
def State.takeSeed (s : State) : Nat × State := (s.fresh, { s with fresh := s.fresh + 1 })

/-- A range of device memory whose contents became unpredictable. -/
def State.scramble (s : State) (a n : Nat) : State :=
  { s with mem := s.mem.scramble a n s.fresh, fresh := s.fresh + 1 }

/-! ## Region clock states (table Region clock states) -/

/-- REG_CLOCK.STATE. -/
def Region.state (x : Region) : Nat := fld x.clock 0 3

/-- RUN or STRETCH: engines run. -/
def Region.running (x : Region) : Bool := x.state == 0 || x.state == 1

/-- The region clock in MHz (table Region clock states). -/
def Region.mhz (x : Region) : Nat :=
  if x.state == 0 then 600
  else if x.state == 1 then
    match fld x.clock 3 3 with
    | 1 => 525 | 2 => 450 | 3 => 300 | 4 => 150 | _ => 600
  else 0

/-- Whether a core's clock runs: what has been issued goes on to its end, also under a pre-emption (R401). -/
def State.clocked (s : State) (c : CoreNum) : Bool := (s.region (regionOf c)).running

/-- Whether the engines of a core may act. -/
def State.runs (s : State) (c : CoreNum) : Bool := (s.region (regionOf c)).running && !(s.region (regionOf c)).preempting && (s.region (regionOf c)).restoring.isNone

end Sys2Proof.Machine
end

