-- ==== Sys2Proof/Machine/Report.lean ====
section
/-! DEFINITION. Address classes and homes; how the device reports: hole log, interrupt messages, Patina events,
Frieze records, error-log records. -/

namespace Sys2Proof.Machine

/-! ## Local physical address map (R34, R255 to R257) -/

/-- The classes of local physical addresses (R255). -/
inductive AddrClass where
  | hbm | bulk | shelf | drawer | csr | hole
deriving DecidableEq, Repr

/-- The class of a local physical address (R34, R36, R37). -/
def State.classOf (s : State) (a : Nat) : AddrClass :=
  if a < 0x90_0000_0000 then .hbm
  else if 0x1000_0000_0000 ≤ a ∧ a < 0x1000_0000_0000 + s.disc.bulkGib.toNat * 2 ^ 30 then .bulk
  else if 0x2000_0000_0000 ≤ a ∧ a < 0x2000_8000_0000 then .shelf
  else if 0x2100_0000_0000 ≤ a ∧ a < 0x2100_4000_0000 then .drawer
  else if 0x3000_0000_0000 ≤ a ∧ a < 0x3001_0000_0000 then .csr
  else .hole

/-- HBM4, bulk tier, shelf and drawers hold bytes. -/
def AddrClass.isMemory : AddrClass → Bool
  | .hbm | .bulk | .shelf | .drawer => true
  | .csr | .hole => false

/-- The HBM4 stack of an address (R256). -/
def stackOf (a : Nat) : Nat := a / 4096 % 12

/-- The offset of an HBM4 address in its stack (R256). -/
def stackOffset (a : Nat) : Nat := a / 4096 / 12 * 4096 + a % 4096

/-- The bulk channel of an address (R257). -/
def State.channelOf (s : State) (a : Nat) : Nat :=
  let cs := s.disc.bulkChannels
  cs.getD ((a - 0x1000_0000_0000) / 4096 % cs.length) 0

/-- The core whose drawer holds an address (R35). -/
def drawerCore (a : Nat) : CoreNum := BitVec.ofNat 13 ((a - 0x2100_0000_0000) / 0x2_0000)

/-- The location index that an error in a memory word carries (R18): stack, bulk die, plinth for the shelf, compute die for a drawer. -/
def State.locOf (s : State) (a : Nat) : Nat :=
  match s.classOf a with
  | .hbm => 32 + stackOf a
  | .bulk => 21 + s.channelOf a / 4
  | .drawer => dieLoc (regionOf (drawerCore a))
  | _ => 0

/-- A hole access is captured (R37, R38, DEV_HOLE_LOG). -/
def State.hole (s : State) (a : Nat) (write : Bool) : State :=
  if s.disc.holeValid then { s with disc := { s.disc with holeOverflow := true } }
  else { s with disc := { s.disc with holeAddr := BitVec.ofNat 48 a, holeWrite := write, holeValid := true } }

/-- Bytes read and written at HBM4 stacks and bulk channels (R521). -/
def State.traffic (s : State) (a n : Nat) (write : Bool) : State :=
  match s.classOf a with
  | .hbm => s.count ((if write then 12 else 0) + stackOf a) n
  | .bulk => s.count (24 + s.channelOf a) n
  | _ => s

/-- Bytes read from memory; one that holds an unpredictable value may read differently each time (R3). -/
def State.memRead (s : State) (a n : Nat) : List Byte × State :=
  if s.mem.known a n then (s.mem.bytes a n, s) else (s.mem.bytesAt s.fresh a n, { s with fresh := s.fresh + 1 })

/-- A load by the device itself from its own memory; a hole returns zero (R37). The control and status space answers
the device's own reads with zero. -/
def State.devRead (s : State) (a n : Nat) : List Byte × State :=
  if (s.classOf a).isMemory then (s.traffic a n false).memRead a n
  else if s.classOf a = .hole then (List.replicate n 0, s.hole a false)
  else (List.replicate n 0, s)

/-- A store by the device itself into its own memory; a store to a hole is discarded (R37). -/
def State.devWrite (s : State) (a : Nat) (bs : List Byte) : State :=
  if (s.classOf a).isMemory then { s.traffic a bs.length true with mem := s.mem.store a bs }
  else if s.classOf a = .hole then s.hole a true
  else s

/-- A store into host memory (R459); its payload counts in counter 112 (R521). -/
def State.hostWrite (s : State) (a : Nat) (bs : List Byte) : State :=
  { s.count 112 bs.length with hostMem := s.hostMem.store a bs }

/-- A read of host memory (R456); its payload counts in counter 113. A byte that nothing is known of may read differently each
time. -/
def State.hostRead (s : State) (a n : Nat) : List Byte × State :=
  if s.hostMem.known a n then (s.hostMem.bytes a n, s.count 113 n)
  else (s.hostMem.bytesAt s.fresh a n, { s.count 113 n with fresh := s.fresh + 1 })

/-! ## Time (R53) -/

/-- The stamp of an event of a region: its copy while it is kept, else the plinth copy (R49, R57). -/
def State.stamp (s : State) (r : RegionNum) : W64 :=
  if (s.region r).running then (s.region r).tl else s.tl.now

/-! ## Interrupt messages (R465) -/

/-- A trigger of message m (R465): the write, or PENDING while masked. -/
def State.trigger (s : State) (m : Nat) : State :=
  let e := Sparse.getD s.qcl.msgs m {}
  if e.mask then { s with qcl := { s.qcl with msgs := Sparse.put s.qcl.msgs m { e with pending := true } } }
  else s.hostWrite e.addr.toNat (leBytes 4 e.data.toNat)

/-! ## Patina events (table Patina events) -/

/-- An event record that firmware will sign and journal (R500). -/
def State.patinaEvent (s : State) (code loc w1 w2 w3 : Nat) : State :=
  { s with pat := { s.pat with events := s.pat.events ++ [(BitVec.ofNat 64 (code + loc * 2 ^ 16),
      BitVec.ofNat 64 w1, BitVec.ofNat 64 w2, BitVec.ofNat 64 w3)] } }

/-- Event 0x04, REG_WRITE_REFUSED: a register write that was refused whole (R276, R332, R391, R415). -/
def State.writeRefused (s : State) (off : Nat) (n : NicheNum) (v : W64) : State :=
  s.patinaEvent 0x04 0 (0x3000_0000_0000 + off) n.toNat v.toNat

/-! ## Frieze records (20_frieze.md) -/

/-- Word 0 of a record (table Frieze record, word 0). R16 has version 1 stated in every record, but no table of a record gives it a
field: none is written (DESIGN CHOICE, assumption log 90). -/
def frzHead (type core engine slot : Nat) (time : W64) : W64 :=
  pack [(0, 8, type), (8, 13, core), (21, 2, engine), (23, 5, slot), (28, 36, time.toNat)]

/-- The post-trigger reserve R in slots (table Buffer modes). -/
def FrzRegion.reserve (f : FrzRegion) : Nat :=
  match fld f.control 1 2 with
  | 0 => 2048 | 1 => 4096 | _ => 8192

def FrzRegion.armed (f : FrzRegion) : Bool := bit f.control 7

/-- MODE 1. -/
def FrzRegion.stream (f : FrzRegion) : Bool := bit f.control 0

/-- The address of a slot of a region's buffer (R512, text before it). -/
def frzSlot (r : RegionNum) (slot : Nat) : Nat := shelfBase r + 0x1FC_0000 + 16 * (slot % 16384)

/-- The slot of the timeline in which Frieze's moves are counted. -/
def State.frzNow (s : State) : Nat := s.tl.now.toNat / 1024

/-- Records that a region's Frieze has moved in the present slot (R518). -/
def State.frzMoved (s : State) (r : RegionNum) : Nat :=
  let f := (s.region r).frz
  if f.movedSlot = s.frzNow then f.moved else 0

/-- Whether n more records may be moved in the present slot (R518). -/
def State.frzBudget (s : State) (r : RegionNum) (n : Nat) : Bool := decide (s.frzMoved r + n ≤ 589 * s.frzCap.toNat)

/-- A record moved, to the buffer or to the sink (R518). -/
def State.frzMove (s : State) (r : RegionNum) : State :=
  let n := s.frzMoved r + 1
  let slot := s.frzNow
  s.updRegion r (fun g => { g with frz := { g.frz with moved := n, movedSlot := slot } })

/-- One record into the next slot of the buffer. -/
def State.frzPut (s : State) (r : RegionNum) (x : FrzRec) : State :=
  let s := s.frzMove r
  let f := (s.region r).frz
  let s := { s with mem := s.mem.store (frzSlot r f.next) (leBytes 8 x.w0.toNat ++ leBytes 8 x.w1.toNat) }
  let s := s.updRegion r (fun g => { g with frz :=
    { g.frz with next := (f.next + 1) % 16384, fill := min 16384 (f.fill + 1),
                 wrapped := f.wrapped || (!f.stream && f.fill == 16384),
                 afterTrig := if f.triggered then f.afterTrig + 1 else 0 } })
  s.count 117 1

/-- The TIME_SYNC record of a stamp (R511). -/
def timeSyncRec (t : W64) : FrzRec := { w0 := frzHead 0x01 0 0 0 t, w1 := t }

/-- A TIME_SYNC record in the next slot. -/
def State.frzSync (s : State) (r : RegionNum) : State :=
  let t := s.stamp r
  (s.frzPut r (timeSyncRec t)).updRegion r (fun g => { g with frz := { g.frz with lastSync := some t } })

/-- The slots that the records standing before the next one need: LOSS and TIME_SYNC after a loss (R515), TIME_SYNC as the first record (R511). -/
def FrzRegion.prefixLen (f : FrzRegion) : Nat :=
  if f.pendingLoss > 0 then 2 else if f.lastSync.isNone then 1 else 0

/-- Whether n more records are admitted now (table Buffer modes, R512, R515, R516). -/
def FrzRegion.admits (f : FrzRegion) (n : Nat) : Bool :=
  if f.stream then decide (f.fill + n ≤ if f.triggered then 16384 else 16384 - f.reserve)
  else if f.frozen then false
  else if f.triggered then decide (f.afterTrig + n ≤ f.reserve - 1)
  else true

/-- The LOSS record of R516 in the last slot of the reserve of a frozen buffer. -/
def State.frzFrozenLoss (s : State) (r : RegionNum) : State :=
  let f := (s.region r).frz
  let t := s.stamp r
  let bs := leBytes 8 (frzHead 0x02 0 0 0 t).toNat ++ leBytes 8 (min f.pendingLoss (2 ^ 32 - 1) + 2 ^ 32)
  { s with mem := s.mem.store (frzSlot r f.next) bs }

/-- An event is dropped (R515, R517): DROPPED and the pending loss count. -/
def State.frzDrop (s : State) (r : RegionNum) : State :=
  let s := s.updRegion r (fun g => { g with frz :=
    { g.frz with dropped := satAdd g.frz.dropped 1, pendingLoss := g.frz.pendingLoss + g.frz.armed.toNat } })
  (if (s.region r).frz.frozen then s.frzFrozenLoss r else s).count 118 1

/-- The LOSS and TIME_SYNC records that are due (R511, R515). -/
def State.frzPrefix (s : State) (r : RegionNum) : State :=
  let f := (s.region r).frz
  if f.pendingLoss > 0 then
    let t := s.stamp r
    let s := s.frzPut r { w0 := frzHead 0x02 0 0 0 t, w1 := BitVec.ofNat 64 (min f.pendingLoss (2 ^ 32 - 1)) }
    let s := s.updRegion r (fun g => { g with frz := { g.frz with pendingLoss := 0 } })
    s.frzSync r
  else if f.lastSync.isNone then s.frzSync r
  else s

/-- The buffer freezes once R - 1 slots of the reserve are used (table Buffer modes, R516). -/
def State.frzFreeze (s : State) (r : RegionNum) : State :=
  let s := s.updRegion r (fun g => { g with frz := { g.frz with frozen := true, pendingLoss := 0 } })
  s.frzFrozenLoss r

/-- A trigger of a region (R514): TRIGGERED, and the TRIGGER record ahead of everything. -/
def State.frzTrigger1 (s : State) (r : RegionNum) (sources matched first : Nat) : State :=
  let f := (s.region r).frz
  if !f.armed || f.triggered then s
  else
    let s := if f.lastSync.isNone then s.frzSync r else s
    let s := s.updRegion r (fun g => { g with frz := { g.frz with triggered := true, afterTrig := 0 } })
    s.frzPut r { w0 := frzHead 0x03 0 0 0 (s.stamp r), w1 := pack [(0, 5, sources), (5, 8, matched), (13, 6, first)] }

/-- A trigger, and the global trigger of every other region with TRIG_GLOBAL 1 when this one has it (R513). -/
def State.frzTrigger (s : State) (r : RegionNum) (sources matched : Nat) : State :=
  let f := (s.region r).frz
  if !f.armed || f.triggered then s
  else
    let s := s.frzTrigger1 r sources matched r.toNat
    if bit f.control 17 then
      (List.range 64).foldl (fun t i =>
        let q := BitVec.ofNat 6 i
        if i != r.toNat && bit (t.region q).frz.control 17 then t.frzTrigger1 q 16 0 r.toNat else t) s
    else s

/-- The trigger that the TYPE of an event makes (R513), ahead of the event's own record (R514). -/
def State.frzTyped (s : State) (r : RegionNum) (type : Nat) : State :=
  let f := (s.region r).frz
  if type != 0 && fld f.control 8 8 == type then s.frzTrigger r 1 type else s

/-- A buffer whose reserve is used up freezes (R516). -/
def State.frzSettle (s : State) (r : RegionNum) : State :=
  let g := (s.region r).frz
  if g.triggered && !g.stream && !g.frozen && decide (g.reserve - 1 ≤ g.afterTrig) then s.frzFreeze r else s

/-- An event that no slot admits is dropped; a CAPTURE buffer short of room in its reserve freezes (R515, R516). -/
def State.frzRefuse (s : State) (r : RegionNum) : State :=
  let f := (s.region r).frz
  (if f.armed && !f.stream && f.triggered && !f.frozen then s.frzFreeze r else s).frzDrop r

/-- An event out of the staging: into the buffer if it admits it, else dropped. -/
def State.frzEnter (s : State) (r : RegionNum) (recs : List FrzRec) : State :=
  let f := (s.region r).frz
  if f.armed && f.admits (f.prefixLen + recs.length) then
    (recs.foldl (fun t x => t.frzPut r x) (s.frzPrefix r)).frzSettle r
  else s.frzRefuse r

/-- Whether an event may enter the buffer in the present slot (R518). -/
def State.frzOpen (s : State) (r : RegionNum) (recs : List FrzRec) : Bool := s.frzBudget r ((s.region r).frz.prefixLen + recs.length)

/-- Staged events enter in order, as far as the budget of the slot lets them. -/
def State.frzDrain (s : State) (r : RegionNum) : Nat → State
  | 0 => s
  | fuel + 1 =>
    match (s.region r).frz.staged with
    | [] => s
    | e :: es =>
      if !s.frzOpen r e then s
      else ((s.updRegion r (fun g => { g with frz := { g.frz with staged := es } })).frzEnter r e).frzDrain r fuel

/-- An event behind the staged ones: straight into the buffer, into the staging of 64 records, or dropped (R515, R518). -/
def State.frzStage (s : State) (r : RegionNum) (recs : List FrzRec) : State :=
  let f := (s.region r).frz
  if !f.armed || (f.staged.isEmpty && s.frzOpen r recs) then s.frzEnter r recs
  else if (f.staged.map (·.length)).sum + recs.length ≤ 64 then
    s.updRegion r (fun g => { g with frz := { g.frz with staged := g.frz.staged ++ [recs] } })
  else s.frzDrop r

/-- An event of one or two records in a region's buffer (R508, R513 to R518). `type` is the TYPE of its first record. -/
def State.frieze (s : State) (r : RegionNum) (type : Nat) (recs : List FrzRec) : State :=
  ((s.frzTyped r type).frzDrain r 64).frzStage r recs

/-- The TIME_SYNC that a step of the timeline or the passing of 2^34 ticks calls for (R511). -/
def State.frzResync (s : State) (r : RegionNum) : State :=
  let s := s.frzTyped r 0x01
  let f := (s.region r).frz
  if f.armed && f.admits (max 1 f.prefixLen) then
    (if f.prefixLen = 0 then s.frzSync r else s.frzPrefix r).frzSettle r
  else s.frzRefuse r

/-- An event of one record. -/
def State.frieze1 (s : State) (r : RegionNum) (type core engine slot : Nat) (time w1 : W64) : State :=
  s.frieze r type [{ w0 := frzHead type core engine slot time, w1 := w1 }]

/-- A wait that ended, of wait class bit k, recorded when enabled and long enough (R508). -/
def State.friezeWait (s : State) (r : RegionNum) (k type core engine slot waited : Nat) (w1 : Nat) : State :=
  let c := (s.region r).frz.control
  if bit c (3 + k) && decide (fld c 18 32 ≤ waited) then
    s.frieze1 r type core engine slot (s.stamp r) (BitVec.ofNat 64 (w1 + min waited (2 ^ 32 - 1) * 2 ^ 32))
  else s

/-- A CLOCK record, stamped from the plinth copy (R57). -/
def State.friezeClock (s : State) (r : RegionNum) (entered step left : Nat) (isEnd : Bool) : State :=
  s.frieze1 r 0x30 0 0 0 s.tl.now
    (pack [(0, 3, entered), (3, 3, step), (6, 3, left), (9, 1, isEnd.toNat), (10, 6, r.toNat)])

/-! ## The error log (18_errors.md) -/

/-- What an error concerns; the class follows from the cause. -/
structure ErrInfo where
  cause : Nat
  loc : Nat := 0
  core : Option CoreNum := none
  niche : Option NicheNum := none
  ctx : Option (BitVec 4) := none
  aux : Nat := 0
  addr : Nat := 0
  /-- 0 none, 1 global physical, 2 niche virtual, 3 host physical. -/
  aspace : Nat := 0
  detail : W64 := 0
  injected : Bool := false
deriving DecidableEq, Repr

/-- CLASS of a cause code (table Causes by class). -/
def errClass (cause : Nat) : Nat := if cause < 0x20 then 1 else if cause < 0x40 then 2 else 3

/-- The record of an error (table Error-log record). -/
def ErrInfo.record (e : ErrInfo) (time : W64) (cnt : Nat) : ErrRec :=
  { w0 := time
    w1 := pack [(0, 8, e.cause), (8, 2, errClass e.cause), (10, 6, e.loc), (16, 13, (e.core.getD 0).toNat),
      (29, 1, e.core.isSome.toNat), (30, 6, (e.niche.getD 0).toNat), (36, 1, e.niche.isSome.toNat),
      (37, 4, (e.ctx.getD 0).toNat), (41, 1, e.ctx.isSome.toNat), (42, 7, e.aux), (49, 14, cnt), (63, 1, e.injected.toNat)]
    w2 := pack [(0, 62, e.addr), (62, 2, e.aspace)]
    w3 := e.detail }

/-- One more count in a saturating 32-bit table. -/
def bump32 (m : Sparse W32) (k d : Nat) : Sparse W32 := Sparse.put m k (satAdd (Sparse.getD m k 0) d)

/-- LEDGER entry of a cause at a location (R495). -/
def State.ledger (s : State) (loc cause : Nat) : State :=
  { s with pat := { s.pat with ledger := bump32 s.pat.ledger (loc * 128 + cause) 1 } }

/-- The slot of a record written in the present frame for the same CORRECTED cause, location and core (R485). -/
def State.sameFrame (s : State) (e : ErrInfo) : Option Nat :=
  let n := min 4096 s.err.write.toNat
  ((List.range n).map (fun i => (s.err.write.toNat - 1 - i) % 4096)).find? (fun k =>
    match Sparse.find s.err.log k with
    | some r => r.w0.toNat / 2 ^ 20 == s.tl.now.toNat / 2 ^ 20 && fld r.w1 0 8 == e.cause && fld r.w1 10 6 == e.loc &&
        fld r.w1 16 13 == (e.core.getD 0).toNat && bit r.w1 29 == e.core.isSome
    | none => false)

/-- Firmware declares a core failed (R477): FAILED, the record CORE_FAILED of it is written by the caller, and its maquettes are cast again. -/
def State.markFailed (s : State) (c : CoreNum) : State :=
  let s := s.updCore c (fun k => { k with failed := true })
  { s with fe := { s.fe with maqs := s.fe.maqs.map (fun p =>
      (p.1, if p.2.cast.any (fun l => l.contains c.toNat) then { p.2 with recast := true } else p.2)) } }

/-- A record written into the ring, or dropped and counted (R483, R495, CONTAINED_MSG, R513). -/
def State.logRecord (s : State) (e : ErrInfo) : State :=
  let used := (s.err.write - s.err.read).toNat
  let cls := errClass e.cause
  if (cls == 1 && decide (4032 ≤ used)) || (cls != 1 && decide (4096 ≤ used)) then
    let s := if cls == 1 then { s with err := { s.err with corrDropped := satAdd s.err.corrDropped 1 } }
      else { s with err := { s.err with sevDropped := satAdd s.err.sevDropped 1 } }
    s.ledger 0 0
  else
    let r := e.record s.tl.now 1
    let s := { s with
      err := { s.err with log := Sparse.put s.err.log (s.err.write.toNat % 4096) r, write := s.err.write + 1 },
      pat := { s.pat with errorsWait := s.pat.errorsWait ++ [(cls == 1, r)] } }
    let s := s.ledger e.loc e.cause
    let s := if cls == 2 && bit s.err.control 25 then s.trigger (fld s.err.control 13 12) else s
    match e.core with
    | some c => if cls != 1 && bit (s.region (regionOf c)).frz.control 16 then s.frzTrigger (regionOf c) 8 0 else s
    | none => s

/-- REG_UE, TILE_PARITY, PATH_UE, AUDIT_MISMATCH: the causes of R477. -/
def isOwned (cause : Nat) : Bool := cause == 0x20 || cause == 0x21 || cause == 0x22 || cause == 0x28

/-- An error of R477 is counted; the third on one core within 60 minutes of power-on time declares the core failed. -/
def State.countOwned (s : State) (c : CoreNum) : State :=
  let t := s.pat.powerOnS.toNat
  let s : State := { s with
    err := { s.err with coreErrs := s.err.coreErrs ++ [(c.toNat, t)] },
    pat := { s.pat with coreOwned := Sparse.put s.pat.coreOwned c.toNat (min 0xFFFF (Sparse.getD s.pat.coreOwned c.toNat 0 + 1)) } }
  let n : Nat := (s.err.coreErrs.filter (fun p => p.1 == c.toNat && decide (t < p.2 + 3600))).length
  if 3 ≤ n ∧ (s.core c).failed = false then
    (s.markFailed c).logRecord { cause := 0x2F, loc := dieLoc (regionOf c), core := some c }
  else s

/-- A margin probe of a region that is under way is abandoned (R492). -/
def State.dropProbe (s : State) (r : RegionNum) : State :=
  if (s.region r).probe.isSome then s.updRegion r (fun x => { x with probe := x.probe.map (fun p => (p.1, p.2.1, true)) }) else s

/-- An error is recorded (R472, R484, R485): a further CORRECTED event of one frame only increments COUNT. One at a region abandons
its margin probe (R492). -/
def State.logError (s : State) (e : ErrInfo) : State :=
  let s := match e.core with | some c => s.dropProbe (regionOf c) | none => s
  let s := match (if errClass e.cause == 1 then s.sameFrame e else none) with
    | some k =>
      let r := Sparse.getD s.err.log k (e.record s.tl.now 1)
      let r' := { r with w1 := setFld r.w1 49 14 (min (2 ^ 14 - 1) (fld r.w1 49 14 + 1)) }
      let waits := s.pat.errorsWait.map (fun x => if x.2 = r then (x.1, r') else x)
      ({ s with err := { s.err with log := Sparse.put s.err.log k r' }, pat := { s.pat with errorsWait := waits } } : State).ledger e.loc e.cause
    | none => s.logRecord e
  match e.core with
  | some c => if isOwned e.cause then s.countOwned c else s
  | none => s

/-- The next ECC syndrome, nonzero (table Record detail), with the mark of a scrub in bit 8. -/
def State.syndrome (s : State) (scrub : Bool) : W64 × State :=
  (BitVec.ofNat 64 ((Config.syndrome s.fresh).val + 1 + (if scrub then 256 else 0)), { s with fresh := s.fresh + 1 })

/-- The CE and UE causes of a memory class (table Causes by class). -/
def memCause (k : AddrClass) (double : Bool) : Nat :=
  match k, double with
  | .drawer, false => 0x03
  | .shelf, false => 0x04
  | .hbm, false => 0x05
  | .bulk, false => 0x06
  | .drawer, true => 0x23
  | .shelf, true => 0x24
  | .hbm, true => 0x25
  | _, true => 0x26
  | _, false => 0x05

/-- A global physical address of this device (R36). -/
def State.globalPa (s : State) (a : Nat) : Nat := s.disc.deviceId.toNat * 2 ^ 48 + a % 2 ^ 48

/-- The key of a lifetime total of a bulk channel: corrected, or uncorrected words (section PORTS). -/
def channelKey (ch : Nat) (double : Bool) : Nat := 3000 + 2 * ch + double.toNat

/-- A memory error at a word (R79, R472): its record. -/
def State.memError (s : State) (a : Nat) (double scrub injected : Bool) : State :=
  let (syn, s) := s.syndrome scrub
  let k := s.classOf a
  let c := drawerCore a
  let owner := (s.region (regionOf c)).holder
  let s := if k = .bulk then
      let i := channelKey (s.channelOf a) double
      { s with pat := { s.pat with totals := Sparse.put s.pat.totals i (Sparse.getD s.pat.totals i 0 + 1) } }
    else s
  s.logError { cause := memCause k double, loc := s.locOf a, core := if k = .drawer then some c else none,
               niche := if k = .drawer then owner.map (·.1) else none, ctx := none,
               addr := s.globalPa (a / 8 * 8), aspace := 1, detail := syn, injected := injected }

end Sys2Proof.Machine
end

