-- ==== Sys2Proof/Machine/Link.lean ====
section
/-! DEFINITION. Sending over Trestle: routes, channels, credits, replay buffers (16_trestle.md). -/

namespace Sys2Proof.Machine

/-- Bits of DISC_DEVICE.DEVICE_ID that a frame of this device carries (R261). -/
def State.myDevice (s : State) : Nat := if s.disc.idValid then s.disc.deviceId.toNat else 0

/-- Whether a port is UP. -/
def State.portUp (s : State) (p : Nat) : Bool := (s.port (BitVec.ofNat 6 p)).state == 2

/-! ## Routing (R430 to R432) -/

/-- Sizes X, Y, Z and P of TR_TORUS; a dimension beyond DIMS has size 1. -/
def State.torus (s : State) : Nat × List Nat × Nat :=
  let t := s.tr.torus
  (fld t 0 2, [fld t 2 7 + 1, fld t 9 7 + 1, fld t 16 7 + 1], fld t 23 5)

/-- The coordinates of a device identifier (R430). -/
def coords (sizes : List Nat) (id : Nat) : List Nat :=
  match sizes with
  | [] => []
  | n :: ns => id % n :: coords ns (id / n)

/-- The first dimension in which two coordinate lists differ: its number, both coordinates, its size. -/
def firstDiff : Nat → List Nat → List Nat → List Nat → Option (Nat × Nat × Nat × Nat)
  | i, a :: as, b :: bs, n :: ns => if a = b then firstDiff (i + 1) as bs ns else some (i, a, b, n)
  | _, _, _, _ => none

/-- A torus hop: the direction number, and whether the link joins coordinates N - 1 and 0 (R430, R431). -/
def torusHop (sizes : List Nat) (here there : Nat) : Option (Nat × Bool) :=
  match firstDiff 0 (coords sizes here) (coords sizes there) sizes with
  | none => none
  | some (d, a, b, n) =>
    let fwd := (b + n - a) % n
    let positive := decide (2 * fwd ≤ n)
    some (2 * d + (if positive then 0 else 1), if positive then a == n - 1 else a == 0)

/-- The ports of a bundle that are UP, ascending. -/
def State.bundle (s : State) (dir : Nat) : List Nat :=
  let p := s.torus.2.2
  ((List.range p).map (fun i => dir * p + i)).filter (fun i => decide (i < 36) && s.portUp i)

/-- The dimension of a port's bundle in torus mode. -/
def State.portDim (s : State) (p : Nat) : Nat := p / s.torus.2.2 / 2

/-- The port and the DL bit with which a packet for device t leaves (R430 to R432); none when it is unreachable. -/
def State.route (s : State) (t : Nat) (niche : NicheNum) (channel : Byte) (dl : Bool) (from? : Option Nat) : Option (Nat × Bool) :=
  if bit s.tr.control 0 then
    let e := Sparse.getD s.tr.routes t 0
    if bit e 0 && s.portUp (fld e 1 6) then some (fld e 1 6, false) else none
  else
    match torusHop s.torus.2.1 s.myDevice t with
    | none => none
    | some (dir, wrap) =>
      match s.bundle dir with
      | [] => none
      | ps =>
        let p := ps.getD ((niche.toNat * 256 + channel.toNat) % ps.length) 0
        let same := match from? with | some q => s.portDim q == dir / 2 | none => false
        some (p, wrap || (dl && same))

/-! ## Booking tables (R58, R64) -/

/-- The frame of a tick (R42). -/
def frameOf (t : W64) : Nat := t.toNat / 2 ^ 20

/-- Entries written in earlier frames come into force (R58). -/
def Timeline.commit (t : Timeline) : Timeline :=
  let f := frameOf t.now
  t.bookNext.foldl (fun t e =>
    if e.2.2.2 < f then
      if e.1 then { t with regionBook := Sparse.put t.regionBook e.2.1 e.2.2.1 }
      else { t with portBook := Sparse.put t.portBook e.2.1 e.2.2.1 }
    else { t with bookNext := t.bookNext ++ [e] }) { t with bookNext := [] }

/-- The entry of a port slot index that governs now (R58). -/
def Timeline.portEntry (t : Timeline) (p : PortNum) (idx : Nat) : W32 :=
  Sparse.getD t.commit.portBook (p.toNat * 1024 + idx) 0

/-- The entry of a region slot index that governs now; KIND is 1 in every region entry (TL_BOOK). -/
def Timeline.regionEntry (t : Timeline) (r : RegionNum) (idx : Nat) : W32 :=
  Sparse.getD t.commit.regionBook (r.toNat * 1024 + idx) 2

/-- Whether the slot that a region is in is booked as an idle reservation (R60). -/
def State.reservedSlot (s : State) (r : RegionNum) : Bool := bit (s.tl.regionEntry r ((s.region r).tl.toNat / 1024 % 1024)) 0

/-- Whether the peer's receive entry of a slot index is that of a send entry (R443). -/
def Port.matched (x : Port) (idx : Nat) (e : W32) : Bool :=
  match Sparse.find x.peerBook idx with
  | some p => bit p 0 && bit p 16 && fld p 2 6 == fld e 2 6 && fld p 8 8 == fld e 8 8
  | none => false

/-! ## Channels and credits (R425 to R428) -/

/-- The key of a channel's sub-lane. -/
def creditKey (k : Packet) : Nat :=
  ((k.niche.toNat * 256 + k.channel.toNat) * 2 + k.sys.toNat) * 2 + k.dl.toNat

/-- Units of a share: a system channel's 16 KiB, or an eighth of the 976 KiB of job channels, split over two sub-lanes (R427). -/
def fullShare (sys : Bool) : Nat := if sys then 512 else 1952

/-- Body units of a packet: its header and its data (text after the table Packet header). -/
def packetUnits (k : Packet) : Nat := 1 + ceilDiv k.data.length 32

/-- Body units of what a port sends. -/
def TxItem.units : TxItem → Nat
  | .pkt _ k => packetUnits k
  | .link _ _ => 1

/-- The booked slot of a port that is in force now: its niche, its channel and the body units of them sent in it. -/
def State.bookedNow (s : State) (x : Port) : Option (NicheNum × Byte × Nat) :=
  match x.booked with
  | some (slot, b) => if slot = s.tl.now.toNat / 1024 then some b else none
  | none => none

/-- A packet is of a job channel. -/
def inChannel (k : Packet) (n : NicheNum) (c : Byte) : Bool := !k.sys && k.niche == n && k.channel == c

/-- Payload bytes a tick of a port, by its version (table Trestle protocol versions). -/
def Port.rate (x : Port) : Nat := if x.ver = 1 then 100 else 200

/-- Whether a packet that follows `used` body units of its owner's ends within the guards of a booked slot: from 8 ticks after
its start to 8 ticks before its end (R59). -/
def State.inGuards (s : State) (x : Port) (used units : Nat) : Bool :=
  let t := s.tl.now.toNat % 1024
  decide (8 ≤ t) && decide (max t (8 + ceilDiv (32 * used) x.rate) + ceilDiv (32 * units) x.rate ≤ 1016)

/-- Whether a packet belongs to a channel that some slot of the port is booked for. -/
def State.bookedChannel (s : State) (p : Nat) (k : Packet) : Bool :=
  s.tl.commit.portBook.any (fun e => e.1 / 1024 == p && bit e.2 0 && !bit e.2 16 &&
    inChannel k (BitVec.ofNat 6 (fld e.2 2 6)) (BitVec.ofNat 8 (fld e.2 8 8)) &&
    (s.port (BitVec.ofNat 6 p)).matched (e.1 % 1024) e.2)

/-- An item put on the wire and kept until it is acknowledged (R422); its payload counts (R521). -/
def State.wire (s : State) (p : Nat) (t : TxItem) : State :=
  let q := BitVec.ofNat 6 p
  (s.updPort q (fun x => { x with tx := x.tx ++ [(x.txNext, t)], txNext := x.txNext + 1 })).count (40 + p) (32 * t.units)

/-- A link record toward the peer of a port, which waits while the replay buffer is full (R422). -/
def State.sendLink (s : State) (p : PortNum) (code : BitVec 4) (body : List W64) : State :=
  let x := s.port p
  if x.links.isEmpty && decide (x.tx.length < 512) then s.wire p.toNat (.link code body)
  else s.updPort p (fun x => { x with links := x.links ++ [(code, body)] })

/-- Link records that waited leave as far as the replay buffer has room. -/
def State.flushLinks (s : State) (p : Nat) : State :=
  let q := BitVec.ofNat 6 p
  let x := s.port q
  let room := 512 - x.tx.length
  if x.links.isEmpty || room = 0 then s
  else (x.links.take room).foldl (fun s l => s.wire p (.link l.1 l.2)) (s.updPort q (fun x => { x with links := x.links.drop room }))

/-- Whether a packet has room in the replay buffer, a share and credits of its own channel, and its port is UP (R422, R427). -/
def Port.admits (x : Port) (k : Packet) : Bool :=
  let ch := k.niche.toNat * 256 + k.channel.toNat
  x.state == 2 && decide (x.tx.length < 512) &&
    (k.sys || x.shares.contains ch || decide (x.shares.length < 8)) &&
    decide (packetUnits k ≤ Sparse.getD x.credits (creditKey k) (fullShare k.sys))

/-- Whether booking lets a packet go now. While the timeline is not LOCKED nothing goes in a booked slot, and a booked channel's
packets wait (R61). In a booked slot its owner's packets keep the guards, and another packet goes only with capacity that the
owner leaves unused (R59). -/
def State.slotLets (s : State) (p : Nat) (x : Port) (k : Packet) : Bool :=
  match s.bookedNow x with
  | none => s.tl.state == 2 || !s.bookedChannel p k
  | some (n, c, used) =>
    s.tl.state == 2 &&
      (if inChannel k n c then s.inGuards x used (packetUnits k)
       else !x.parked.any (fun q => inChannel q.2 n c && x.admits q.2 && s.inGuards x used (packetUnits q.2)))

/-- Whether a packet can go now. -/
def State.canSend (s : State) (p : Nat) (k : Packet) : Bool :=
  let x := s.port (BitVec.ofNat 6 p)
  x.admits k && s.slotLets p x k

/-- A packet sent against its credits, and counted in its booked slot. -/
def State.emit (s : State) (p : Nat) (kind : BitVec 4) (k : Packet) : State :=
  let ch := k.niche.toNat * 256 + k.channel.toNat
  let s := s.updPort (BitVec.ofNat 6 p) (fun x => { x with
    credits := Sparse.put x.credits (creditKey k) (Sparse.getD x.credits (creditKey k) (fullShare k.sys) - packetUnits k),
    shares := if k.sys || x.shares.contains ch then x.shares else x.shares ++ [ch],
    shareUse := if k.sys then x.shareUse else Sparse.put x.shareUse ch s.ns,
    booked := x.booked.map (fun b => (b.1, b.2.1, b.2.2.1, b.2.2.2 + (if inChannel k b.2.1 b.2.2.1 then packetUnits k else 0))) })
  s.wire p (.pkt kind k)

/-- A packet leaves, or waits behind the earlier packets of its channel (R427, R429). -/
def State.enqueue (s : State) (p : Nat) (kind : BitVec 4) (k : Packet) : State :=
  let x := s.port (BitVec.ofNat 6 p)
  if x.parked.any (fun q => creditKey q.2 == creditKey k) || !s.canSend p k then
    s.updPort (BitVec.ofNat 6 p) (fun x => { x with parked := x.parked ++ [(kind, k)] })
  else s.emit p kind k

/-- Waiting link records and packets are tried again, packets in order within each channel. -/
def State.pump (s : State) (p : Nat) : State :=
  let s := s.flushLinks p
  let x := s.port (BitVec.ofNat 6 p)
  let first := x.parked.filter (fun q => match x.booked with | some (_, n, c, _) => inChannel q.2 n c | none => false)
  let others := x.parked.filter (fun q => match x.booked with | some (_, n, c, _) => !inChannel q.2 n c | none => true)
  (first ++ others).foldl (fun t q => t.enqueue p q.1 q.2) (s.updPort (BitVec.ofNat 6 p) (fun x => { x with parked := [] }))

/-- Every port's waiting packets are tried again. -/
def State.pumpAll (s : State) : State := (List.range 36).foldl (fun t p => t.pump p) s

/-- A packet for its destination; one with no route is unreachable: its target is remembered (R424, R444). -/
def State.send (s : State) (kind : BitVec 4) (k : Packet) (from? : Option Nat) : State :=
  match s.route k.dst.toNat k.niche k.channel k.dl from? with
  | some (p, dl) => s.enqueue p kind { k with dl := dl }
  | none => { s with tr := { s.tr with unreachable := insNat s.tr.unreachable k.dst.toNat } }

/-- Whether a device is declared dead. -/
def State.isDead (s : State) (t : Nat) : Bool := (Sparse.find s.tr.dead t).isSome

/-- An empty packet. -/
def Packet.empty : Packet :=
  { status := 0, src := 0, dst := 0, niche := 0, channel := 0, sys := false, dl := false, lengthM1 := 0, addr := 0,
    tag := 0, op := 0, size := 0, lanes := 0, arg := 0, data := [] }

/-- An operation toward another device: its tag, its packet, and what its answer completes. -/
def State.request (s : State) (kind : BitVec 4) (k : Packet) (purpose : RemoteUse) : State :=
  let k := { k with src := BitVec.ofNat 14 s.myDevice, tag := s.tr.nextTag }
  let o : RemoteOp := { tag := k.tag, device := k.dst, addr := k.addr.toNat, purpose := purpose, since := s.ns }
  let s := { s with tr := { s.tr with nextTag := s.tr.nextTag + 1, ops := s.tr.ops ++ [o] } }
  s.send kind k none

/-- The packet of an access to a remote physical address, in the channel of its context (R425). -/
def accessPacket (device : BitVec 14) (pa : Nat) (n : NicheNum) (ctx : BitVec 4) (idx : Nat) (bytes : Nat) (data : List Byte) : Packet :=
  { Packet.empty with dst := device, niche := n, channel := BitVec.ofNat 8 (ctx.toNat * 16 + idx),
                      lengthM1 := BitVec.ofNat 12 (bytes - 1),
                      addr := BitVec.ofNat 62 (device.toNat * 2 ^ 48 + pa % 2 ^ 48), data := data }

/-- A LEASE packet (R439): ARG holds the operation in [7:0], 0 a request, 1 a grant, 2 a return, and the count of frames from
bit 8 on; ADDR is the first frame (assumption log). -/
def leasePacket (device : BitVec 14) (pa : Nat) (n : NicheNum) (op count : Nat) : Packet :=
  { Packet.empty with dst := device, niche := n, channel := 1, sys := true,
                      addr := BitVec.ofNat 62 (device.toNat * 2 ^ 48 + pa % 2 ^ 48), arg := BitVec.ofNat 64 (op + 256 * count) }

/-- Bytes toward another device cut into runs of poisoned and of sound 64-bit words: address, bytes, whether poisoned. -/
def poisonRuns (a : Nat) (bs : List Byte) (poison : List Nat) : List (Nat × List Byte × Bool) :=
  (bs.mapIdx (fun i b => (a + i, b))).foldr (fun x (rs : List (Nat × List Byte × Bool)) =>
    let bad := poison.contains (x.1 / 8 * 8)
    match rs with
    | (_, ys, p) :: rest => if p = bad then (x.1, x.2 :: ys, p) :: rest else (x.1, [x.2], bad) :: rs
    | [] => [(x.1, [x.2], bad)]) []

/-- WRITE packets toward another device, poisoned runs marked POISONED (table STATUS). -/
def State.sendBytes (s : State) (device : BitVec 14) (pa : Nat) (n : NicheNum) (ctx : BitVec 4) (idx : Nat) (bs : List Byte)
    (poison : List Nat) (purpose : RemoteUse) : State :=
  (poisonRuns pa bs poison).foldl (fun s r =>
    s.request 1 { accessPacket device r.1 n ctx idx r.2.1.length r.2.1 with status := if r.2.2 then 3 else 0 } purpose) s

end Sys2Proof.Machine
end

