-- ==== Sys2Proof/Machine/Access.lean ====
section
/-! DEFINITION. Niche translation, pools and frames, the data cache, and what happens at the home of an access
(10_memory_tiers.md R255 to R268, 03_core.md R77 to R90, 17_host_link.md R460 to R463). -/

namespace Sys2Proof.Machine

/-! ## Pools and frames (R258, R267, R268, R537) -/

/-- The regions granted to a niche, ascending. -/
def State.granted (s : State) (n : NicheNum) : List Nat := ones 64 (s.niche n).grant.toNat

/-- Whether a range meets the firmware region, the top 1 GiB of HBM4 (R537). -/
def inFirmware (a n : Nat) : Bool := overlaps a n 0x8F_C000_0000 0x4000_0000

/-- A range that lies wholly in HBM4 (tier 1) or in the bulk tier (tier 2). -/
def State.tierOf (s : State) (a n : Nat) : Option Nat :=
  if within a n 0 0x90_0000_0000 then some 1
  else if within a n 0x1000_0000_0000 (s.disc.bulkGib.toNat * 2 ^ 30) then some 2
  else none

/-- NPL_POOLk as a range (tier, base, bytes); none when VALID is 0 or the pool is ignored (R267). -/
def State.pool (s : State) (n : NicheNum) (k : Nat) : Option (Nat × Nat × Nat) :=
  let r := Sparse.getD (s.niche n).pools k 0
  let base := fld r 21 27 * 2 ^ 21
  let len := fld r 1 20 * 2 ^ 21
  if bit r 0 && !inFirmware base len then (s.tierOf base len).map (fun t => (t, base, len)) else none

/-- NPL_CONTROL.POOL_BAD (R267). -/
def State.poolBad (s : State) (n : NicheNum) : Nat :=
  ((List.range 4).map (fun k =>
    if bit (Sparse.getD (s.niche n).pools k 0) 0 && (s.pool n k).isNone then 2 ^ k else 0)).sum

/-- Every pool of a niche: tier (0 shelf, 1 HBM4, 2 bulk, 3 remote), global physical base, bytes. -/
def State.poolsOf (s : State) (n : NicheNum) : List (Nat × Nat × Nat) :=
  let x := s.niche n
  let dev := s.myDevice * 2 ^ 48
  ((List.range 4).filterMap (fun k => (s.pool n k).map (fun p => (p.1, dev + p.2.1, p.2.2)))) ++
    (if bit x.nplControl 0 then (s.granted n).map (fun r => (0, dev + shelfBase (BitVec.ofNat 6 r), 0x1FC_0000)) else []) ++
    (if bit x.nplControl 1 then (s.tr.held.filter (fun h => h.1 == n)).map (fun h => (3, h.2, 0x20_0000)) else [])

/-- The first free aligned frame of a range, hopping over frames in use. -/
def gapIn (used : List (Nat × Nat)) (hi size : Nat) : Nat → Nat → Option Nat
  | 0, _ => none
  | k + 1, a =>
    if a + size ≤ hi then
      match used.find? (fun u => overlaps a size u.1 u.2) with
      | none => some a
      | some u => gapIn used hi size k ((u.1 + u.2 + size - 1) / size * size)
    else none

/-- A free frame of a tier and size, optionally only in one shelf segment. -/
def State.freeFrame (s : State) (n : NicheNum) (tier size : Nat) (seg : Option RegionNum) : Option Nat :=
  let used := s.place.frames.map (fun f => (f.2.1, f.2.2))
  (s.poolsOf n).findSome? (fun p =>
    let ok := p.1 == tier && (match seg with | none => true | some r => p.2.1 % 2 ^ 48 == shelfBase r)
    if ok then gapIn used (p.2.1 + p.2.2) size (used.length + 1) ((p.2.1 + size - 1) / size * size) else none)

/-- The base virtual address and the size of the page of a leaf level (table Translation levels). -/
def pageSize (level : Nat) : Nat := if level = 0 then 0x1_0000 else if level = 1 then 0x20_0000 else 0x4000_0000

def pageBase (level va : Nat) : Nat := va / pageSize level * pageSize level

/-- The data object of an installed maquette that holds an address: its home tier (R268 step 2). -/
def State.objTier (s : State) (n : NicheNum) (va : Nat) : Option Nat :=
  (s.fe.maqs.filter (fun p => p.1 / 4096 == n.toNat)).findSome? (fun p =>
    (p.2.objs.find? (fun o => decide (o.va ≤ va) && decide (va < o.va + o.bytes))).map (fun o => o.tier.toNat))

/-- The tiers R268 tries for a page, in order; TIER codes: 0 shelf, 1 HBM4, 2 bulk, 3 remote. -/
def State.tierOrder (s : State) (n : NicheNum) (base : Nat) : List Nat :=
  let hint := (Sparse.getD (s.niche n).pages base {}).tierHint
  (hint.toList.map BitVec.toNat) ++ (s.objTier n base).toList ++ [1] ++ (if bit (s.niche n).nplControl 1 then [3] else []) ++ [2]

/-- The peers of ports that are UP. -/
def State.peers (s : State) : List Nat := (s.tr.ports.filter (fun p => p.2.state == 2)).map (fun p => p.2.peerId.toNat)

/-- Where R268 finds a frame for a page: a free frame of a tier, or a frame that a peer is to lease (R439, R568). -/
inductive FrameChoice where
  | frame (tier f : Nat)
  | ask
  | none
deriving DecidableEq, Repr

/-- Whether a niche may still ask a peer for a frame. -/
def State.canLease (s : State) (n : NicheNum) : Bool :=
  bit (s.niche n).nplControl 1 && !s.peers.isEmpty && !s.place.refused.contains n

/-- The first of some tiers that has a free frame; the remote pool has one where a peer can be asked. -/
def State.frameIn (s : State) (n : NicheNum) (size : Nat) : List Nat → FrameChoice
  | [] => .none
  | t :: ts =>
    match s.freeFrame n t size none with
    | some f => .frame t f
    | none => if t = 3 ∧ s.canLease n = true then .ask else s.frameIn n size ts

/-- What R268 takes for a page. -/
def State.chooseFrame (s : State) (n : NicheNum) (base size : Nat) : FrameChoice := s.frameIn n size (s.tierOrder n base)

/-! ## The walk (R259 to R261, R566) -/

/-- What a walk finds. -/
inductive Walk where
  | leaf (level addr : Nat) (entry : W64)
  /-- PAGE_FAULT; a broken rule of R260 carries the level, the entry's local address and its value. -/
  | bad (broken : Option (Nat × Nat × W64))
  | poison (addr : Nat)
  | hole (addr : Nat)
deriving DecidableEq, Repr

/-- Whether a global physical address is on this device (R261). -/
def State.isLocal (s : State) (gpa : Nat) : Bool := gpa / 2 ^ 48 % 2 ^ 14 == s.myDevice

/-- Whether a leaf at a level keeps R260. -/
def leafOk (level : Nat) (e : W64) : Bool :=
  let placed := bit e 5
  let host := bit e 7
  decide (level ≤ 2) && fld e 12 4 == 0 && fld e 62 2 == 0 && !(placed && (level == 2 || host)) &&
    (!(!placed || bit e 11) || fld e 16 46 * 2 ^ 16 % pageSize level == 0) && (!host || fld e 52 10 == 0)

/-- The address of the entry that a walk reads in a table at a level (R259). -/
def entryAddr (va level table : Nat) : Nat :=
  table + 8 * (match level with
    | 0 => va / 2 ^ 16 % 32 | 1 => va / 2 ^ 21 % 512 | 2 => va / 2 ^ 30 % 512 | 3 => va / 2 ^ 39 % 512 | _ => va / 2 ^ 48 % 512)

/-- The walk from a table at a level, one entry a level (R259). -/
def State.walkFrom (s : State) (va : Nat) : Nat → Nat → Walk
  | level, table =>
    let a := entryAddr va level table
    if s.classOf a = .hole then .hole a
    else if s.classOf a = .csr then .bad none
    else if s.mem.poisoned a 8 then .poison a
    else
      let e := s.mem.word a
      if !bit e 0 then .bad none
      else if bit e 1 then (if leafOk level e then .leaf level a e else .bad (some (level, a, e)))
      else
        match level with
        | 0 => .bad (some (0, a, e))
        | k + 1 =>
          let next := fld e 8 54 * 2 ^ 8
          let align := if k = 0 then 256 else 4096
          if fld e 2 6 != 0 || fld e 62 2 != 0 || !s.isLocal next || next % align != 0 then .bad (some (k + 1, a, e))
          else State.walkFrom s va k (next % 2 ^ 48)

/-- The address of a niche's NPL_ROOT register (R275). -/
def nplRootPa (n : NicheNum) : Nat := 0x3000_0380_1000 + n.toNat * 0x100

/-- The bytes that an entry at a level covers (table Translation levels). -/
def spanOf (level : Nat) : Nat :=
  match level with | 0 => 2 ^ 16 | 1 => 2 ^ 21 | 2 => 2 ^ 30 | 3 => 2 ^ 39 | _ => 2 ^ 48

/-- The walk of a niche virtual address through the niche's table. -/
def State.walk (s : State) (n : NicheNum) (va : Nat) : Walk :=
  let r := (s.niche n).nplRoot
  if !bit r 0 then .bad none
  else
    let root := fld r 12 50 * 2 ^ 12
    if s.isLocal root then s.walkFrom va 4 (root % 2 ^ 48) else .bad (some (5, nplRootPa n, r))

/-! ## Errors in memory words (R77 to R81, R472, R486) -/

/-- A single-bit error in a word: corrected and, in a drawer, written back later (R77). -/
def State.correctWord (s : State) (a : Nat) (scrub injected : Bool) : State :=
  let w := a / 8 * 8
  let s := if s.classOf a = .drawer then
      s.updCore (drawerCore a) (fun k => { k with drawerCe := satAdd k.drawerCe 1, ceWait := insNat k.ceWait w })
    else s
  s.memError w false scrub injected

/-- The bank of a drawer offset (R75). -/
def bankOf (off : Nat) : Nat := off / 32 % 8

/-- The row of a drawer offset in its bank (R75). -/
def rowOf (off : Nat) : Nat := off / 256 % 512

/-- Whether a drawer word comes before another in the order of capture: the lower bank, then the lower offset (R100). -/
def capturedFirst (off other : Nat) : Bool :=
  decide (bankOf off < bankOf other) || (bankOf off == bankOf other && decide (off < other))

/-- DRAWER_ECC_LOG after a word of a drawer was poisoned in a region cycle (R79, R100). -/
def Core.captureEcc (k : Core) (cycle : W64) (off : Nat) (scrub : Bool) : Core :=
  let take (k : Core) : Core := { k with eccOff := BitVec.ofNat 17 (off / 8 * 8), eccScrub := scrub, eccValid := true, eccCycle := cycle }
  if !k.eccValid then take k
  else
    let k := { k with eccOverflow := true }
    if k.eccCycle = cycle ∧ capturedFirst off k.eccOff.toNat then take k else k

/-- An uncorrectable error in a word: it is poisoned and logged (R79, DRAWER_ECC_LOG). -/
def State.poisonWord (s : State) (a : Nat) (scrub injected : Bool) : State :=
  let w := a / 8 * 8
  let s := { s with mem := s.mem.addPoison [w] }
  let s := if s.classOf a = .drawer then
      let cycle := (s.region (regionOf (drawerCore a))).cycles
      s.updCore (drawerCore a) (fun k => ({ k with drawerUe := satAdd k.drawerUe 1 } : Core).captureEcc cycle (w % 0x2_0000) scrub)
    else s
  s.memError w true scrub injected

/-- ERR_INJECT.ARM with a TARGET. -/
def State.armed (s : State) (target : Nat) : Bool := bit s.err.inject 0 && fld s.err.inject 1 4 == target

/-- ERR_INJECT.CORE_NUM. -/
def State.injCore (s : State) : CoreNum := BitVec.ofNat 13 (fld s.err.inject 5 13)

/-- The device clears ARM once it has injected the error (R486). -/
def State.disarm (s : State) : State := { s with err := { s.err with inject := setBit s.err.inject 0 false } }

/-- An access to memory finds the injected error when it is at the place selected (R486). -/
def State.inject (s : State) (a n : Nat) : State :=
  if !bit s.err.inject 0 || n = 0 then s
  else
    let at_ := fld s.err.injectAddr 0 48
    let here := decide (a / 8 * 8 ≤ at_) && decide (at_ < (a + n + 7) / 8 * 8)
    match s.classOf a with
    | .drawer =>
      if drawerCore a == s.injCore && s.armed 0 then s.disarm.correctWord a false true
      else if drawerCore a == s.injCore && s.armed 1 then s.disarm.poisonWord a false true
      else s
    | .hbm =>
      if here && s.armed 6 then s.disarm.correctWord at_ false true
      else if here && s.armed 7 then s.disarm.poisonWord at_ false true
      else s
    | .shelf => if here && s.armed 8 then s.disarm.poisonWord at_ false true else s
    | .bulk => if here && s.armed 9 then s.disarm.poisonWord at_ false true else s
    | _ => s

/-! ## Translation of an access (R260, R261, R263, R268, R270) -/

/-- The outcome of a translation. -/
inductive Tr where
  | ok (t : Tgt) (cache : Bool)
  /-- Exception code 2 PAGE_FAULT, 3 ACCESS or 6 POISON. -/
  | fault (code : Nat)
  /-- The page is unbacked or migrating: the access waits (R268, R270). -/
  | wait
deriving DecidableEq, Repr

/-- Who translates: a core's engines, or the plinth walker (R263, R567). -/
abbrev Walker := Option CoreNum

def State.tcOf (s : State) (w : Walker) : List TcEntry :=
  match w with
  | some c => (s.core c).tc
  | none => s.fe.tc

def State.setTc (s : State) (w : Walker) (l : List TcEntry) : State :=
  match w with
  | some c => s.updCore c (fun k => { k with tc := l })
  | none => { s with fe := { s.fe with tc := l } }

/-- A leaf kept in a translation cache of 128 (core) or 256 (plinth) entries, the oldest entry dropped (R263, R567). -/
def State.keepTc (s : State) (w : Walker) (e : TcEntry) : State :=
  let cap := match w with | some _ => 128 | none => 256
  let l := s.tcOf w
  s.setTc w ((if cap ≤ l.length then l.drop 1 else l) ++ [e])

/-- A record of TRANSLATION_ENTRY (R260, R567). -/
def State.logEntry (s : State) (w : Walker) (n : NicheNum) (b : Nat × Nat × W64) : State :=
  s.logError { cause := 0x2D, loc := match w with | some c => dieLoc (regionOf c) | none => 0, core := w, niche := some n,
               aux := b.1, addr := s.globalPa b.2.1, aspace := 1, detail := b.2.2 }

/-- The pointer cache of a walker: of a core's region, or the plinth walker's (R263, R567). -/
def State.ptrsOf (s : State) (w : Walker) : List PtrEntry :=
  match w with
  | some c => (s.region (regionOf c)).ptrs
  | none => s.fe.ptrs

def State.setPtrs (s : State) (w : Walker) (l : List PtrEntry) : State :=
  match w with
  | some c => s.updRegion (regionOf c) (fun x => { x with ptrs := l })
  | none => { s with fe := { s.fe with ptrs := l } }

/-- Where a walk begins: at the table that the deepest cached pointer of the niche names, else at the root; none where the root
breaks R260 or is not enabled. -/
def State.walkStart (s : State) (w : Walker) (n : NicheNum) (va : Nat) : Option (Nat × Nat) :=
  let r := (s.niche n).nplRoot
  let root := fld r 12 50 * 2 ^ 12
  match [1, 2, 3, 4].findSome? (fun l => (s.ptrsOf w).find? (fun p => p.niche == n && p.level == l && p.va == va / spanOf l * spanOf l)) with
  | some p => if bit r 0 then some (p.level - 1, p.next) else none
  | none => if bit r 0 && s.isLocal root then some (4, root % 2 ^ 48) else none

/-- The pointers that a walk of a niche's address follows from a table at a level. -/
def State.walkPtrs (s : State) (n : NicheNum) (va : Nat) : Nat → Nat → List PtrEntry
  | 0, _ => []
  | k + 1, table =>
    let a := entryAddr va (k + 1) table
    let e := s.mem.word a
    let next := fld e 8 54 * 2 ^ 8
    if !(s.classOf a).isMemory || s.mem.poisoned a 8 || !bit e 0 || bit e 1 || fld e 2 6 != 0 || fld e 62 2 != 0 || !s.isLocal next ||
        next % (if k = 0 then 256 else 4096) != 0 then []
    else { niche := n, level := k + 1, va := va / spanOf (k + 1) * spanOf (k + 1), next := next % 2 ^ 48 } :: s.walkPtrs n va k (next % 2 ^ 48)

/-- Pointers kept in a walker's cache of 512, the oldest dropped (R263, R567). -/
def State.keepPtrs (s : State) (w : Walker) (ps : List PtrEntry) : State :=
  if ps.isEmpty then s
  else
    let l := s.ptrsOf w ++ ps
    s.setPtrs w (l.drop (l.length - 512))

/-- The walk that a walker makes for an address, from where its cached pointers let it begin. -/
def State.walkBy (s : State) (w : Walker) (n : NicheNum) (va : Nat) : Walk :=
  match s.walkStart w n va with
  | some (l, t) => s.walkFrom va l t
  | none => s.walk n va

/-- The entries that a walk reads from a table at a level (R259). -/
def State.walkReads (s : State) (va : Nat) : Nat → Nat → List Nat
  | level, table =>
    let a := entryAddr va level table
    let e := s.mem.word a
    if !(s.classOf a).isMemory then []
    else if !bit e 0 || bit e 1 then [a]
    else
      match level with
      | 0 => [a]
      | k + 1 => a :: State.walkReads s va k (fld e 8 54 * 2 ^ 8 % 2 ^ 48)

/-- An error injected at an entry that a walk of an address reads (R486). -/
def State.walkInject (s : State) (w : Walker) (n : NicheNum) (va : Nat) : State :=
  match if bit s.err.inject 0 then s.walkStart w n va else none with
  | some (l, t) => (s.walkReads va l t).foldl (fun s a => s.inject a 8) s
  | none => s

/-- The leaf of an address: from the translation cache, else by a walk that fills it; a fault code otherwise. -/
def State.findLeaf (s : State) (w : Walker) (n : NicheNum) (va : Nat) : (Except Nat (Nat × Nat × W64)) × State :=
  match (s.tcOf w).find? (fun e => e.niche == n && e.va == pageBase e.level va) with
  | some e => (.ok (e.level, 0, e.leaf), s)
  | none =>
    let s := s.walkInject w n va
    let found := s.walkBy w n va
    let s := match s.walkStart w n va with | some (l, t) => s.keepPtrs w (s.walkPtrs n va l t) | none => s
    match found with
    | .leaf l a e =>
      let stable := !(bit e 5 && (bit e 10 || !bit e 11))
      (.ok (l, a, e), if stable then s.keepTc w { niche := n, level := l, va := pageBase l va, leaf := e } else s)
    | .bad none => (.error 2, s)
    | .bad (some b) => (.error 2, s.logEntry w n b)
    | .poison a => (.error 6, s.memError a true false false)
    | .hole a => (.error 2, s.hole a false)

/-- Whether a leaf permits a kind of access (R260, R457, R565, R375). -/
def permits (k : AccKind) (e : W64) : Bool :=
  match k with
  | .load | .touch => true
  | .store | .atomic | .inval => bit e 2
  | .fetch => bit e 3 && !bit e 7

/-- A sample for the page's tally: one access in 2^SAMPLE_SHIFT (text before R269). -/
def State.tally (s : State) (w : Walker) (n : NicheNum) (base : Nat) : State :=
  let cnt := s.place.sampled + 1
  let s := { s with place := { s.place with sampled := cnt } }
  if cnt % 2 ^ fld s.place.control 1 3 = 0 then
    match w with
    | some c =>
      let r := (regionOf c).toNat
      s.updNiche n (fun x =>
        let p := Sparse.getD x.pages base {}
        { x with pages := Sparse.put x.pages base
                   { p with tally := p.tally + 1, byRegion := Sparse.put p.byRegion r (Sparse.getD p.byRegion r 0 + 1) } })
    | none => s
  else s

/-- Whether a line of device memory lies in a host-coherent window (R460). -/
def State.inWindow (s : State) (a : Nat) : Bool :=
  s.qcl.wins.any (fun p =>
    let base := fld p.2 21 27 * 2 ^ 21
    let len := fld p.2 1 20 * 2 ^ 21
    bit p.2 0 && (s.tierOf base len).isSome && decide (base ≤ a) && decide (a < base + len))

/-- What may enter the data cache of a core (R83). -/
def State.cacheable (s : State) (w : Walker) (t : Tgt) (cacheBit : Bool) : Bool :=
  match w, t with
  | some c, .dev pa =>
    cacheBit && s.classOf pa != .csr && s.classOf pa != .hole && !(s.classOf pa == .drawer && drawerCore pa == c) && !s.inWindow pa
  | some _, .remote _ _ => cacheBit
  | _, _ => false

/-- The translation of an access by a walker for a niche. -/
def State.translate (s : State) (w : Walker) (n : NicheNum) (va : Nat) (k : AccKind) : Tr × State :=
  if 2 ^ 57 ≤ va then (.fault 2, s)
  else
    match s.findLeaf w n va with
    | (.error code, s) => (.fault code, s)
    | (.ok (l, _, e), s) =>
      let pa := fld e 16 46 * 2 ^ 16 / pageSize l * pageSize l + va % pageSize l
      let moving := bit e 5 && bit e 10
      let unbacked := bit e 5 && !bit e 10 && !bit e 11
      if unbacked && s.chooseFrame n (pageBase l va) (pageSize l) = .none then (.fault 2, s)
      else if !moving && !unbacked && !bit e 7 && !s.isLocal pa && !s.disc.idValid then (.fault 2, s)
      else if !permits k e then (.fault 3, s)
      else if moving || unbacked then (.wait, s)
      else
        let s := if bit e 5 then s.tally w n (pageBase l va) else s
        if bit e 7 then (if k = .atomic && s.qcl.ver == 0x10 then .fault 3 else .ok (.host (pa % 2 ^ 52)) false, s)
        else if s.isLocal pa then
          let t := Tgt.dev (pa % 2 ^ 48)
          (if k = .atomic && s.classOf (pa % 2 ^ 48) == .csr then .fault 3 else .ok t (s.cacheable w t (bit e 4)), s)
        else
          let t := Tgt.remote (BitVec.ofNat 14 (pa / 2 ^ 48)) (pa % 2 ^ 48)
          (.ok t (s.cacheable w t (bit e 4)), s)

/-- DETAIL of an exception on a virtual address (table Exception record): [57] marks a write. -/
def vaDetail (va : Nat) (k : AccKind) : W64 :=
  BitVec.ofNat 64 (va % 2 ^ 57 + (match k with | .store | .atomic | .inval => 2 ^ 57 | _ => 0))

/-- DETAIL for a word that has only a local physical address: [58] set. -/
def paDetail (pa : Nat) : W64 := BitVec.ofNat 64 (pa % 2 ^ 48 + 2 ^ 58)

/-! ## Errors of the mesh -/

/-- An injected mesh flit error (R486, target 11): the flit is replayed (R472, MESH_REPLAY). -/
def State.meshFlit (s : State) : State :=
  if s.armed 11 then s.disarm.logError { cause := 0x0A, injected := true } else s

/-! ## The plinth directory (R461 to R463) -/

/-- The lines of a range that the host must give up before the access: exclusive ones for a read, all for a write (R461). -/
def State.linesHeld (s : State) (a n : Nat) (write : Bool) : List Nat :=
  (s.qcl.dir.filter (fun d => overlaps d.1 64 a n && (write || d.2))).map (·.1)

/-- The recalls and invalidations that a device access starts (R461, QCL_DIR_STATUS). -/
def State.recall (s : State) (lines : List Nat) : State :=
  let new := lines.filter (fun l => !s.qcl.recalling.contains l)
  { s with qcl := { s.qcl with
      recalling := s.qcl.recalling ++ new, recalls := satAdd s.qcl.recalls new.length
      recallAt := new.foldl (fun m l => Sparse.put m l s.ns) s.qcl.recallAt } }

/-! ## At the home of a device address -/

/-- Bytes loaded at their home: the lowest poisoned word if any (R79), and the state after the read; a hole reads zero (R37). -/
def State.homeRead (s : State) (a n : Nat) : (List Byte × Option Nat) × State :=
  let s := s.inject a n
  let (bs, s') := s.devRead a n
  ((bs, if (s.classOf a).isMemory then s.mem.firstPoison a n else none), s')

/-- Whether two accesses touch a common byte. -/
def tgtOverlap (a : Tgt) (an : Nat) (b : Tgt) (bn : Nat) : Bool :=
  match a, b with
  | .dev x, .dev y => overlaps x an y bn
  | .host x, .host y => overlaps x an y bn
  | .remote d x, .remote e y => d == e && overlaps x an y bn
  | _, _ => false

/-- The marks of releases whose bytes a store overwrites go (R295). -/
def State.unmark (s : State) (t : Tgt) (n : Nat) : State :=
  { s with rels := s.rels.filter (fun r => !tgtOverlap r.tgt r.bytes.length t n) }

/-- The words of a corrected drawer error that a store overtakes (R78), and the release marks it overwrites (R295). -/
def State.overtake (s : State) (a n : Nat) : State :=
  let s := if s.classOf a = .drawer then
      s.updCore (drawerCore a) (fun k => { k with ceWait := k.ceWait.filter (fun w => !overlaps w 8 a n) })
    else s
  s.unmark (.dev a) n

/-- The read of a word of a drawer that a store covers only in part (R80). -/
def State.mergeRead (s : State) (a n : Nat) : State :=
  if s.classOf a = .drawer && (a % 8 != 0 || n % 8 != 0) then s.inject a n else s

/-- Bytes stored at their home (R80); a store to a hole is discarded (R37). -/
def State.homeWrite (s : State) (a : Nat) (bs : List Byte) : State :=
  ((s.mergeRead a bs.length).overtake a bs.length).devWrite a bs

/-- Whether the home of a local physical address answers an access from a region, or from the plinth: the drawer of a region in
HALT or OFF answers no access from outside the region (R52). -/
def State.awake (s : State) (r : Option RegionNum) (a : Nat) : Bool :=
  s.classOf a != .drawer || (s.region (regionOf (drawerCore a))).running || r == some (regionOf (drawerCore a))

/-- The home of an access on this device or the host, by number: a stack, a bulk channel, a shelf segment, a drawer, the control
and status space, the host. Another device's accesses keep their order in their Trestle channel (R292). -/
def State.homeKey (s : State) (t : Tgt) : Option Nat :=
  match t with
  | .dev a =>
    match s.classOf a with
    | .hbm => some (16 + stackOf a)
    | .bulk => some (64 + s.channelOf a)
    | .shelf => some (1024 + (a - 0x2000_0000_0000) / 0x200_0000)
    | .drawer => some (2048 + (drawerCore a).toNat)
    | .csr => some 1
    | .hole => some 2
  | .host _ => some 3
  | .remote _ _ => none

end Sys2Proof.Machine
end

