-- ==== Sys2Proof/Machine/Operands.lean ====
section
/-! DEFINITION. The instruction word (05_instruction_set.md): its encoding from a row's fields, what R130 to R133 make of
it, and the registers that its operands name (R71, R72, R131). -/

namespace Sys2Proof.Machine

/-! ## Encoding (R129) -/

/-- The common head: OP, PRED, PNEG, FN. -/
def encHead (op fn : Nat) (pred : BitVec 3) (pneg : Bool) : List (Nat × Nat × Nat) :=
  [(57, 7, op), (54, 3, pred.toNat), (53, 1, pneg.toNat), (48, 5, fn)]

/-- An R-format word. -/
def encR (op fn : Nat) (f : RFmt) : W64 :=
  pack (encHead op fn f.pred f.pneg ++ [(40, 8, f.dst.toNat), (32, 8, f.src1.toNat), (24, 8, f.src2.toNat),
    (16, 8, f.src3.toNat), (12, 4, f.fmt.toNat), (8, 4, f.fmt2.toNat), (5, 3, f.rnd.toNat), (3, 2, f.sat.toNat),
    (2, 1, f.flush.toNat), (0, 2, f.rsvd.toNat)])

/-- An I-format or B-format word. -/
def encI (op fn : Nat) (f : IFmt) : W64 :=
  pack (encHead op fn f.pred f.pneg ++ [(40, 8, f.dst.toNat), (32, 8, f.src1.toNat), (0, 32, f.imm.toNat)])

/-- An M-format word. -/
def encM (op fn : Nat) (f : MFmt) : W64 :=
  pack (encHead op fn f.pred f.pneg ++ [(40, 8, f.dst.toNat), (32, 8, f.src1.toNat), (24, 8, f.src2.toNat),
    (21, 3, f.scope.toNat), (18, 3, f.size.toNat), (17, 1, f.space.toNat), (16, 1, f.sx.toNat), (0, 16, f.off.toNat)])

/-! ## Which words are legal (R130 to R133) -/

def wOp (w : W64) : Nat := fld w 57 7
def wFn (w : W64) : Nat := fld w 48 5
def wDst (w : W64) : Nat := fld w 40 8
def wS1 (w : W64) : Nat := fld w 32 8
def wS2 (w : W64) : Nat := fld w 24 8
def wS3 (w : W64) : Nat := fld w 16 8
def wFmt (w : W64) : Nat := fld w 12 4
def wFmt2 (w : W64) : Nat := fld w 8 4
def wSize (w : W64) : Nat := fld w 18 3

/-! ## Decoding (R129): the fields of a word, less OP and FN -/

/-- The fields of a word read in the R format. -/
def wR (w : W64) : RFmt where
  pred := BitVec.ofNat 3 (fld w 54 3)
  pneg := bit w 53
  dst := BitVec.ofNat 8 (wDst w)
  src1 := BitVec.ofNat 8 (wS1 w)
  src2 := BitVec.ofNat 8 (wS2 w)
  src3 := BitVec.ofNat 8 (wS3 w)
  fmt := BitVec.ofNat 4 (wFmt w)
  fmt2 := BitVec.ofNat 4 (wFmt2 w)
  rnd := BitVec.ofNat 3 (fld w 5 3)
  sat := BitVec.ofNat 2 (fld w 3 2)
  flush := bit w 2
  rsvd := BitVec.ofNat 2 (fld w 0 2)

/-- The fields of a word read in the I or the B format. -/
def wI (w : W64) : IFmt where
  pred := BitVec.ofNat 3 (fld w 54 3)
  pneg := bit w 53
  dst := BitVec.ofNat 8 (wDst w)
  src1 := BitVec.ofNat 8 (wS1 w)
  imm := BitVec.ofNat 32 (fld w 0 32)

/-- The fields of a word read in the M format. -/
def wM (w : W64) : MFmt where
  pred := BitVec.ofNat 3 (fld w 54 3)
  pneg := bit w 53
  dst := BitVec.ofNat 8 (wDst w)
  src1 := BitVec.ofNat 8 (wS1 w)
  src2 := BitVec.ofNat 8 (wS2 w)
  scope := BitVec.ofNat 3 (fld w 21 3)
  size := BitVec.ofNat 3 (wSize w)
  space := bit w 17
  sx := bit w 16
  off := BitVec.ofNat 16 (fld w 0 16)

/-- What a register field names (R131). -/
inductive Kind where
  /-- The field is not used: it must be zero (R130). -/
  | none
  /-- Scalar register on the SE, vector register on the VE. -/
  | reg
  /-- Scalar register on the SE, vector register pair on the VE. -/
  | pair
  /-- Predicate register. -/
  | pred
deriving DecidableEq, Repr

/-- Whether a field holds what its kind accepts (R131). -/
def kindOk (isVe : Bool) (regs : Nat) (k : Kind) (x : Nat) : Bool :=
  match k with
  | .none => x == 0
  | .pred => decide (x < 8)
  | .reg => if isVe then decide (x < regs) else decide (x < 64)
  | .pair => if isVe then x % 2 == 0 && decide (x + 1 < regs) else decide (x < 64)

/-- The register fields DST, SRC1, SRC2 hold what their kinds accept. -/
def regs3 (isVe : Bool) (n : Nat) (w : W64) (d a b : Kind) : Bool :=
  kindOk isVe n d (wDst w) && kindOk isVe n a (wS1 w) && kindOk isVe n b (wS2 w)

/-- The R-format fields below SRC3 that an instruction does not use are zero. -/
def restR (w : W64) (fmt fmt2 rnd sat flush : Bool) : Bool :=
  (fmt || wFmt w == 0) && (fmt2 || wFmt2 w == 0) && (rnd && decide (fld w 5 3 ≤ 2) || fld w 5 3 == 0) &&
    (sat && decide (fld w 3 2 ≤ 1) || fld w 3 2 == 0) && (flush || !bit w 2) && fld w 0 2 == 0

/-- F32, H16 or W16. -/
def isFl (x : Nat) : Bool := x == 0xA || x == 0xB || x == 0xC

/-- The kinds of the address and data fields of an M-format word. -/
def addrKind (w : W64) : Kind := if bit w 17 then .reg else .pair
def dataKind (w : W64) : Kind := if wSize w == 3 then .pair else .reg

/-- Legality of the R-format integer and predicate operations. -/
def legalInt (isVe : Bool) (n : Nat) (w : W64) : Bool :=
  let fn := wFn w
  match wOp w with
  | 0x01 | 0x08 =>
    isVe == (wOp w == 0x08) &&
    (if fn ≤ 2 then regs3 isVe n w .reg .reg .reg && wS3 w == 0 && restR w false false false true false
     else if fn ≤ 14 then regs3 isVe n w .reg .reg .reg && wS3 w == 0 && restR w false false false false false
     else if fn == 15 then regs3 isVe n w .reg .reg .reg && decide (wS3 w < 8) && restR w false false false false false
     else if fn == 16 then isVe && regs3 isVe n w .pair .pair .pair && wS3 w == 0 && restR w false false false false false
     else if fn ≤ 18 then isVe && regs3 isVe n w .reg .reg .none && wS3 w == 0 && restR w false false false false false
     else false)
  | 0x02 => !isVe && decide (fn ≤ 14) && kindOk false n .reg (wDst w) && kindOk false n .reg (wS1 w)
  | 0x09 => isVe && decide (fn ≤ 14) && kindOk true n .reg (wDst w) && kindOk true n .reg (wS1 w)
  | 0x03 => !isVe && decide (fn ≤ 5) && regs3 false n w .pred .reg .reg && wS3 w == 0 && restR w false false false false false
  | 0x04 => !isVe && decide (fn ≤ 5) && kindOk false n .pred (wDst w) && kindOk false n .reg (wS1 w)
  | 0x05 => !isVe && decide (fn ≤ 1) && kindOk false n .reg (wDst w) && wS1 w == 0
  | 0x06 => decide (fn ≤ 3) && regs3 isVe n w .pred .pred .pred && wS3 w == 0 && restR w false false false false false
  | _ => false

/-- Legality of the VE's float, compare, conversion, transcendental and lane operations. -/
def legalVec (n : Nat) (w : W64) : Bool :=
  let fn := wFn w
  match wOp w with
  | 0x0A =>
    if fn ≤ 2 then regs3 true n w .reg .reg .reg && wS3 w == 0 && isFl (wFmt w) && restR w true false true true true
    else if fn == 3 then regs3 true n w .reg .reg .reg && kindOk true n .reg (wS3 w) && isFl (wFmt w) && restR w true false true true true
    else if fn ≤ 5 then regs3 true n w .reg .reg .reg && wS3 w == 0 && isFl (wFmt w) && restR w true false false false true
    else if fn ≤ 7 then regs3 true n w .reg .reg .none && wS3 w == 0 && isFl (wFmt w) && restR w true false false false false
    else false
  | 0x0B =>
    if fn ≤ 5 then regs3 true n w .pred .reg .reg && wS3 w == 0 && restR w false false false false false
    else if 8 ≤ fn ∧ fn ≤ 11 then
      regs3 true n w .pred .reg .reg && wS3 w == 0 && (isFl (wFmt w) || decide (wFmt w ≤ 3)) && restR w true false false false false
    else false
  | 0x0C =>
    fn == 0 && regs3 true n w .reg .reg .none && wS3 w == 0 && decide (wFmt w ≤ 0xC) && decide (wFmt2 w ≤ 0xC) &&
      restR w true true true true true &&
      !(decide (4 ≤ wFmt w) && decide (wFmt w ≤ 9) && !(decide (4 ≤ wFmt2 w) && decide (wFmt2 w ≤ 9)) && fld w 3 2 == 0)
  | 0x0D => decide (fn ≤ 6) && regs3 true n w .reg .reg .none && wS3 w == 0 && wFmt w == 0xC && restR w true false false false false
  | 0x0E =>
    wS3 w == 0 && restR w false false false false false &&
    (match fn with
     | 0 => regs3 true n w .reg .reg .reg
     | 1 => regs3 true n w .reg .reg .none
     | 2 => regs3 true n w .reg .pred .none
     | 3 => kindOk true n .reg (wDst w) && wS1 w == 0 && decide (wS2 w ≤ 6)
     | _ => false)
  | 0x0F => fn == 0 && kindOk true n .reg (wDst w) && wS1 w == 0
  | 0x38 | 0x39 =>
    fn == 0 && regs3 true n w .reg .reg .reg && kindOk true n .reg (wS3 w) && decide (wFmt w ≤ 7) && isFl (wFmt2 w) &&
      restR w true true true false true
  | _ => false

/-- Legality of branches, semaphores, system operations and command issue. -/
def legalCtl (isVe : Bool) (n : Nat) (w : W64) : Bool :=
  let fn := wFn w
  let imm := fld w 0 32
  let ds (d a : Kind) : Bool := kindOk isVe n d (wDst w) && kindOk isVe n a (wS1 w)
  match wOp w with
  | 0x10 =>
    (match fn with
     | 0 => ds .none .none
     | 1 => ds .pair .none
     | 2 => ds .none .pair && imm == 0
     | 3 => ds .pair .pair && imm == 0
     | 4 => ds .none .none && imm == 0
     | _ => false)
  | 0x29 => decide (fn ≤ 2) && ds (if fn == 2 then .pred else .none) .none && fld w 0 16 != 0 && fld w 22 10 == 0
  | 0x2A => decide (fn ≤ 2) && ds (if fn == 2 then .pred else .none) .reg && fld w 0 16 != 0 && fld w 16 16 == 0
  | 0x30 | 0x31 => !isVe && fn == 0 && regs3 false n w .none .reg .reg && wS3 w == 0 && restR w false false false false false
  | 0x3C =>
    (match fn with
     | 0 | 3 => ds .pair .none && imm == 0
     | 1 => ds .reg .none && imm == 0
     | 2 => ds .reg .none && decide (imm < 256)
     | 4 => ds .none .none && decide (imm < 65536)
     | _ => false)
  | _ => false

/-- Legality of the M-format operations. -/
def legalMem (isVe : Bool) (n : Nat) (w : W64) : Bool :=
  let fn := wFn w
  let size := wSize w
  let scope := fld w 21 3
  let sx := bit w 16
  let space := bit w 17
  let off := fld w 0 16
  match wOp w with
  | 0x20 => fn == 0 && decide (size ≤ 3) && scope == 0 && regs3 isVe n w (dataKind w) (addrKind w) .none
  | 0x21 => fn == 0 && decide (size ≤ 3) && scope == 0 && !sx && regs3 isVe n w .none (addrKind w) (dataKind w)
  | 0x22 => fn == 0 && (size == 2 || size == 3) && decide (scope ≤ 4) && regs3 isVe n w (dataKind w) (addrKind w) .none
  | 0x23 => fn == 0 && (size == 2 || size == 3) && decide (scope ≤ 4) && !sx && regs3 isVe n w .none (addrKind w) (dataKind w)
  | 0x24 =>
    decide (fn ≤ 10) && (size == 2 || (size == 3 && fn != 10)) && scope == 0 && !sx && !space &&
      regs3 isVe n w (dataKind w) .pair (dataKind w)
  | 0x25 => decide (fn ≤ 2) && fld w 0 48 == 0
  | 0x26 =>
    decide (fn ≤ 2) && scope == 0 && !space && (!sx || fn == 1) && wDst w == 0 &&
    (match size with
     | 0 => kindOk isVe n .pair (wS1 w) && wS2 w == 0
     | 1 => kindOk isVe n .pair (wS1 w) && kindOk isVe n .reg (wS2 w)
     | 2 => wS1 w == 0 && wS2 w == 0 && off == 0
     | _ => false)
  | 0x27 => decide (fn ≤ 10) && scope == 0 && size == 0 && !space && !sx && regs3 isVe n w .none .pair .reg
  | 0x28 => isVe && decide (fn ≤ 1) && fld w 0 48 == 0
  | _ => false

/-- Whether an engine accepts a word (R130); `n` is REGS of the running launch on the VE. -/
def legal (isVe : Bool) (n : Nat) (w : W64) : Bool :=
  let op := wOp w
  if op ≤ 0x09 ∧ op ≠ 0 then legalInt isVe n w
  else if op ≤ 0x0F ∨ op = 0x38 ∨ op = 0x39 then isVe && legalVec n w
  else if 0x20 ≤ op ∧ op ≤ 0x28 then legalMem isVe n w
  else legalCtl isVe n w

/-! ## Registers (R71, R72, R108) -/

/-- A read of a scalar register; s0 returns zero (R71). -/
def Se.reg (e : Se) (i : Nat) : W64 := if i = 0 then 0 else Sparse.getD e.sregs i 0

/-- A write of a scalar register; a write to s0 is discarded (R71). -/
def Se.setReg (e : Se) (i : Nat) (v : W64) : Se := if i = 0 then e else { e with sregs := Sparse.put e.sregs i v }

/-- A read of predicate i of a predicate set; p0 returns 1 (R71). -/
def predOf (p : Byte) (i : Nat) : Bool := i == 0 || bit p i

/-- A write of predicate i; a write to p0 is discarded (R71). -/
def setPred (p : Byte) (i : Nat) (b : Bool) : Byte := if i = 0 then p else setBit p i b

/-- A read of a vector register of a lane; what nothing has written since admission is unpredictable (R108), at each issue anew
(R3). -/
def Group.reg (g : Group) (lane i : Nat) : W32 :=
  Sparse.getD g.vregs (lane * 256 + i) (Config.freeReg g.seed (g.draw * 8192 + lane * 256 + i))

def Group.setReg (g : Group) (lane i : Nat) (v : W32) : Group := { g with vregs := Sparse.put g.vregs (lane * 256 + i) v }

/-- A register pair of a lane: the low half in the lower register (R131). -/
def Group.pair (g : Group) (lane i : Nat) : W64 := (g.reg lane (i + 1)) ++ (g.reg lane i)

def Group.setPair (g : Group) (lane i : Nat) (v : W64) : Group :=
  (g.setReg lane i (v.setWidth 32)).setReg lane (i + 1) ((v >>> 32).setWidth 32)

/-- A thread of a group. -/
def Group.thread (g : Group) (lane : Nat) : Thread := g.threads.getD lane { exited := true }

/-- A thread of a group changed. -/
def Group.updThread (g : Group) (lane : Nat) (f : Thread → Thread) : Group :=
  { g with threads := g.threads.set lane (f (g.thread lane)) }

/-- The program counters of some lanes changed. -/
def Group.mapLanes (g : Group) (lanes : List Nat) (f : Nat → Thread → Thread) : Group :=
  lanes.foldl (fun g l => g.updThread l (f l)) g

/-! ## The convergence scheduler (R112) -/

/-- ready(g, lane): live and not waiting at a barrier. -/
def Group.readyLane (g : Group) (lane : Nat) : Bool :=
  let t := g.thread lane
  !t.exited && t.arrived == .no

/-- The lanes that are ready. -/
def Group.readyLanes (g : Group) : List Nat := (List.range 32).filter g.readyLane

/-- The lowest of some program counters. -/
def lowest (l : List Nat) : Option Nat := l.foldl (fun m x => match m with | none => some x | some y => some (min x y)) none

/-- choose_pc of R112: the group with last_pc and streak advanced, the address, and the lanes at it; none when no lane is ready. -/
def Group.choose (g : Group) : Option (Group × Nat × List Nat) :=
  let rl := g.readyLanes
  let pcs := rl.map (fun l => (g.thread l).pc.toNat)
  match lowest pcs with
  | none => none
  | some low =>
    let high := lowest (pcs.filter (fun p => decide (g.lastPc.toNat < p)))
    let pick := if 512 ≤ g.streak then high.getD low else low
    let streak := if 512 ≤ g.streak then 0 else g.streak
    let leftOut := pcs.any (fun p => p != pick)
    some ({ g with lastPc := BitVec.ofNat 64 pick, streak := if leftOut then streak + 1 else 0, draw := g.draw + 1 }, pick,
      rl.filter (fun l => (g.thread l).pc.toNat == pick))

end Sys2Proof.Machine
end

