-- ==== Sys2Proof/Machine/Sem.lean ====
section
/-! DEFINITION. Core and niche semaphores: signals, takes, queues (R321 to R330). -/

namespace Sys2Proof.Machine

/-- Region cycles of a core (R54). -/
def State.cyclesOf (s : State) (c : CoreNum) : W64 := (s.region (regionOf c)).cycles

/-- One self counter of a core (R520). -/
def State.selfAdd (s : State) (c : CoreNum) (j : Nat) (d : W64) : State :=
  s.updCore c (fun k => { k with self := Sparse.put k.self j (Sparse.getD k.self j 0 + d) })

/-- Lanes of a group past the instruction they stand at. -/
def Group.advance (g : Group) (lanes : List Nat) : Group := g.mapLanes lanes (fun _ t => { t with pc := t.pc + 8 })

/-- A group of a core's VE. -/
def State.group (s : State) (c : CoreNum) (slot : Nat) : Option Group := Sparse.find (s.core c).ve.groups slot

/-- A group changed. -/
def State.setGroup (s : State) (c : CoreNum) (slot : Nat) (g : Group) : State :=
  s.updCore c (fun k => { k with ve := { k.ve with groups := Sparse.put k.ve.groups slot g } })

/-- A semaphore of a core. -/
def Core.sem (k : Core) (i : Nat) : HwSem := Sparse.getD k.sems i {}

def Core.setSem (k : Core) (i : Nat) (x : HwSem) : Core := { k with sems := Sparse.put k.sems i x }

/-- The head command of an issue FIFO marked as having taken its count. -/
def takeHead : List FifoCmd → List FifoCmd
  | [] => []
  | f :: fs => { f with taken := true, waiting := false } :: fs

/-- A waiter whose take succeeded goes on: past its SEM.WAIT, or as a command that has taken its count (R321, R218, R342). -/
def Core.wake (k : Core) (w : SemWho) (lanes : List Nat) : Core :=
  match w with
  | .se => { k with se := { k.se with semWait := false, pc := k.se.pc + 8 } }
  | .ve slot =>
    match Sparse.find k.ve.groups slot.toNat with
    | some g =>
      let g : Group := { g with semWait := false }.advance lanes
      { k with ve := { k.ve with groups := Sparse.put k.ve.groups slot.toNat g, issuedAt := Sparse.del k.ve.issuedAt slot.toNat } }
    | none => k
  | .me => { k with me := { k.me with fifo := takeHead k.me.fifo } }
  | .de => { k with de := { k.de with fifo := takeHead k.de.fifo } }
  | .deBlock => { k with de := { k.de with run := k.de.run.map (fun r => { r with taken := true, waiting := false }) } }

/-- ENGINE and SLOT of a waiter, as Frieze records name them. -/
def SemWho.engine : SemWho → Nat × Nat
  | .se => (0, 0)
  | .ve s => (1, s.toNat)
  | .me => (2, 0)
  | .de | .deBlock => (3, 0)

/-- Ticks of a region's copy since a moment. -/
def State.waited (s : State) (c : CoreNum) (since : W64) : Nat := ((s.region (regionOf c)).tl - since).toNat

/-- An event of one region cycle at a semaphore: of a core's engine and slot, a wait that ended, with its ticks, or (none) a signal
that overflowed. -/
structure SemEvent where
  core : CoreNum
  engine : Nat
  slot : Nat
  waited : Option Nat
deriving DecidableEq, Repr

/-- The place of an event among those of its region cycle: core, then SE, VE groups in slot order, ME, DE (R510). -/
def SemEvent.key (e : SemEvent) : Nat := (e.core.toNat * 4 + e.engine) * 32 + e.slot

/-- An event put in its place behind those of the same place. -/
def putEvent (e : SemEvent) : List SemEvent → List SemEvent
  | [] => [e]
  | x :: xs => if e.key < x.key then e :: x :: xs else x :: putEvent e xs

/-- The events of one region cycle in the order of R510. -/
def eventOrder (es : List SemEvent) : List SemEvent := es.foldl (fun l e => putEvent e l) []

/-- The queue served from its head while the head can take (R324, R325): the waits that end. -/
def State.semTakes (c : CoreNum) (i : Nat) : Nat → List SemEvent × State → List SemEvent × State
  | 0, r => r
  | fuel + 1, (es, s) =>
    let x := (s.core c).sem i
    match x.queue with
    | [] => (es, s)
    | w :: ws =>
      if w.need ≤ x.count then
        let s := s.updCore c (fun k => (k.setSem i { x with count := x.count - w.need, queue := ws }).wake w.who w.lanes)
        let s := s.selfAdd c 10 (s.cyclesOf c - w.cyc)
        State.semTakes c i fuel
          (es ++ [{ core := c, engine := w.who.engine.1, slot := w.who.engine.2, waited := some (s.waited c w.since) }], s)
      else (es, s)

/-- The Frieze record of an event at a core semaphore; `by_` is the engine and slot of the signal. -/
def State.semRecord (i : Nat) (by_ : Nat × Nat) (s : State) (e : SemEvent) : State :=
  match e.waited with
  | some t => s.friezeWait (regionOf e.core) 0 0x10 e.core.toNat e.engine e.slot t (i + by_.1 * 2 ^ 6 + by_.2 * 2 ^ 8)
  | none => s.frieze1 (regionOf e.core) 0x22 e.core.toNat e.engine e.slot (s.stamp (regionOf e.core)) (BitVec.ofNat 64 i)

/-- The queue served, with the records of what it serves, and an overflow before it, in the order of R510. -/
def State.semServe (s : State) (c : CoreNum) (i : Nat) (by_ : Nat × Nat) (fuel : Nat) (spilt : List SemEvent := []) : State :=
  let (es, s) := State.semTakes c i fuel (spilt, s)
  (eventOrder es).foldl (State.semRecord i by_) s

/-- A signal of a core semaphore (R321, R322): the count saturates with OVERFLOW and a record; the queue is served. -/
def State.semSignal (s : State) (c : CoreNum) (i cnt : Nat) (by_ : Nat × Nat) : State :=
  let x := (s.core c).sem i
  let spill := decide (0xFFFF < x.count + cnt)
  let s := s.updCore c (fun k => k.setSem i { x with count := min 0xFFFF (x.count + cnt), overflow := x.overflow || spill })
  s.semServe c i by_ (x.queue.length + 1) (if spill then [{ core := c, engine := by_.1, slot := by_.2, waited := none }] else [])

/-- Whether a take of a core semaphore succeeds at once (R321, R325). -/
def State.semCan (s : State) (c : CoreNum) (i need : Nat) : Bool :=
  let x := (s.core c).sem i
  x.queue.isEmpty && decide (need ≤ x.count)

/-- The count subtracted. -/
def State.semSub (s : State) (c : CoreNum) (i need : Nat) : State :=
  s.updCore c (fun k => k.setSem i { k.sem i with count := (k.sem i).count - need })

/-- A waiter joins the tail of the queue (R324). -/
def State.semQueue (s : State) (c : CoreNum) (i : Nat) (who : SemWho) (need : Nat) (lanes : List Nat) : State :=
  let w : Waiter := { who := who, need := need, lanes := lanes, since := (s.region (regionOf c)).tl, cyc := s.cyclesOf c }
  s.updCore c (fun k => k.setSem i { k.sem i with queue := (k.sem i).queue ++ [w] })

/-! ## Niche semaphores (R327 to R330, R408) -/

/-- A take by a context: the count it leaves decides whether the context holds the semaphore (R408). -/
def NSem.noteTake (x : NSem) (ctx : Option (BitVec 4)) : NSem :=
  match ctx with
  | some c => { x with takes := Sparse.put x.takes c.toNat (min x.count (Sparse.getD x.takes c.toNat x.count)) }
  | none => x

/-- Whether a context holds the semaphore: a take of its left less than the next queued waiter asks for (R408). -/
def NSem.heldBy (x : NSem) (c : Nat) : Bool :=
  match x.queue, Sparse.find x.takes c with
  | w :: _, some left => decide (left < w.need)
  | _, _ => false

/-- A take of a niche semaphore by a core. -/
def State.nsemSub (s : State) (n : NicheNum) (k : Nat) (c : CoreNum) (need : Nat) : State :=
  s.updNsem n k (fun x => ({ x with count := x.count - need } : NSem).noteTake ((s.owner c).map (·.2)))

/-- The queue of a niche semaphore served from its head (R328): the waits that end. -/
def State.nsemTakes (n : NicheNum) (k : Nat) : Nat → List SemEvent × State → List SemEvent × State
  | 0, r => r
  | fuel + 1, (es, s) =>
    let x := (s.niche n).nsem k
    match x.queue with
    | [] => (es, s)
    | w :: ws =>
      if w.need ≤ x.count then
        let s := s.updNsem n k (fun x => { x with queue := ws })
        let s := s.nsemSub n k w.core w.need
        let s := s.updCore w.core (fun c => c.wake w.who w.lanes)
        State.nsemTakes n k fuel
          (es ++ [{ core := w.core, engine := w.who.engine.1, slot := w.who.engine.2, waited := some (s.waited w.core w.since) }], s)
      else (es, s)

/-- The Frieze record of an event at a niche semaphore; `by_` is the core that signalled. -/
def State.nsemRecord (k : Nat) (by_ : Option CoreNum) (s : State) (e : SemEvent) : State :=
  match e.waited with
  | some t =>
    s.friezeWait (regionOf e.core) 1 0x11 e.core.toNat e.engine e.slot t (k + (match by_ with | some b => b.toNat * 2 ^ 12 | none => 2 ^ 25))
  | none => s.frieze1 (regionOf e.core) 0x22 e.core.toNat e.engine e.slot (s.stamp (regionOf e.core)) (BitVec.ofNat 64 (k + 2 ^ 12))

/-- The queue of a niche semaphore served, with the records of what it serves in the order of R510. -/
def State.nsemServe (s : State) (n : NicheNum) (k : Nat) (by_ : Option CoreNum) (fuel : Nat) (spilt : List SemEvent := []) : State :=
  let (es, s) := State.nsemTakes n k fuel (spilt, s)
  (eventOrder es).foldl (State.nsemRecord k by_) s

/-- A signal of a niche semaphore (R327): by a core, or by a register or a feed doorbell. -/
def State.nsemSignal (s : State) (n : NicheNum) (k cnt : Nat) (by_ : Option (CoreNum × Nat × Nat)) : State :=
  let x := (s.niche n).nsem k
  let spill := decide (0xFFFF_FFFF < x.count + cnt)
  let takes := match by_.bind (fun b => s.owner b.1) with | some o => Sparse.del x.takes o.2.toNat | none => x.takes
  let s := s.updNsem n k (fun x => { x with count := min 0xFFFF_FFFF (x.count + cnt), overflow := x.overflow || spill, takes := takes })
  let spilt : List SemEvent := match spill, by_ with
    | true, some (c, e, slot) => [{ core := c, engine := e, slot := slot, waited := none }]
    | _, _ => []
  s.nsemServe n k (by_.map (·.1)) (x.queue.length + 1) spilt

/-- Whether a take of a niche semaphore succeeds at once. -/
def State.nsemCan (s : State) (n : NicheNum) (k need : Nat) : Bool :=
  let x := (s.niche n).nsem k
  x.queue.isEmpty && decide (need ≤ x.count)

/-- A waiter joins the tail of a niche semaphore's queue. -/
def State.nsemQueue (s : State) (n : NicheNum) (k : Nat) (c : CoreNum) (who : SemWho) (need : Nat) (lanes : List Nat) : State :=
  let w : NWaiter := { core := c, who := who, need := need, lanes := lanes, since := (s.region (regionOf c)).tl }
  s.updNsem n k (fun x => { x with queue := x.queue ++ [w] })

/-- A core's waiters of some kind leave every queue (R326, R330). -/
def State.dropWaiters (s : State) (n : Option NicheNum) (c : CoreNum) (p : SemWho → Bool) : State :=
  let s := s.updCore c (fun k => { k with sems := k.sems.map (fun x => (x.1, { x.2 with queue := x.2.queue.filter (fun w => !p w.who) })) })
  match n with
  | some n => s.updNiche n (fun x => { x with
      nsems := x.nsems.map (fun y => (y.1, { y.2 with queue := y.2.queue.filter (fun w => !(w.core == c && p w.who)) })) })
  | none => s

/-- Every queue of a core's semaphores served, after waiters left (R324). -/
def State.serveCore (s : State) (c : CoreNum) : State :=
  (s.core c).sems.foldl (fun t x => t.semServe c x.1 (0, 0) (x.2.queue.length + 1)) s

/-- Every queue of a niche's semaphores served, after waiters left (R328). -/
def State.serveNiche (s : State) (n : NicheNum) : State :=
  (s.niche n).nsems.foldl (fun t x => t.nsemServe n x.1 none (x.2.queue.length + 1)) s

end Sys2Proof.Machine
end

