-- ==== Sys2Proof/Machine/Timeline.lean ====
section
/-! DEFINITION. System timeline, slot booking and region clocks (02_timeline.md), and the passing of one nanosecond. -/

namespace Sys2Proof.Machine

/-! ## Steps, slews and alignment -/

/-- A step (R45): every copy takes the value, STEPPED is set, every region writes a TIME_SYNC record (R511). A barrier's start stays,
so ticks that a forward step skips count toward its watchdog (R120; the manual is silent: DESIGN CHOICE, assumption log 90). -/
def State.stepTimeline (s : State) (v : W64) : State :=
  let s := { s with tl := { s.tl with now := v, stepped := true, slew := 0 },
                    regions := s.regions.map (fun p => (p.1, { p.2 with tl := v })) }
  (List.range 64).foldl (fun t i => t.frzResync (BitVec.ofNat 6 i)) s

/-- No context of any niche is RESIDENT or SAVED (R45). -/
def State.noContext (s : State) : Bool :=
  s.niches.all (fun p => p.2.ctxs.all (fun c => c.2.state != 1 && c.2.state != 2))

/-- A value taken by the plinth copy (R45): a step in the two cases of R45, else a slew. -/
def State.takeTime (s : State) (v : W64) : State :=
  let forward := decide (s.tl.now.toNat + 1000 < v.toNat) && decide (s.tl.state.toNat ≤ 1)
  let backward := decide (v.toNat < s.tl.now.toNat) && s.tl.state == 0 && s.noContext
  if forward || backward then s.stepTimeline v
  else { s with tl := { s.tl with slew := (v.toNat : Int) - s.tl.now.toNat } }

/-- The load of TL_LOAD at a TPPS edge (R44). -/
def State.applyLoad (s : State) : State :=
  ({ s with tl := { s.tl with control := setBit s.tl.control 8 false } } : State).takeTime s.tl.load

/-- PHASE_ERR of a phase error: 16 bits, signed; an error that they do not hold reads as the nearest (DESIGN CHOICE, log entry 81). -/
def phaseReg (e : Int) : BitVec 16 := BitVec.ofInt 16 (max (-0x8000) (min 0x7FFF e))

/-- A phase measurement (R48, table Timeline states): the state it leads to; `need` measurements in a row lock. An error measured
while a slew is under way is not corrected before that slew ends (DESIGN CHOICE, log entry 81). -/
def State.measure (s : State) (phase : Int) (need : Nat) (steer : Bool) : State :=
  let good := decide (phase.natAbs ≤ 8)
  let tl : Timeline := { s.tl with phaseErr := phaseReg phase, slew := if steer ∧ s.tl.slew = 0 then - phase else s.tl.slew, lastInput := s.ns }
  if tl.state == 2 then
    if good then { s with tl := { tl with badRun := 0 } }
    else if tl.badRun + 1 < 2 then { s with tl := { tl with badRun := tl.badRun + 1 } }
    else ({ s with tl := { tl with state := 1, badRun := 0, goodRun := 0 } } : State).patinaEvent 0x02 0 (phaseReg phase).toNat 0 0
  else
    let run := if good then tl.goodRun + 1 else 0
    if need ≤ run ∧ tl.depthExceeded = false then ({ s with tl := { tl with state := 2, goodRun := 0, badRun := 0 } } : State).pumpAll
    else { s with tl := { tl with state := 1, goodRun := run } }

/-- TL_CONTROL.SOURCE. -/
def State.tlSource (s : State) : Nat := fld s.tl.control 0 2

/-- Whether a TPPS edge is valid (R549): while the source is board, at most 1 µs from the previous valid edge plus 10^9 ticks. -/
def State.edgeValid (s : State) : Bool :=
  match s.tl.lastEdge with
  | some t => s.tlSource != 1 || decide (((s.tl.now.toNat : Int) - t.toNat - 1000000000).natAbs ≤ 1000)
  | none => true

/-- TPPS_EDGE: an edge that R549 discards does nothing; at a valid one an armed load is applied (R44), and a board source is
measured (R48). -/
def execTppsEdge (phase : BitVec 16) (s : State) : Host.Outcome State Fault Refusal :=
  .next (if !s.edgeValid then s
    else
      let s := if bit s.tl.control 8 then s.applyLoad else s
      let s := { s with tl := { s.tl with lastEdge := some s.tl.now } }
      if s.tlSource == 1 then s.measure phase.toInt 3 true else s)

/-- Whether an actor may set LOAD_ARM and TL_LOAD (R62). -/
def tlRight : Actor → Bool
  | .firmware | .supervisor => true
  | .job _ | .placement => false

/-- The actor is firmware. -/
def isFw : Actor → Bool
  | .firmware => true
  | _ => false

/-- The actor is firmware or the supervisor. -/
def isFwOrSup : Actor → Bool
  | .firmware | .supervisor => true
  | _ => false

/-- The actor is the supervisor. -/
def isSup : Actor → Bool
  | .supervisor => true
  | _ => false

/-- LOAD_ARM: the load of R44 is armed by firmware or the supervisor (R62). -/
def execLoadArm (a : Actor) (s : State) : Host.Outcome State Fault Refusal :=
  .next (if tlRight a then { s with tl := { s.tl with control := setBit s.tl.control 8 true } } else s)

/-- How long the source may be silent (R48): 2 s on a board source, 64 slots on a Trestle source. -/
def State.silenceNs (s : State) : Nat := if s.tlSource == 1 then 2000000000 else 64 * 1024

/-- SOURCE_LOST_TIMEOUT: no valid input for that time while LOCKED: HOLDOVER, and SOURCE_LOST is set (R48). -/
def execSourceLostTimeout (s : State) : Host.Outcome State Fault Refusal :=
  .next (if s.tl.state == 2 && decide (s.tl.lastInput + s.silenceNs ≤ s.ns) then
      { s with tl := { s.tl with state := 3, sourceLost := true, goodRun := 0, badRun := 0, holdSince := s.ns } }
    else s)

/-- HOLDOVER_EXPIRY: HOLDOVER becomes FREE after 20 ms (R48). -/
def execHoldoverExpiry (s : State) : Host.Outcome State Fault Refusal :=
  .next (if s.tl.state == 3 && decide (s.tl.holdSince + 20000000 ≤ s.ns) then
      { s with tl := { s.tl with state := 0, goodRun := 0, badRun := 0 } }
    else s)

/-- HOPS and DEPTH_EXCEEDED of a device at a distance from the root; beyond 40 hops it never locks (R47). -/
def Timeline.atDepth (t : Timeline) (n : Nat) : Timeline :=
  { t with hops := BitVec.ofNat 6 (min 63 n), depthExceeded := decide (40 < n) }

/-- Hops from the root by way of a neighbour: the neighbour's count and one more (R47, R442). -/
def State.hopsFrom (s : State) (hops : Nat) : State := { s with tl := s.tl.atDepth (hops + 1) }

/-- The hops of a newly selected source: those of the peer of the port where it is UP; 0 for a board source, whose device is the
root, and for none (for none a DESIGN CHOICE, log entry 81). -/
def State.selectedHops (s : State) (src port : Nat) : Nat :=
  let x := s.port (BitVec.ofNat 6 port)
  if src == 2 && x.state == 2 then x.peerHops.toNat + 1 else 0

/-- A write of TL_CONTROL by firmware (R62, R11): a newly selected source starts ACQUIRE, none is FREE. Another PORT while SOURCE
stays Trestle is another source (DESIGN CHOICE, log entry 81). -/
def State.writeTlControl (s : State) (m v : W64) : State :=
  let old := s.tl.control
  let w := masked m old v
  let src := if fld w 0 2 == 3 then fld old 0 2 else fld w 0 2
  let port := if 36 ≤ fld w 2 6 then fld old 2 6 else fld w 2 6
  let arm := bit old 8 || bit (m &&& v) 8
  let same := src == fld old 0 2 && (src != 2 || port == fld old 2 6)
  let t := { s.tl with control := pack [(0, 2, src), (2, 6, port), (8, 1, arm.toNat)] }
  if same then { s with tl := t }
  else
    { s with tl := ({ t with state := if src == 0 then 0 else 1, goodRun := 0, badRun := 0, lastEdge := none, lastInput := s.ns } : Timeline).atDepth
               (s.selectedHops src port) }

/-! ## Slot booking (R58 to R65) -/

/-- The entry as software reads it: the last value written, with the KIND of its table (R9, R65). -/
def Timeline.readBook (t : Timeline) (ofRegion : Bool) (key : Nat) : W32 :=
  match t.bookNext.reverse.find? (fun e => e.1 == ofRegion && e.2.1 == key) with
  | some e => e.2.2.1
  | none => if ofRegion then Sparse.getD t.regionBook key 2 else Sparse.getD t.portBook key 0

/-- Who may write a booking table (R65). -/
def bookRight (a : Actor) (ofRegion : Bool) : Bool :=
  match a, ofRegion with
  | .firmware, true => true
  | .placement, false => true
  | _, _ => false

/-- An entry written into a booking table, in force from the next frame (R58); KIND keeps the value of its table. -/
def State.bookPut (s : State) (ofRegion : Bool) (key : Nat) (v : W32) : State :=
  let e := (v &&& 0x1_FFFD) ||| (if ofRegion then 2 else 0)
  let t := s.tl.commit
  { s with tl := { t with bookNext := t.bookNext ++ [(ofRegion, key, e, frameOf t.now)] } }

/-- A BOOK record toward the peer of a port: the entry that matches an entry of this port, a receive entry for a send entry (R443). -/
def State.sendBook (s : State) (p : PortNum) (idx : Nat) (e : W32) : State :=
  if (s.port p).state == 2 then
    let w := pack [(0, 10, idx), (10, 1, (!bit e 16).toNat), (11, 6, fld e 2 6), (17, 8, fld e 8 8), (25, 1, (bit e 0).toNat)]
    (s.sendLink p 4 [w]).updPort p (fun x => { x with peerBook := Sparse.put x.peerBook idx (setBit e 16 (!bit e 16)) })
  else s

/-- A booking entry written by the actor that may write it; a send entry of a port is also booked at its peer (R65, R443). -/
def State.writeBook (s : State) (ofRegion : Bool) (n : BitVec 6) (idx : Nat) (v : W32) : State :=
  let s := s.bookPut ofRegion (n.toNat * 1024 + idx) v
  if ofRegion || bit v 16 then s else s.sendBook n idx (v &&& 0x1_FFFD)

/-- An entry of a port's booking table written, and its match at the peer (R353, R443). -/
def State.bookBoth (s : State) (p : PortNum) (idx : Nat) (e : W32) : State :=
  (s.bookPut false (p.toNat * 1024 + idx) e).sendBook p idx e

/-- TL_BOOK_WRITE (R65): a write by any other actor is ignored. -/
def execTlBookWrite (a : Actor) (ofRegion : Bool) (n : BitVec 6) (idx : BitVec 10) (v : W32) (s : State) :
    Host.Outcome State Fault Refusal :=
  .next (if bookRight a ofRegion then s.writeBook ofRegion n idx.toNat v else s)

/-- BOOKED_SLOT_START (R59, R61): a send entry's niche and channel get precedence in the slot; a send entry that the peer has no receive entry for is ignored and counted (R443). -/
def execBookedSlotStart (p : PortNum) (s : State) : Host.Outcome State Fault Refusal :=
  let idx := s.tl.now.toNat / 1024 % 1024
  let e := s.tl.portEntry p idx
  let x := s.port p
  let send := bit e 0 && !bit e 16
  let b := if send && x.matched idx e then
      some (s.tl.now.toNat / 1024, BitVec.ofNat 6 (fld e 2 6), BitVec.ofNat 8 (fld e 8 8), 0)
    else none
  let miss := if send && !x.matched idx e then satAdd x.bookMismatch 1 else x.bookMismatch
  .next ((s.updPort p (fun x => { x with booked := b, bookMismatch := miss })).pump p.toNat)

/-! ## Region clocks (R50 to R57, R562) -/

/-- REG_CLOCK as software reads it: the last value written (R9). -/
def Region.clockReg (x : Region) : W64 := x.targets.getLast?.getD x.clock

/-- The transitions of R50. -/
def clockAllowed (old new : Nat) : Bool :=
  old == new || (decide (old ≤ 2) && decide (new ≤ 2)) || (old == 2 && new == 3) || (old == 3 && new == 0)

/-- A write of REG_CLOCK by firmware (R11, R50, R66): refused whole, applied at once where no transition follows, or a
transition that CLOCK_TRANSITION_DONE ends. -/
def State.writeRegClock (s : State) (r : RegionNum) (m v : W64) : State :=
  let x := s.region r
  let old := x.clockReg
  let w := masked m old v
  let st := if 4 ≤ fld w 0 3 then fld old 0 3 else fld w 0 3
  let step := fld w 3 3
  let new := pack [(0, 3, st), (3, 3, step), (6, 1, (bit w 6).toNat)]
  if !clockAllowed (fld old 0 3) st then s.patinaEvent 0x03 (dieLoc r) r.toNat v.toNat 0
  else if st == 1 && (step == 0 || decide (5 ≤ step)) then s
  else if st == fld old 0 3 && (st != 1 || step == fld old 3 3) then
    match x.targets.getLast? with
    | some _ => s.updRegion r (fun x => { x with targets := x.targets.dropLast ++ [new] })
    | none => s.updRegion r (fun x => { x with clock := new })
  else s.updRegion r (fun x => { x with targets := x.targets ++ [new] })

/-- DEV_STATUS.POWER_CAPPED (R558): some region is below 600 MHz because of the cap. -/
def State.powerCapped (s : State) : Bool := s.regions.any (fun x => decide (0 < x.2.capStep) && decide (fld x.2.clockReg 0 3 ≤ 1))

/-- REG_CLOCK_WRITE: only firmware changes a region's clock state (R50, R62). -/
def execRegClockWrite (a : Actor) (r : RegionNum) (v : W64) (s : State) : Host.Outcome State Fault Refusal :=
  .next (if isFw a then s.writeRegClock r (BitVec.allOnes 64) v else s)

/-- Whether a core's stores and transfers have drained (R51). -/
def Core.drained (k : Core) : Bool :=
  k.se.buffer.isEmpty && k.ve.buffer.isEmpty && k.storesOut.isEmpty && k.loads.isEmpty && k.dc.wb.isNone &&
    (match k.de.run with | some d => d.blocks.all (·.performed) | none => true)

/-- The core whose engine or cache an operation toward another device is of. -/
def RemoteUse.core? : RemoteUse → Option CoreNum
  | .load c _ _ | .fill c _ | .fetch c _ | .atomic c _ _ _ | .store c _ _ _ _ _ _ _ | .writeback c _ _ _ | .block c _ _ _ _
  | .listEntry c _ _ => some c
  | _ => none

/-- Whether every core of a region has drained, and other devices have answered what it sent them. -/
def State.regionDrained (s : State) (r : RegionNum) : Bool :=
  s.cores.all (fun p => p.1 / 128 != r.toNat || p.2.drained) &&
    !s.tr.ops.any (fun o => match o.purpose.core? with | some c => regionOf c == r | none => false)

/-- Every core of a region changed. -/
def State.mapCores (s : State) (r : RegionNum) (f : Nat → Core → Core) : State :=
  { s with cores := s.cores.map (fun p => if p.1 / 128 = r.toNat then (p.1, f p.1 p.2) else p) }

/-- What a core keeps when its region's power goes: queues of the front end, registers that other resets clear (R99, R524). -/
def Core.powerLost (seed : Nat) (n : Nat) (k : Core) : Core :=
  { Core.initial n with
    seQ := k.seQ, veQ := k.veQ, meQ := k.meQ, deQ := k.deQ, sems := k.sems, tc := k.tc, control := k.control,
    failed := k.failed, drawerCe := k.drawerCe, cacheRefetch := k.cacheRefetch, regReplay := k.regReplay,
    drawerUe := k.drawerUe, eccOff := k.eccOff, eccScrub := k.eccScrub, eccOverflow := k.eccOverflow,
    eccValid := k.eccValid, self := k.self, me := { seed := some seed } }

/-- The region enters OFF (R51, R54): drawers, register files, tiles and caches are lost, REG_CYCLES is cleared; the spill buffer
holds unpredictable values (R245). -/
def State.regionOff (s : State) (r : RegionNum) : State :=
  let (seed, s) := s.takeSeed
  let s := s.mapCores r (Core.powerLost seed)
  let s := s.updRegion r (fun x => { x with cycles := 0, phase := 0, spill := [], spillSeed := some seed, spillPoison := [], spillBad := [] })
  s.scramble (drawerBase (coreAt r 0)) (128 * 0x2_0000)

/-- The invalidations of R89 and R92 begin and CORE_CONTROL takes its reset value (R524). -/
def Core.regionReset (n : Nat) (k : Core) : Core :=
  { k with dc := { lfsr := BitVec.ofNat 16 (n ||| 1) }, ic := {}, control := 0x40 }

/-- The barrier times of a core moved on by ticks that the watchdog does not count (R120). -/
def Core.shiftBarriers (d : W64) (k : Core) : Core :=
  let move (o : Option W64) : Option W64 := o.map (· + d)
  { k with ve := { k.ve with groups := k.ve.groups.map (fun p => (p.1, { p.2 with barStart := move p.2.barStart })),
                             blocks := k.ve.blocks.map (fun p => (p.1, { p.2 with barStart := move p.2.barStart })) } }

/-- The region's copy of the timeline is brought near the plinth copy (R55); it never decreases (R43). -/
def State.resync (s : State) (r : RegionNum) : State :=
  let d := (Config.skew s.fresh).val
  let v := s.tl.now.toNat + d - 1
  let old := (s.region r).tl
  let tl := BitVec.ofNat 64 (max v old.toNat)
  let s := ({ s with fresh := s.fresh + 1 } : State).mapCores r (fun _ k => k.shiftBarriers (tl - old))
  s.updRegion r (fun x => { x with tl := tl })

/-- The records of R57 for a change of clock state: the end of the period left, the start of the one entered. -/
def State.clockRecords (s : State) (r : RegionNum) (old new step : Nat) : State :=
  if old == new then s
  else
    let s := if old == 0 then s else s.friezeClock r new step old true
    if new == 0 then s else s.friezeClock r new step old false

/-- The region at the region-cycle boundary at which a change of its clock takes effect (R50, R562): a cycle begun is counted,
and the next clock begins a cycle. -/
def Region.boundary (x : Region) : Region := { x with cycles := if x.phase = 0 then x.cycles else x.cycles + 1, phase := 0 }

/-- The region clock takes a new state and all that follows from it (R51, R54, R55, R57, R524). -/
def State.setClock (s : State) (r : RegionNum) (new : W64) : State :=
  let old := (s.region r).state
  let st := fld new 0 3
  let s := s.updRegion r (fun x => { x.boundary with clock := new })
  let s := if old == 3 && st != 3 then s.mapCores r Core.regionReset else s
  let s := if (old == 2 || old == 3) && (st == 0 || st == 1) then s.resync r else s
  let s := if st == 3 && old != 3 then s.regionOff r else s
  let s := if st == 0 then s
    else s.mapCores r (fun _ k => { k with de := { k.de with run := k.de.run.map (fun d => { d with leftRun := true }) } })
  s.clockRecords r old st (fld new 3 3)

/-- CLOCK_TRANSITION_DONE (R562): the oldest transition takes effect; OFF waits for the drain of R51. -/
def execClockTransitionDone (r : RegionNum) (s : State) : Host.Outcome State Fault Refusal :=
  match (s.region r).targets with
  | [] => .next s
  | t :: ts =>
    if fld t 0 3 == 3 && (s.region r).state != 3 && !s.regionDrained r then .next s
    else .next ((s.updRegion r (fun x => { x with targets := ts })).setClock r t)

/-- DROOP_CYCLE (R54): REG_DROOP_COUNT counts the lengthened cycle, which abandons a margin probe (R492). -/
def execDroopCycle (r : RegionNum) (s : State) : Host.Outcome State Fault Refusal :=
  let x := s.region r
  .next (if x.running && bit x.clock 6 then
    (s.updRegion r (fun x => { x with droop := x.droop + 1, phase := 0 })).dropProbe r else s)

/-! ## One nanosecond of external time -/

/-- What one nanosecond adds to the plinth copy: one tick, or none or two where the slew of R45 puts one right. -/
def Timeline.delta (t : Timeline) (go : Bool) : Nat :=
  if t.slew = 0 ∨ 0 < t.slewWait ∨ go = false then 1 else if 0 < t.slew then 2 else 0

/-- The timeline block after one nanosecond: at most one tick of slew in 10,000 ns (R45). -/
def Timeline.tick (t : Timeline) (go : Bool) : Timeline :=
  let d := t.delta go
  { t with now := t.now + BitVec.ofNat 64 d,
           slew := if d = 2 then t.slew - 1 else if d = 0 then t.slew + 1 else t.slew,
           slewWait := if d = 1 then t.slewWait - 1 else 9999 }

/-- A region after one nanosecond (R49, R54): its copy advances while kept, and its cycles at its clock. -/
def Region.tick (x : Region) (d : Nat) : Region :=
  if x.running then
    let p := x.phase + x.mhz
    { x with tl := x.tl + BitVec.ofNat 64 d, phase := if 1000 ≤ p then p - 1000 else p,
             cycles := if 1000 ≤ p then x.cycles + 1 else x.cycles }
  else x

/-- TIME of a port that is UP, one a slot (R441): T1 now, T2 the tick at which the peer's last record arrived, T3 its T1. -/
def State.sendTime (s : State) (p : Nat) : State :=
  let x := s.port (BitVec.ofNat 6 p)
  if x.state == 2 && decide (x.tx.length < 512) then s.wire p (.link 3 [s.tl.now, x.lastRx, x.lastT1]) else s

/-- The accesses that the mesh port of a core has accepted have reached its region's plinth node, in the order of the port
(R292). -/
def Core.atNode (k : Core) : Core :=
  let at_ (x : LaneAcc) : LaneAcc := { x with node := x.port }
  { k with loads := k.loads.map (fun e => { e with lanes := e.lanes.map at_ })
           storesOut := k.storesOut.map (fun e => { e with lanes := e.lanes.map at_ })
           dc := { k.dc with missNode := k.dc.missPort } }

/-- What the block does while no command waits: one nanosecond passes (R42), and at the start of a slot each port that is UP
sends its TIME record. Packets that a booked slot held back are tried again at the next slot and once its guard is over (R59). -/
def State.tick (s : State) : State :=
  let go := Config.freeBit s.fresh
  let d := s.tl.delta go
  let t : State := { s with tl := s.tl.tick go, regions := s.regions.map (fun p => (p.1, p.2.tick d)), fresh := s.fresh + 1, ns := s.ns + 1, cores := s.cores.map (fun p => (p.1, p.2.atNode)) }
  let held := (t.tr.ports.filter (fun p => p.2.booked.isSome)).map (·.1)
  if t.tl.now.toNat / 1024 = s.tl.now.toNat / 1024 then
    if s.tl.now.toNat % 1024 < 8 && decide (8 ≤ t.tl.now.toNat % 1024) then held.foldl (fun t p => t.pump p) t else t
  else
    let t := (t.regions.filter (fun p => !p.2.frz.staged.isEmpty)).foldl (fun t p => t.frzDrain (BitVec.ofNat 6 p.1) 64) t
    held.foldl (fun t p => t.pump p) ((t.tr.ports.map (·.1)).foldl (fun t p => t.sendTime p) t)

end Sys2Proof.Machine
end

