-- ==== Sys2Proof/Machine/Contain.lean ====
section
/-! DEFINITION. Exceptions, the end of launches, lost stores, and the containment of errors
(R141 to R145, R304 to R307, R372, R378, R410, R473, R479 steps 1 and 2). -/

namespace Sys2Proof.Machine

/-! ## Exception records (table Exception record, R410) -/

/-- What an exception record says. -/
structure Exc where
  code : Nat
  engine : Nat
  precise : Bool := true
  group : Nat := 0
  block : Nat := 0
  lane : Nat := 0
  pc : Nat := 0
  /-- The node and maquette of the queue entry that delivered the command. -/
  queued : Option (Nat × BitVec 12) := none
  detail : W64 := 0
deriving DecidableEq, Repr

/-- The 32 bytes of a record. -/
def Exc.bytes (x : Exc) (time : W64) (c : CoreNum) (n : NicheNum) : List Byte :=
  let w1 := pack [(0, 8, x.code), (8, 2, x.engine), (10, 1, x.precise.toNat), (11, 13, c.toNat), (24, 6, n.toNat),
    (30, 5, x.group), (35, 24, x.block), (59, 5, x.lane)]
  let w2 := match x.queued with
    | some (node, m) => pack [(0, 16, node), (16, 12, m.toNat), (57, 1, 1)]
    | none => pack [(0, 57, x.pc)]
  [time, w1, w2, x.detail].flatMap (fun w => leBytes 8 w.toNat)

/-- A record written to the niche's exception ring, or counted in DROPPED (R410). -/
def State.excRecord (s : State) (n : NicheNum) (time : W64) (c : CoreNum) (x : Exc) : State :=
  let k := s.niche n
  let size := 2 ^ fld k.excRing 1 5
  if !bit k.excRing 0 || decide (size ≤ (k.excWrite - k.excRead).toNat) then
    s.updNiche n (fun k => { k with excDropped := satAdd k.excDropped 1 })
  else
    let s := s.devWrite (fld k.excRing 12 36 * 2 ^ 12 + 32 * (k.excWrite.toNat % size)) (x.bytes time c n)
    let s := s.updNiche n (fun k => { k with excWrite := k.excWrite + 1 })
    if bit k.control 3 then s.trigger (fld k.control 4 12) else s

/-! ## Ends of queue entries and launches (R363, R372, R378) -/

/-- Statuses that halt their queue (table Status codes). -/
def haltsQueue (status : Nat) : Bool := [0x06, 0x07, 0x08, 0x0D, 0x0E].contains status

/-- A started entry of a queue changed. -/
def State.updEntry (s : State) (q : QueueNum) (seq : W32) (f : QEntry → QEntry) : State :=
  s.updQueue q (fun x => { x with entries := x.entries.map (fun e => if e.seq = seq then f e else e) })

/-- The outcome of a started entry is decided; its tick is the commit tick, and its queue halts where the status halts
it (R363). The first outcome stands. -/
def State.conclude (s : State) (q : QueueNum) (seq : W32) (status detail : Nat) : State :=
  let s := s.updEntry q seq (fun e =>
    if e.outcome.isSome then e
    else { e with outcome := some (BitVec.ofNat 8 status, BitVec.ofNat 7 detail), commit := s.tl.now })
  if haltsQueue status then s.updQueue q (fun x => { x with halted := true, haltStatus := BitVec.ofNat 8 status }) else s

/-- Whether an entry belongs to a launch. -/
def entryOf (l : Nat) : Option EngineEntry → Bool
  | some e => e.launch == l
  | none => false

/-- The scalar engine after its entry has gone (R374 sets its registers when the next one starts). -/
def Se.cleared (e : Se) : Se :=
  { e with entry := none, running := false, ended := false, drained := false, semWait := false, lost := none }

/-- The vector engine after its entry has gone. -/
def Ve.cleared (e : Ve) : Ve :=
  { e with entry := none, started := false, running := false, ended := false, drained := false, nextBlock := 0,
           endBlock := 0, groups := [], blocks := [], issuedAt := [], xf := [], lost := none }

/-- What a core holds after a launch has been stopped on it (R144, R378): engine queues and issue FIFOs without its
entries and commands, its engines stopped. Store-buffer entries stay and drain (R303). -/
def Core.dropLaunch (k : Core) (l : Nat) : Core :=
  let mineSe := entryOf l k.se.entry
  let mineVe := entryOf l k.ve.entry
  let keep (e : EngineEntry) : Bool := e.launch != l
  let keepCmd (f : FifoCmd) : Bool := f.launch != l
  let deRun := match k.de.run with | some r => if keepCmd r.cmd then some r else none | none => none
  { k with
    seQ := k.seQ.filter keep, veQ := k.veQ.filter keep, meQ := k.meQ.filter keep, deQ := k.deQ.filter keep
    se := if mineSe then k.se.cleared else k.se
    ve := if mineVe then k.ve.cleared else k.ve
    loads := k.loads.filter (fun e => if e.slot.isSome then !mineVe else !mineSe)
    me := { k.me with fifo := k.me.fifo.filter keepCmd, runs := k.me.runs.filter (fun r => keepCmd r.cmd) }
    de := { k.de with fifo := k.de.fifo.filter keepCmd, run := deRun, lost := Sparse.del k.de.lost l } }

/-- Which waiters of a core leave with a launch. -/
def Core.leaves (k : Core) (l : Nat) (w : SemWho) : Bool :=
  match w with
  | .se => entryOf l k.se.entry
  | .ve _ => entryOf l k.ve.entry
  | .me => match k.me.fifo with | f :: _ => f.launch == l | [] => false
  | .de => match k.de.fifo with | f :: _ => f.launch == l | [] => false
  | .deBlock => match k.de.run with | some r => r.cmd.launch == l | none => false

/-- The ranges that the stopped commands of a launch were writing (R143, R378). -/
def Core.abandoned (k : Core) (c : CoreNum) (l : Nat) : List (Tgt × Nat) :=
  k.me.runs.flatMap (fun r => if r.cmd.launch == l then r.dest.map (fun d => (Tgt.dev (drawerBase c + d.1), d.2)) else []) ++
  (match k.de.run with
   | some r => if r.cmd.launch == l then r.blocks.flatMap (fun b => if b.performed then [] else b.pieces.map (fun p => (p.dst, p.len))) else []
   | none => [])

/-- A range whose bytes hold unpredictable values (R143). -/
def State.scrambleTgt (s : State) (t : Tgt) (n : Nat) : State :=
  match t with
  | .dev a => if (s.classOf a).isMemory then s.scramble a n else s
  | .host a => { s with hostMem := s.hostMem.scramble a n s.fresh, fresh := s.fresh + 1 }
  | .remote _ _ => s

/-- The tile values that a stopped multiply command was writing hold unpredictable values (R143, R378). -/
def Me.unsettle (m : Me) (l seed : Nat) : Me :=
  m.runs.foldl (fun m r =>
    if r.cmd.launch != l || fld r.cmd.lo 0 4 != 0 then m
    else
      let places := List.range (32 * (fld r.cmd.lo 40 7 + 1))
      let free (t : Sparse X40) (k : Nat) : Sparse X40 := places.foldl (fun t i => Sparse.put t i (Config.freeTile seed (4096 * k + i))) t
      let both := fld r.cmd.lo 60 2 != 0
      { m with t0 := if both || !bit r.cmd.lo 4 then free m.t0 0 else m.t0
               t1 := if both || bit r.cmd.lo 4 then free m.t1 1 else m.t1 }) m

/-- A launch stopped on one core. -/
def State.stopOnCore (s : State) (c : CoreNum) (l : Nat) (n : NicheNum) : State :=
  let k := s.core c
  let s := (k.abandoned c l).foldl (fun t r => t.scrambleTgt r.1 r.2) s
  let (seed, s) := s.takeSeed
  let s := s.updCore c (fun k => { k with me := k.me.unsettle l seed })
  let s := s.dropWaiters (some n) c (k.leaves l)
  (s.updCore c (fun k => k.dropLaunch l)).serveCore c

/-- Whether a core holds anything of a launch. -/
def Core.holds (k : Core) (l : Nat) : Bool :=
  entryOf l k.se.entry || entryOf l k.ve.entry ||
    (k.seQ ++ k.veQ ++ k.meQ ++ k.deQ).any (fun e => e.launch == l) ||
    (k.me.fifo ++ k.de.fifo).any (fun f => f.launch == l) ||
    k.me.runs.any (fun r => r.cmd.launch == l) ||
    (match k.de.run with | some r => r.cmd.launch == l | none => false)

/-- Spill grants of a launch released (R245). -/
def State.releaseGrants (s : State) (l : Nat) (p : Grant → Bool) : State :=
  s.mapRegions (fun _ r => { r with grants := r.grants.mapVals (fun _ g => if g.launch == l && p g then {} else g) })

/-- A captured bank given back (R368). -/
def State.uncapture (s : State) (x : Launch) : State :=
  match s.maq? x.niche x.maq with
  | some m => s.setMaq x.niche x.maq (if x.bank then { m with capt1 := m.capt1 - 1 } else { m with capt0 := m.capt0 - 1 })
  | none => s

/-- A launch ends before its commit point (R372, R378): no further node, every running entry stopped, its grants
released, its reductions gone, its bank given back, the outcome of its queue entry decided. -/
def State.endLaunch (s : State) (l : Nat) (status : Nat) : State :=
  match s.launch? l with
  | none => s
  | some x =>
    if x.ended.isSome then s
    else
      let nodes := x.nodes.map (fun (k : NodeRun) =>
        if k.phase = .complete then k else { phase := .abandoned, toWrite := [], open_ := [] })
      let s := s.setLaunch l { x with ended := some (BitVec.ofNat 8 status), nodes := nodes }
      let s := (s.cores.filter (fun p => p.2.holds l)).foldl (fun t p => t.stopOnCore (BitVec.ofNat 13 p.1) l x.niche) s
      let s := (s.serveNiche x.niche).releaseGrants l (fun _ => true)
      let s := { s with fe := { s.fe with reds := s.fe.reds.filter (fun r => r.launch != l) } }
      (s.uncapture x).conclude x.queue x.seq status 0

/-- An exception of a core (R144): its record, and the end of its launch with FAULTED (R372). -/
def State.raise (s : State) (c : CoreNum) (l : Nat) (x : Exc) : State :=
  match s.launch? l with
  | none => s
  | some k => (s.excRecord k.niche (s.stamp (regionOf c)) c x).endLaunch l 0x0D

/-! ## Contexts (R473) -/

/-- A context becomes FAULTED (R473): its launches in flight end, its queues halt, its images are discarded, its
regions become free. -/
def State.faultContext (s : State) (n : NicheNum) (c : BitVec 4) : State :=
  let s := s.fe.launches.foldl (fun t p => if p.2.niche = n ∧ p.2.ctx = c then t.endLaunch p.1 0x0D else t) s
  let s := s.fe.queues.foldl (fun t p =>
    if BitVec.ofNat 6 (fld p.2.config 7 6) = n ∧ p.2.ctx = c ∧ bit p.2.base 0 then
      t.updQueue (BitVec.ofNat 12 p.1) (fun x =>
        { x with halted := true, haltStatus := if x.halted then x.haltStatus else 0x0D })
    else t) s
  let s := { s with saved := s.saved.filter (fun x => !(x.niche == n && x.ctx == c)) }
  let s := s.mapRegions (fun _ x =>
    { x with
      holder := if x.holder == some (n, c) then none else x.holder
      preempting := x.preempting && x.holder != some (n, c)
      restoring := if x.restoring == some (n, c) then none else x.restoring })
  s.updCtx n c (fun x => { x with state := 3 })

/-- A CONTAINED hardware error whose owner is the context resident on a core (R472, R473): its record, HW_ERROR, the
context FAULTED; once a device-fatal sequence has begun, the record alone (R482). -/
def State.hwError (s : State) (c : CoreNum) (l : Nat) (e : ErrInfo) (x : Exc) : State :=
  let o := s.owner c
  let s := s.logError { e with loc := dieLoc (regionOf c), core := some c, niche := o.map (·.1), ctx := o.map (·.2) }
  if s.err.recovering then s
  else
    let s := s.raise c l { x with code := 0x0D }
    match o with
    | some (n, k) => s.faultContext n k
    | none => s

/-! ## Lost stores (R304, R305) -/

/-- A store that a dead device will not take: the record, and the lost-store flag of its stream with the first address. `gid` is
the number of the stream, of the DMA engine's the launch; a stream of a kernel that has gone has no flag any more (R307). -/
def State.lostStore (s : State) (c : CoreNum) (n : NicheNum) (engine slot gid lane addr : Nat) : State :=
  let s := s.logError { cause := 0x2A, loc := dieLoc (regionOf c), core := some c, niche := some n,
                        addr := addr, aspace := 1, detail := pack [(0, 2, engine), (2, 5, slot), (7, 5, lane)] }
  let a : W64 := BitVec.ofNat 64 addr
  let keep (o : Option W64) : Option W64 := if o.isSome then o else some a
  s.updCore c (fun k =>
    match engine with
    | 0 => if k.se.entry.isSome && k.se.gid == gid then { k with se := { k.se with lost := keep k.se.lost } } else k
    | 1 =>
      match Sparse.find k.ve.groups slot, k.ve.entry.isSome && decide (k.ve.gid ≤ gid) with
      | some g, live =>
        if g.seed = gid then
          let g := g.updThread lane (fun t => { t with lost := keep t.lost })
          { k with ve := { k.ve with groups := Sparse.put k.ve.groups slot g } }
        else if live then { k with ve := { k.ve with lost := keep k.ve.lost } } else k
      | none, live => if live then { k with ve := { k.ve with lost := keep k.ve.lost } } else k
    | _ => if (Sparse.find k.de.lost gid).isSome then k else { k with de := { k.de with lost := Sparse.put k.de.lost gid a } })

/-! ## Device-fatal errors (R479 steps 1 and 2, R481, R482) -/

/-- Every region of the device goes to HALT; one in OFF, which is left only to RUN (R50), stays there (DESIGN CHOICE between R50 and R479
step 1; assumption log 86). -/
def State.haltAll (s : State) : State :=
  (List.range 64).foldl (fun t i =>
    let r := BitVec.ofNat 6 i
    if (t.region r).state = 3 then t.updRegion r (fun x => { x with targets := [] })
    else (t.updRegion r (fun x => { x with targets := [] })).setClock r (setFld (t.region r).clock 0 3 2)) s

/-- A DEVICE_FATAL error: regions halt, ports stop, FATAL_MSG, the record; the third within 60 minutes of power-on
time holds the device (R481). DEVICE_FATAL_RECOVERY performs the steps that follow. -/
def State.fatal (s : State) (e : ErrInfo) : State :=
  let s := (List.range 64).foldl (fun s i => s.dropProbe (BitVec.ofNat 6 i)) s.haltAll
  let s := s.mapPorts (fun _ x => { x with state := 0 })
  let s : State := if s.qcl.state == 2 && bit s.err.control 12 then s.trigger (fld s.err.control 0 12) else s
  let s := s.logError e
  let t := s.pat.powerOnS.toNat
  let fatals := (t :: s.err.fatals).filter (fun x => decide (t < x + 3600))
  { s with
    err := { s.err with fatalCount := satAdd s.err.fatalCount 1, lastCause := BitVec.ofNat 8 e.cause, recovering := true,
                        fatals := fatals, held := s.err.held || decide (3 ≤ fatals.length) }
    disc := { s.disc with mode := 3, fwReady := false } }

end Sys2Proof.Machine
end

