-- ==== Sys2Proof/Machine/Cache.lean ====
section
/-! DEFINITION. The data cache of a core, its maintenance, and the transfers of the engines through the mesh port
(R70, R83 to R90, R123 to R125, R281, R292, R297, R305, R569). -/

namespace Sys2Proof.Machine

/-! ## Lines (R36, R86, R87) -/

/-- The address of a line with its device field (R36, table Data cache geometry). -/
def lineAddr (t : Tgt) (own : Nat) : Nat :=
  match t with
  | .dev pa => own * 2 ^ 48 + pa / 64 * 64
  | .remote d pa => d.toNat * 2 ^ 48 + pa / 64 * 64
  | .host pa => pa / 64 * 64

/-- The target that a line address names. -/
def State.lineTgt (s : State) (line : Nat) : Tgt :=
  if s.isLocal line then .dev (line % 2 ^ 48) else .remote (BitVec.ofNat 14 (line / 2 ^ 48)) (line % 2 ^ 48)

/-- The set of a line: physical address [11:6]. -/
def lineSet (line : Nat) : Nat := line / 64 % 64

/-- The majority of three copies of a bit (R87). -/
def majority (x : BitVec 3) : Bool := decide (2 ≤ (ones 3 x.toNat).length)

/-- The line is valid, by majority. -/
def CacheLine.valid (l : CacheLine) : Bool := majority l.valid3

/-- The line is dirty, by majority. -/
def CacheLine.dirty (l : CacheLine) : Bool := majority l.dirty3

/-- The copies of its valid or of its dirty bit disagree. -/
def CacheLine.torn (l : CacheLine) : Bool := (l.valid3 != 0 && l.valid3 != 7) || (l.dirty3 != 0 && l.dirty3 != 7)

/-- Its bits as the majority has them. -/
def CacheLine.mended (l : CacheLine) : CacheLine :=
  { l with valid3 := if l.valid then 7 else 0, dirty3 := if l.dirty then 7 else 0 }

/-- The valid line at a place of the cache. -/
def DCache.line? (d : DCache) (k : Nat) : Option CacheLine :=
  match Sparse.find d.lines k with
  | some l => if l.valid then some l else none
  | none => none

/-- The way that holds a line. -/
def DCache.way (d : DCache) (line : Nat) : Option Nat :=
  (List.range 4).find? (fun w => match d.line? (lineSet line * 4 + w) with | some l => l.addr == line | none => false)

/-- The line's data if the cache or its write-back buffer holds it (R85). -/
def DCache.hit (d : DCache) (line : Nat) : Option CacheLine :=
  match d.way line with
  | some w => d.line? (lineSet line * 4 + w)
  | none => match d.wb with
    | some l => if l.addr == line then some l else none
    | none => none

/-- The valid dirty lines, in the order of their places. -/
def DCache.dirtyOnes (d : DCache) : List CacheLine := (d.lines.filter (fun p => p.2.valid && p.2.dirty)).map (·.2)

/-- The number of dirty lines (CORE_STATUS.DIRTY_LINES). -/
def DCache.dirtyLines (d : DCache) : Nat := d.dirtyOnes.length

/-- Bytes with some replaced from an offset. -/
def patch (bs : List Byte) (off : Nat) (new : List Byte) : List Byte :=
  bs.take off ++ new ++ bs.drop (off + new.length)

/-- A line with bytes stored into it by a stream: a word that an aligned store covers whole is no longer poisoned (R80), and a
parity word covered whole matches again. -/
def CacheLine.store (l : CacheLine) (off : Nat) (bs : List Byte) (w : Writer) : CacheLine :=
  { l with data := patch l.data off bs
           poison := if off % 8 = 0 then l.poison.filter (fun w => !within (8 * w) 8 off bs.length) else l.poison
           badParity := l.badParity.filter (fun w => !within (4 * w) 4 off bs.length)
           writers := if l.writers.contains w then l.writers else l.writers ++ [w] }

/-- A store into a line that the cache or its write-back buffer holds (R85). -/
def DCache.storeHit (d : DCache) (line off : Nat) (bs : List Byte) (who : Writer) : DCache :=
  match d.way line with
  | some w =>
    let k := lineSet line * 4 + w
    match d.line? k with
    | some l => { d with lines := Sparse.put d.lines k { l.store off bs who with dirty3 := 7 } }
    | none => d
  | none =>
    match d.wb with
    | some l => if l.addr == line then { d with wb := some (l.store off bs who), wbSent := false } else d
    | none => d

/-- choose_way of R86: an invalid way, else L advances and names the victim. -/
def DCache.chooseWay (d : DCache) (set : Nat) : Nat × BitVec 16 :=
  match (List.range 4).find? (fun w => (d.line? (set * 4 + w)).isNone) with
  | some w => (w, d.lfsr)
  | none =>
    let l := d.lfsr
    let b := bit l 15 ^^ bit l 14 ^^ bit l 12 ^^ bit l 3
    let l := (l <<< 1) ||| BitVec.ofNat 16 b.toNat
    (fld l 0 2, l)

/-- A line filled (R85, R86): its way, and the dirty victim that moves to the write-back buffer, for the engine of the miss. -/
def DCache.fill (d : DCache) (line : Nat) (data : List Byte) (poison : List Nat) : DCache :=
  let set := lineSet line
  let (w, l) := d.chooseWay set
  let isVe := match d.miss with | some m => m.2 | none => false
  let d := match d.line? (set * 4 + w) with
    | some v => if v.dirty then { d with wb := some v, wbVe := isVe, wbSent := false } else d
    | none => d
  { d with lines := Sparse.put d.lines (set * 4 + w) { addr := line, data := data, poison := poison }, lfsr := l, miss := none, arrived := none }

/-- Whether the fill of a line must wait for the write-back buffer (R85). -/
def DCache.fillWaits (d : DCache) (line : Nat) : Bool :=
  d.wb.isSome && (match d.line? (lineSet line * 4 + (d.chooseWay (lineSet line)).1) with | some v => v.dirty | none => false)

/-- Valid or dirty copies that disagree in the set of a line are corrected by majority as the set is read (R87, R88). -/
def State.readSet (s : State) (c : CoreNum) (line : Nat) : State :=
  (List.range 4).foldl (fun s w =>
    let k := lineSet line * 4 + w
    match Sparse.find (s.core c).dc.lines k with
    | some l =>
      if l.torn then
        let s := s.updCore c (fun x => { x with dc := { x.dc with lines := Sparse.put x.dc.lines k l.mended }
                                                cacheRefetch := satAdd x.cacheRefetch 1 })
        s.logError { cause := 0x09, loc := dieLoc (regionOf c), core := some c }
      else s
    | none => s) s

/-! ## Parity of a line (R87, R88, R486) -/

/-- Lines dropped that satisfy a predicate, dirty data with them (CINV). -/
def State.dropLines (s : State) (c : CoreNum) (p : Nat → Bool) : State :=
  s.updCore c (fun k =>
    let gone := match k.dc.wb with | some l => p l.addr && !k.dc.wbSent | none => false
    { k with dc := { k.dc with lines := k.dc.lines.filter (fun x => !p x.2.addr), wb := if gone then none else k.dc.wb } })

/-- Whether a read of bytes of a line finds a parity mismatch: one that the line holds, or the injected one (ERR_INJECT
targets 3 and 4). -/
def State.lineBad (s : State) (c : CoreNum) (l : CacheLine) (off n : Nat) : Bool :=
  l.badParity.any (fun w => overlaps (4 * w) 4 off n) || (s.injCore == c && s.armed (if l.dirty then 4 else 3))

/-- A parity mismatch at a read of a line: a clean line is invalidated, to be fetched again, and CORRECTED; a dirty one is
DEVICE_FATAL (R88). -/
def State.lineParity (s : State) (c : CoreNum) (l : CacheLine) : State :=
  let injected := s.injCore == c && s.armed (if l.dirty then 4 else 3)
  let s := if injected then s.disarm else s
  if l.dirty then s.fatal { cause := 0x40, loc := dieLoc (regionOf c), core := some c, injected := injected }
  else
    let s := s.dropLines c (fun a => a == l.addr)
    let s := s.updCore c (fun k => { k with cacheRefetch := satAdd k.cacheRefetch 1 })
    s.logError { cause := 0x08, loc := dieLoc (regionOf c), core := some c, injected := injected }

/-! ## The mesh port (R70, R292) -/

/-- Accesses of a core that its mesh port has accepted and that their homes have not yet performed. -/
def State.under (s : State) (k : Core) : List LaneAcc :=
  k.storesOut.flatMap (·.lanes) ++
    k.loads.flatMap (fun e => e.lanes.filter (fun x => x.port != 0 && !x.cache && x.bytes.isEmpty && x.bad.isNone)) ++
    (match k.dc.miss with
     | some m => [{ lane := 0, va := 0, tgt := s.lineTgt m.1, cache := true, bytes := [], port := k.dc.missPort, node := k.dc.missNode }]
     | none => [])

/-- Whether an access of a core may be performed at its home: none that goes to the same home is under way that the core's mesh
port, or its region's plinth node, accepted before it (R292). An access with no place of its own comes behind every other. -/
def State.inTurn (s : State) (c : CoreNum) (x : LaneAcc) : Bool :=
  match s.homeKey x.tgt with
  | none => true
  | some h =>
    s.cores.all (fun p => p.1 / 128 != c.toNat / 128 || (s.under p.2).all (fun y =>
      s.homeKey y.tgt != some h ||
        (if p.1 = c.toNat then x.port != 0 && decide (x.port ≤ y.port)
         else y.node == 0 || (x.node != 0 && decide (x.node ≤ y.node)))))

/-- Whether an access of a core that is performed at once can reach its home: in its turn, and no region in between is halted
(R52, R292). -/
def State.reaches (s : State) (c : CoreNum) (t : Tgt) : Bool :=
  s.inTurn c { lane := 0, va := 0, tgt := t, cache := false, bytes := [] } &&
    (match t with | .dev a => s.awake (some (regionOf c)) a | _ => true)

/-- Transfers of an engine that are outstanding: uncached loads and stores under way, atomics toward other devices, one a word, its
fill, and its line write-backs (R70, R569). -/
def State.transfers (s : State) (c : CoreNum) (isVe : Bool) : Nat :=
  let k := s.core c
  ((k.loads.filter (fun e => e.slot.isSome == isVe && e.atom.isNone)).flatMap (fun e =>
      e.lanes.filter (fun x => x.port != 0 && !x.cache && x.bytes.isEmpty && x.bad.isNone))).length +
    ((k.storesOut.filter (fun e => e.slot.isSome == isVe)).flatMap (·.lanes)).length +
    (match k.dc.miss with | some m => if m.2 = isVe then 1 else 0 | none => 0) +
    (if k.dc.wb.isSome && k.dc.wbVe == isVe then 1 else 0) +
    (s.tr.ops.filter (fun o => match o.purpose with
      | .store c' sl _ _ _ _ _ _ => c' == c && sl.isSome == isVe
      | .atomic c' id _ _ => c' == c && k.loads.any (fun e => e.id == id && e.slot.isSome == isVe)
      | .writeback c' (.engine ve) _ _ => c' == c && ve == isVe
      | _ => false)).length

/-- The next place in the orders of issue and of acceptance. -/
def State.takeOrder (s : State) : Nat × State := (s.order, { s with order := s.order + 1 })

/-! ## Write-backs (R85, R88, R281, R305, R569) -/

/-- A line that another device will not take: the streams that stored into it lost a store (R304, R305). -/
def State.lostLine (s : State) (c : CoreNum) (n : NicheNum) (ws : List Writer) (addr : Nat) : State :=
  if ws.isEmpty then s.lostStore c n 0 0 0 0 addr
  else ws.foldl (fun s w => s.lostStore c n w.slot.isSome.toNat (match w.slot with | some g => g.toNat | none => 0) w.gid w.lane addr) s

/-- The niche and context whose work is on a core: its holder, or the one that left stores there. -/
def State.ownerNiche (s : State) (c : CoreNum) : NicheNum :=
  match s.owner c with
  | some o => o.1
  | none => (s.grantee (regionOf c)).getD 0

def State.ownerCtx (s : State) (c : CoreNum) : BitVec 4 :=
  match s.owner c with
  | some o => o.2
  | none => (s.region (regionOf c)).lastCtx

/-- A dirty line written back to its home: device memory at once, another device by a WRITE packet (R281, R569). A parity mismatch
found as it is read is DEVICE_FATAL (R88). -/
def State.writeBack (s : State) (c : CoreNum) (why : BackWhy) (l : CacheLine) : State :=
  if s.lineBad c l 0 64 then s.lineParity c { l with dirty3 := 7 }
  else if s.isLocal l.addr then
    let a := l.addr % 2 ^ 48
    let s := s.homeWrite a l.data
    if (s.classOf a).isMemory then { s with mem := s.mem.addPoison (l.poison.map (fun w => a + 8 * w)) } else s
  else
    let dev := BitVec.ofNat 14 (l.addr / 2 ^ 48)
    let n := s.ownerNiche c
    if s.isDead dev.toNat then s.lostLine c n l.writers l.addr
    else
      let bad := l.poison.map (fun w => l.addr % 2 ^ 48 + 8 * w)
      s.sendBytes dev (l.addr % 2 ^ 48) n (s.ownerCtx c) 0 l.data bad (.writeback c why n l.writers)

/-- Whether a line can leave for its home now. -/
def State.backReady (s : State) (c : CoreNum) (l : CacheLine) : Bool := s.reaches c (s.lineTgt l.addr)

/-- Line write-backs of a core and a reason that other devices have not acknowledged. -/
def State.backsOf (s : State) (c : CoreNum) (why : BackWhy) : Nat :=
  (s.tr.ops.filter (fun o => match o.purpose with | .writeback c' w _ _ => c' == c && w == why | _ => false)).length

/-- Room for one more line write-back: six outstanding of a flush, or the limit of the engine that causes it (R569). -/
def State.backRoom (s : State) (c : CoreNum) (why : BackWhy) : Bool :=
  match why with
  | .flush => decide (s.backsOf c .flush < 6)
  | .buffer => true
  | .engine ve => decide (s.transfers c ve < 6)

/-- A line of the cache marked clean. -/
def DCache.clean (d : DCache) (line : Nat) : DCache :=
  { d with lines := d.lines.map (fun x => (x.1, if x.2.addr = line then { x.2 with dirty3 := 0, writers := [] } else x.2)) }

/-- The line in the write-back buffer leaves: the buffer is free at once, or when another device acknowledges it (R85). -/
def State.drainBuffer (s : State) (c : CoreNum) : State :=
  match (s.core c).dc.wb with
  | some l =>
    if (s.core c).dc.wbSent || !s.backReady c l then s
    else
      let s := s.writeBack c .buffer l
      let far := decide (0 < s.backsOf c .buffer)
      s.updCore c (fun k => { k with dc := { k.dc with wb := if far then k.dc.wb else none, wbSent := far } })
  | none => s

/-- Dirty lines written back that satisfy a predicate, as far as their homes and the limit of R569 let them; they stay valid and
clean (R124, CWB). The write-back buffer goes too. -/
def State.cleanLines (s : State) (c : CoreNum) (why : BackWhy) (p : Nat → Bool) : State :=
  let s := match (s.core c).dc.wb with | some l => if p l.addr then s.drainBuffer c else s | none => s
  ((s.core c).dc.dirtyOnes.filter (fun l => p l.addr)).foldl (fun s l =>
    let s := s.readSet c l.addr
    if s.backReady c l && (s.isLocal l.addr || s.backRoom c why) then
      (s.writeBack c why l).updCore c (fun k => { k with dc := k.dc.clean l.addr })
    else s) s

/-- Whether every line that satisfies a predicate has been written back and its write-back acknowledged. -/
def State.cleaned (s : State) (c : CoreNum) (why : BackWhy) (p : Nat → Bool) : Bool :=
  !((s.core c).dc.dirtyOnes.any (fun l => p l.addr)) && s.backsOf c why == 0 &&
    (match (s.core c).dc.wb with | some l => !p l.addr | none => true)

/-! ## The whole cache (R90, R123 to R125) -/

/-- Whether an access of the SE or the VE to a cacheable address waits: the cache is being invalidated at a reset, or written back
whole (R89, R90, R125). -/
def DCache.shut (d : DCache) : Bool := !d.ready || !d.flush.isEmpty

/-- Every line invalidated; L keeps its value (R90, R123). -/
def DCache.emptied (d : DCache) : DCache := { d with lines := [] }

/-- What follows the last acknowledged write-back of the whole cache: for DCACHE_WBI and a kernel's start, the invalidation; the
kernel may issue, or its end is done (R90, R123, R124). -/
def Core.flushed (k : Core) : FlushWhy → Core
  | .wbi => { k with dc := k.dc.emptied, control := setBit k.control 4 false }
  | .start false =>
    if k.se.entry.isSome && !k.se.ended then { k with dc := k.dc.emptied, se := { k.se with running := true, flags := 0 } }
    else { k with dc := k.dc.emptied }
  | .start true =>
    if k.ve.entry.isSome && k.ve.started && !k.ve.ended then { k with dc := k.dc.emptied, ve := { k.ve with running := true, flags := 0 } }
    else { k with dc := k.dc.emptied }
  | .ending false => if k.se.ended then { k with se := { k.se with running := false, drained := true } } else k
  | .ending true => if k.ve.ended then { k with ve := { k.ve with running := false, drained := true } } else k

/-- The write-backs of the whole cache go on, six outstanding at most toward other devices; behind the last acknowledgement, what
they were for follows. -/
def State.flushGo (s : State) (c : CoreNum) : State :=
  if (s.core c).dc.flush.isEmpty then s
  else
    let s := s.cleanLines c .flush (fun _ => true)
    if !s.cleaned c .flush (fun _ => true) || (s.core c).dc.miss.isSome then s
    else
      let whys := (s.core c).dc.flush
      s.updCore c (fun k => whys.foldl Core.flushed { k with dc := { k.dc with flush := [] } })

/-- The write-backs of the whole cache begin, for a reason that is not already among those of one in progress. -/
def State.startFlush (s : State) (c : CoreNum) (why : FlushWhy) : State :=
  (s.updCore c (fun k => { k with dc := { k.dc with flush := if k.dc.flush.contains why then k.dc.flush else k.dc.flush ++ [why] } })).flushGo c

/-- The line of an access that is performed at its home is written back if dirty, and then dropped (R297): a line that cannot leave
yet stays, and the access waits. -/
def State.bypass (s : State) (c : CoreNum) (isVe : Bool) (line : Nat) : State :=
  let s := s.cleanLines c (.engine isVe) (fun l => l == line)
  if (s.core c).dc.dirtyOnes.any (fun l => l.addr == line) then s else s.dropLines c (fun l => l == line)

end Sys2Proof.Machine
end

