-- ==== Sys2Proof/Machine/Issue.lean ====
section
/-! DEFINITION. The issue of one instruction by the SE or by one group of the VE: what must hold for it to issue, the word
fetched for it, its legality, its predicate, its operands, and precise exceptions (R111, R114, R130, R132, R141, R142, R564, R573). -/

namespace Sys2Proof.Machine

/-! ## Streams -/

/-- The core of a stream. -/
def strmCore : Strm → CoreNum
  | .se c => c
  | .ve g => g.core

/-- The group slot of a stream; none for the SE. -/
def strmSlot : Strm → Option (BitVec 5)
  | .se _ => none
  | .ve g => some g.slot

/-- The stream is a VE group's. -/
def strmVe (t : Strm) : Bool := (strmSlot t).isSome

/-- The operation is a store of a stream or a write-back of its core that another device has not acknowledged. -/
def isStoreOp (c : CoreNum) (slot : Option (BitVec 5)) (backs : Bool) : RemoteUse → Bool
  | .store c' sl _ _ _ _ _ _ => c' == c && sl == slot
  | .writeback c' _ _ _ => backs && c' == c
  | _ => false

/-- The store buffer of a stream's engine. -/
def Core.buffer (k : Core) (slot : Option (BitVec 5)) : List StoreEntry := if slot.isSome then k.ve.buffer else k.se.buffer

/-- Whether a stream has a store toward another device that is not acknowledged: its home may refuse it (R437). -/
def State.farStores (s : State) (c : CoreNum) (slot : Option (BitVec 5)) : Bool :=
  let far (x : LaneAcc) : Bool := match x.tgt with | .remote _ _ => true | _ => false
  ((s.core c).buffer slot).any (fun e => e.slot == slot && e.lanes.any far) || s.tr.ops.any (fun o => isStoreOp c slot false o.purpose)

/-- Whether a stream has a store in its buffer, or one that its home has not acknowledged (R281). -/
def State.storesPending (s : State) (c : CoreNum) (slot : Option (BitVec 5)) : Bool :=
  let k := s.core c
  (k.buffer slot).any (fun e => e.slot == slot) || k.storesOut.any (fun e => e.slot == slot) ||
    s.tr.ops.any (fun o => isStoreOp c slot false o.purpose)

/-- Whether a write-back of the core has not been acknowledged by another device. -/
def State.backsPending (s : State) (c : CoreNum) : Bool :=
  s.tr.ops.any (fun o => match o.purpose with | .writeback c' _ _ _ => c' == c | _ => false)

/-- Whether a stream has a load or an atomic outstanding. -/
def State.loadsPending (s : State) (c : CoreNum) (slot : Option (BitVec 5)) : Bool :=
  (s.core c).loads.any (fun e => e.slot == slot)

/-- Whether an outstanding access of a stream writes one of some registers. -/
def State.awaits (s : State) (c : CoreNum) (slot : Option (BitVec 5)) (regs : List Nat) : Bool :=
  let k := s.core c
  k.loads.any (fun e => e.slot == slot && (match e.dst with
    | some d => regs.contains d.toNat || (slot.isSome && e.size == 8 && regs.contains (d.toNat + 1))
    | none => false)) ||
    (match slot with
     | some g => k.ve.xf.any (fun x => x.slot == g && regs.contains x.dst.toNat)
     | none => false)

/-- Registers of some lanes that an instruction writes while an access of its stream still owes them a value: the younger value
stands (R564). -/
def State.overwrite (s : State) (c : CoreNum) (slot : Option (BitVec 5)) (lanes regs : List Nat) : State :=
  if !s.awaits c slot regs then s
  else
    let mine := lanes.flatMap (fun l => regs.map (fun r => (l, r)))
    s.updCore c (fun k =>
      { k with loads := k.loads.map (fun e => if e.slot = slot then { e with skip := e.skip ++ mine } else e)
               ve := { k.ve with xf := k.ve.xf.map (fun x =>
                 if some x.slot = slot ∧ regs.contains x.dst.toNat then { x with results := x.results.filter (fun r => !lanes.contains r.1) } else x) } })

/-- Whether an engine stands still: an access of it waits to be accepted by the mesh port (R70), or for the miss of another line to
end (R84). -/
def State.stalled (s : State) (c : CoreNum) (isVe : Bool) : Bool :=
  let k := s.core c
  k.loads.any (fun e => e.slot.isSome == isVe && e.atom.isNone && e.lanes.any (fun x => x.bytes.isEmpty && x.bad.isNone &&
    (if x.cache then k.dc.miss.map (·.1) != some (lineAddr x.tgt s.myDevice) else x.port == 0)) ||
    e.slot.isSome == isVe && (match e.atom with | some a => !a.2.isEmpty | none => false))

/-! ## The fetched word (R91) -/

/-- The entry that runs on a stream's engine. -/
def State.entryOn (s : State) (t : Strm) : Option EngineEntry :=
  let k := s.core (strmCore t)
  if strmVe t then k.ve.entry else k.se.entry

/-- Offset in the parameter window of an entry, when a virtual address lies in it (R375). -/
def windowOff (e : Option EngineEntry) (va : Nat) : Option Nat :=
  match e with
  | some e =>
    let w := fld e.window 16 41 * 2 ^ 16
    if w ≤ va ∧ va < w + 0x1_0000 then some (va - w) else none
  | none => none

/-- The instruction word at an offset of a line, when a way of the line's set holds the line, with the word's parity good, or the
word was fetched past the cache: the set index is physical address [12:6]. -/
def ICache.word (i : ICache) (line off : Nat) : Option W64 :=
  match [0, 1].findSome? (fun w => match Sparse.find i.lines (2 * (line / 64 % 128) + w) with
    | some l => if l.addr == line && !l.badParity.contains (off / 8) then some (BitVec.ofNat 64 (leNat ((l.data.drop off).take 8))) else none
    | none => none) with
  | some w => some w
  | none => match i.loose with
    | some (a, w) => if a = line + off then some w else none
    | none => none

/-- The word that a stream fetches at an address: the address translates, is no address of the parameter window (R375), and
the instruction cache of the core holds its line. -/
def State.iword (s : State) (t : Strm) (pc : Nat) : Option W64 :=
  let c := strmCore t
  if (windowOff (s.entryOn t) pc).isSome then none
  else
    match (s.translate (some c) (s.ownerNiche c) pc .fetch).1 with
    | .ok tg _ => (s.core c).ic.word (lineAddr tg s.myDevice) (pc % 64)
    | _ => none

/-! ## Precise exceptions -/

/-- The launch that an engine's entry belongs to. -/
def launchOf (e : Option EngineEntry) : Nat := match e with | some e => e.launch | none => 0

/-- Whether an older access of a stream is still to be performed (R142). -/
def State.olderPending (s : State) (c : CoreNum) (slot : Option (BitVec 5)) : Bool := s.storesPending c slot || s.loadsPending c slot

/-- An exception of the SE at an address. -/
def State.seRaise (s : State) (c : CoreNum) (pc code : Nat) (detail : W64) : State :=
  s.raise c (launchOf (s.core c).se.entry) { code := code, engine := 0, pc := pc, detail := detail }

/-- An exception of a group at an instruction, naming a lane (R141). -/
def State.veRaise (s : State) (g : VeAt) (x : Group) (lane pc code : Nat) (detail : W64) : State :=
  let b := Sparse.getD (s.core g.core).ve.blocks x.blockSlot {}
  s.raise g.core (launchOf (s.core g.core).ve.entry)
    { code := code, engine := 1, group := x.index, block := b.block, lane := lane, pc := pc, detail := detail }

/-- A precise exception of the SE at its instruction; it waits until the SE's older loads are performed, and its older stores
performed or lost (R142, R303). -/
def State.seFault (s : State) (c : CoreNum) (code : Nat) (detail : W64) : Option State :=
  if s.olderPending c none then none else some (s.seRaise c (s.core c).se.pc.toNat code detail)

/-- A precise exception of a group at an instruction; it waits in the same way. -/
def State.veFault (s : State) (g : VeAt) (x : Group) (lane pc code : Nat) (detail : W64) : Option State :=
  if s.olderPending g.core (some g.slot) then none else some (s.veRaise g x lane pc code detail)

/-- The registers, among those an instruction reads, that the register files hold: s0 and p0 are constants (R71). -/
def fileReads (reads : List (Nat × Nat)) : List (Nat × Nat) := reads.filter (fun r => r.1 == 1 || r.2 != 0)

/-- The record of a register-file parity error (table Record detail). -/
def regErr (c : CoreNum) (cause engine : Nat) (r : Nat × Nat) : ErrInfo :=
  { cause := cause, loc := dieLoc (regionOf c), core := some c, aux := engine,
    detail := pack [(0, 8, r.2), (8, 2, r.1)], injected := true }

/-- An injected transient register error: the re-read matches (R73, R573). -/
def State.regReplay (s : State) (c : CoreNum) (engine : Nat) (reads : List (Nat × Nat)) : State :=
  match fileReads reads with
  | r :: _ =>
    if s.armed 2 && s.injCore == c then
      let s := s.disarm.updCore c (fun k => { k with regReplay := satAdd k.regReplay 1 })
      s.logError (regErr c 0x01 engine r)
    else s
  | [] => s

/-- The register whose stored value an injected error flips (R573). -/
def State.regUe (s : State) (c : CoreNum) (reads : List (Nat × Nat)) : Option (Nat × Nat) :=
  if s.armed 14 && s.injCore == c then (fileReads reads).head? else none

/-! ## The SE -/

/-- Whether the SE may issue an instruction of its entry (R564). -/
def State.seReady (s : State) (c : CoreNum) : Bool :=
  let e := (s.core c).se
  s.runs c && e.running && !e.ended && !e.semWait && (s.core c).ic.ready && !s.stalled c false

/-- The SE past its instruction. -/
def State.seNext (s : State) (c : CoreNum) : State :=
  s.updCore c (fun k => { k with se := { k.se with pc := k.se.pc + 8 } })

/-- The predicate test of R132. -/
def seTest (preds : Byte) (w : W64) : Bool := predOf preds (fld w 54 3) ^^ bit w 53

/-- The issue of an instruction by the SE, where `w` is the word at its address in the instruction cache: `reads` lists (file, register) in the order SRC1, SRC2, SRC3, DST; `body` is
its effect, none when it must wait, and `wait` is what it causes while it waits (a recall of R461). -/
def State.seIssue (s : State) (c : CoreNum) (w : W64) (reads : List (Nat × Nat)) (dst : Option Nat) (effectful : Bool)
    (body : State → Option State) (wait : State → State := id) : Host.Outcome State Fault Refusal :=
  if !(s.seReady c && s.iword (.se c) (s.core c).se.pc.toNat == some w) then .next s
  else if !legal false 0 w then .next ((s.seFault c 0x01 w).getD s)
  else if !seTest (s.core c).se.preds w then .next ((s.seNext c).selfAdd c 2 1)
  else if s.awaits c none ((reads.filter (fun r => r.1 == 0)).map (·.2)) || (effectful && s.loadsPending c none) then .next s
  else
    match s.regUe c reads with
    | some r =>
      if s.olderPending c none then .next s
      else .next (s.disarm.hwError c (launchOf (s.core c).se.entry) (regErr c 0x20 0 r)
        { code := 0x0D, engine := 0, pc := (s.core c).se.pc.toNat })
    | none =>
      match body ((s.regReplay c 0 reads).overwrite c none [0] dst.toList) with
      | some t => .next (t.selfAdd c 2 1)
      | none => .next (wait s)

/-! ## The VE -/

/-- The predicate test of R132 for a lane. -/
def Group.test (g : Group) (w : W64) (lane : Nat) : Bool := predOf (g.thread lane).preds (fld w 54 3) ^^ bit w 53

/-- Whether a group is ready for sure: it has an integer or predicate instruction in the cache, nothing outstanding, and four region
cycles, by which every result of such an instruction is there (table Vector issue latencies), have passed since it issued. -/
def State.surelyReady (s : State) (c : CoreNum) (slot : Nat) (x : Group) : Bool :=
  let g : VeAt := ⟨c, BitVec.ofNat 5 slot⟩
  let k := s.core c
  !x.semWait && !s.loadsPending c (some g.slot) && !k.ve.xf.any (fun e => e.slot == g.slot) &&
    (match Sparse.find k.ve.issuedAt slot, x.choose with
     | some t, some (_, pc, _) =>
       decide (4 ≤ (s.cyclesOf c - t).toNat) && (match s.iword (.ve g) pc with | some w => [0x06, 0x08, 0x09].contains (wOp w) | none => false)
     | _, _ => false)

/-- Whether the choice of R111 passes over a slot: a group that is ready for sure comes before it, after the slot that issued last. -/
def State.passedOver (s : State) (g : VeAt) : Bool :=
  let k := s.core g.core
  let far (i : Nat) : Nat := (i + 31 - k.ve.lastSlot) % 32
  k.ve.groups.any (fun p => decide (far p.1 < far g.slot.toNat) && s.surelyReady g.core p.1 p.2)

/-- Whether a group may issue: its kernel runs, its engine is not stalled, it does not wait on a semaphore, and no ready group
comes before it (R70, R84, R111, R323). -/
def State.veReady (s : State) (g : VeAt) : Option Group :=
  let e := (s.core g.core).ve
  if s.runs g.core && e.running && (s.core g.core).ic.ready && !s.stalled g.core true && !s.passedOver g then
    match s.group g.core g.slot.toNat with
    | some x => if x.semWait then none else some x
    | none => none
  else none

/-- The group's lanes past the instruction, and the group put back. -/
def State.veNext (s : State) (g : VeAt) (x : Group) (lanes : List Nat) : State :=
  s.setGroup g.core g.slot.toNat (x.advance lanes)

/-- The VE's counters and its order of choice after an issue (R520, R111). -/
def State.veIssued (s : State) (g : VeAt) (lanes : Nat) : State :=
  ((s.updCore g.core (fun k => { k with ve := { k.ve with lastSlot := g.slot.toNat, issuedAt := Sparse.put k.ve.issuedAt g.slot.toNat (s.cyclesOf g.core) } })).selfAdd g.core 3 1).selfAdd
    g.core 4 (BitVec.ofNat 64 lanes)

/-- The issue of an instruction by a group: R112 chooses the address and the lanes, and `w` is the word there in the instruction
cache; lanes whose predicate bit is 0 only
advance (R114). `body` is given the group with those lanes advanced, the address and the active lanes. -/
def State.veIssue (s : State) (g : VeAt) (w : W64) (reads : List (Nat × Nat)) (dsts : List Nat) (effectful : Bool)
    (body : State → Group → Nat → List Nat → Option State) (wait : State → Group → List Nat → State := fun s _ _ => s) :
    Host.Outcome State Fault Refusal :=
  match s.veReady g with
  | none => .next s
  | some x0 =>
    match x0.choose with
    | none => .next s
    | some (x, pc, lanes) =>
      if s.iword (.ve g) pc != some w then .next s
      else if !legal true x.regs w then .next ((s.veFault g x (lanes.headD 0) pc 0x01 w).getD s)
      else
        let active := lanes.filter (x.test w)
        let x := x.advance (lanes.filter (fun l => !x.test w l))
        if active.isEmpty then .next ((s.setGroup g.core g.slot.toNat x).veIssued g 0)
        else if s.awaits g.core (some g.slot) ((reads.filter (fun r => r.1 == 1)).map (·.2)) ||
            (effectful && s.loadsPending g.core (some g.slot)) then .next s
        else
          match s.regUe g.core reads with
          | some r =>
            if s.olderPending g.core (some g.slot) then .next s
            else
              let b := Sparse.getD (s.core g.core).ve.blocks x.blockSlot {}
              .next (s.disarm.hwError g.core (launchOf (s.core g.core).ve.entry) (regErr g.core 0x20 1 r)
                { code := 0x0D, engine := 1, group := x.index, block := b.block, lane := active.headD 0, pc := pc })
          | none =>
            match body (((s.regReplay g.core 1 reads).overwrite g.core (some g.slot) active dsts).setGroup g.core g.slot.toNat x) x pc active with
            | some t => .next (t.veIssued g active.length)
            | none => .next (wait s x active)

/-! ## Results -/

/-- A register result of the SE; the SE goes on. -/
def State.seResult (s : State) (c : CoreNum) (dst : Nat) (v : W64) : State :=
  s.updCore c (fun k => { k with se := { k.se.setReg dst v with pc := k.se.pc + 8 } })

/-- A predicate result of the SE; the SE goes on. -/
def State.sePredResult (s : State) (c : CoreNum) (dst : Nat) (b : Bool) : State :=
  s.updCore c (fun k => { k with se := { k.se with preds := setPred k.se.preds dst b, pc := k.se.pc + 8 } })

/-- Sticky flags of the VE (R134). -/
def State.veFlags (s : State) (c : CoreNum) (f : Byte) : State :=
  s.updCore c (fun k => { k with ve := { k.ve with flags := k.ve.flags ||| f } })

/-- Registers of lanes written from the values that the group held before. -/
def Group.writeLanes (x : Group) (lanes : List Nat) (dst : Nat) (f : Nat → W32) : Group :=
  lanes.foldl (fun y l => y.setReg l dst (f l)) x

/-- Register pairs of lanes written. -/
def Group.writePairs (x : Group) (lanes : List Nat) (dst : Nat) (f : Nat → W64) : Group :=
  lanes.foldl (fun y l => y.setPair l dst (f l)) x

/-- Predicates of lanes written. -/
def Group.writePreds (x : Group) (lanes : List Nat) (dst : Nat) (f : Nat → Bool) : Group :=
  lanes.foldl (fun y l => y.updThread l (fun t => { t with preds := setPred t.preds dst (f l) })) x

/-- A register instruction of the VE: each active lane's result and flags from the group's registers. -/
def State.veLanes (s : State) (g : VeAt) (w : W64) (reads : List (Nat × Nat)) (dst : Nat)
    (f : Group → Nat → W32 × Byte) : Host.Outcome State Fault Refusal :=
  s.veIssue g w reads [dst] false (fun s x _ act =>
    let fl := act.foldl (fun a l => a ||| (f x l).2) (0 : Byte)
    some (((s.veFlags g.core fl).veNext g (x.writeLanes act dst (fun l => (f x l).1)) act)))

/-- A predicate instruction of the VE. -/
def State.vePreds (s : State) (g : VeAt) (w : W64) (reads : List (Nat × Nat)) (dst : Nat)
    (f : Group → Nat → Bool) : Host.Outcome State Fault Refusal :=
  s.veIssue g w reads [] false (fun s x _ act => some (s.veNext g (x.writePreds act dst (f x)) act))

/-- A register instruction of the SE. -/
def State.seReg (s : State) (c : CoreNum) (w : W64) (reads : List (Nat × Nat)) (dst : Nat)
    (f : Se → W64 × Byte) : Host.Outcome State Fault Refusal :=
  s.seIssue c w reads (some dst) false (fun s =>
    let r := f (s.core c).se
    let s := s.updCore c (fun k => { k with se := { k.se with flags := k.se.flags ||| r.2 } })
    some (s.seResult c dst r.1))

/-- A predicate instruction of the SE. -/
def State.sePred (s : State) (c : CoreNum) (w : W64) (reads : List (Nat × Nat)) (dst : Nat)
    (f : Se → Bool) : Host.Outcome State Fault Refusal :=
  s.seIssue c w reads none false (fun s => some (s.sePredResult c dst (f (s.core c).se)))

end Sys2Proof.Machine
end

