-- ==== Sys2Proof/Machine/Barrier.lean ====
section
/-! DEFINITION. Group and block barriers, and the exit of threads (R110, R116 to R119). -/

namespace Sys2Proof.Machine

/-- Live lanes of a group. -/
def Group.live (x : Group) : List Nat := (List.range 32).filter (fun l => !(x.thread l).exited)

/-- The lanes that wait at a kind of barrier. -/
def Group.at_ (x : Group) (k : Arrival) : List Nat := x.live.filter (fun l => (x.thread l).arrived == k)

/-- Threads that wait at a barrier leave it together, past their SYNC. -/
def Group.leave (x : Group) (k : Arrival) : Group :=
  { x.mapLanes (x.at_ k) (fun _ t => { t with arrived := .no, pc := t.pc + 8 }) with barStart := none, barCyc := none }

/-- Word 1 of a BARRIER record: 0 SYNC.G or 1 SYNC.B, the slot and lane that released it, whether by an exit. -/
def barrierWord (isBlock : Bool) (slot lane : Nat) (byExit : Bool) : Nat :=
  isBlock.toNat + slot * 2 + lane * 2 ^ 6 + byExit.toNat * 2 ^ 11

/-- Cycles that a group waited at its barrier, added to BARRIER_WAIT_CYCLES (R520). -/
def State.barrierCycles (s : State) (c : CoreNum) (x : Group) : State :=
  match x.barCyc with
  | some b => s.selfAdd c 11 (s.cyclesOf c - b)
  | none => s

/-- Release of a group barrier when every thread that has not exited has arrived (R117). -/
def State.releaseG (s : State) (g : VeAt) (lane : Nat) (byExit : Bool) : State :=
  match s.group g.core g.slot.toNat with
  | none => s
  | some x =>
    let a := x.at_ .group
    if a.isEmpty || a.length != x.live.length then s
    else
      let s := (s.barrierCycles g.core x).setGroup g.core g.slot.toNat (x.leave .group)
      s.friezeWait (regionOf g.core) 2 0x12 g.core.toNat 1 g.slot.toNat (s.waited g.core (x.barStart.getD 0))
        (barrierWord false g.slot.toNat lane byExit)

/-- The resident groups of a block slot of a core, by group slot. -/
def Core.groupsOf (k : Core) (blockSlot : Nat) : List (Nat × Group) := k.ve.groups.filter (fun p => p.2.blockSlot == blockSlot)

/-- Release of a block barrier when every thread of the block that has not exited has arrived (R118). -/
def State.releaseB (s : State) (g : VeAt) (blockSlot lane : Nat) (byExit : Bool) : State :=
  let gs := (s.core g.core).groupsOf blockSlot
  if gs.all (fun p => (p.2.at_ .block).isEmpty) || !gs.all (fun p => (p.2.at_ .block).length == p.2.live.length) then s
  else
    let b := Sparse.getD (s.core g.core).ve.blocks blockSlot {}
    let s := gs.foldl (fun t p => (t.barrierCycles g.core p.2).setGroup g.core p.1 (p.2.leave .block)) s
    let s := s.updCore g.core (fun k => { k with ve := { k.ve with
      issuedAt := k.ve.issuedAt.filter (fun p => !gs.any (fun q => q.1 == p.1))
      blocks := k.ve.blocks.mapVals (fun i b => if i = blockSlot then { b with barStart := none } else b) } })
    s.friezeWait (regionOf g.core) 2 0x12 g.core.toNat 1 g.slot.toNat (s.waited g.core (b.barStart.getD 0))
      (barrierWord true g.slot.toNat lane byExit)

/-- Threads arrive at SYNC.G or SYNC.B (R116); the first arrival starts the barrier's time (R120). -/
def State.arrive (s : State) (g : VeAt) (x : Group) (lanes : List Nat) (isBlock : Bool) : State :=
  let now := (s.region (regionOf g.core)).tl
  let first (o : Option W64) : Option W64 := if o.isSome then o else some now
  let y := x.mapLanes lanes (fun _ t => { t with arrived := if isBlock then .block else .group })
  let cyc := if y.barCyc.isSome then y.barCyc else some (s.cyclesOf g.core)
  let y := { y with barCyc := cyc, barStart := if isBlock then y.barStart else first y.barStart }
  let s := s.setGroup g.core g.slot.toNat y
  let lane := lanes.getLastD 0
  if isBlock then
    let s := s.updCore g.core (fun k => { k with ve := { k.ve with
      blocks := k.ve.blocks.mapVals (fun i b => if i = x.blockSlot then { b with barStart := first b.barStart } else b) } })
    s.releaseB g x.blockSlot lane false
  else s.releaseG g lane false

/-- A thread that exits leaves its lost-store flag with the kernel (R307). -/
def firstLost (o : Option W64) (x : Group) (lanes : List Nat) : Option W64 :=
  lanes.foldl (fun a l => if a.isSome then a else (x.thread l).lost) o

/-- Threads exit: the last live one of a group frees the group, the last group of a block the block (R110); barriers
that waited only for them release (R117, R118). The kernel has ended when no block is resident and none is to come. -/
def State.exitLanes (s : State) (g : VeAt) (x : Group) (pc : Nat) (lanes : List Nat) : State :=
  let lane := lanes.getLastD 0
  let b := Sparse.getD (s.core g.core).ve.blocks x.blockSlot {}
  let y := x.mapLanes lanes (fun _ t => { t with exited := true })
  let s := s.updCore g.core (fun k => { k with ve := { k.ve with
    lost := firstLost k.ve.lost x lanes
    lastExit := (x.index, b.block, lane, BitVec.ofNat 64 pc) } })
  if y.live.isEmpty then
    let s := s.updCore g.core (fun k => { k with ve := { k.ve with groups := Sparse.del k.ve.groups g.slot.toNat } })
    if ((s.core g.core).groupsOf x.blockSlot).isEmpty then
      s.updCore g.core (fun k =>
        let blocks := Sparse.del k.ve.blocks x.blockSlot
        { k with ve := { k.ve with blocks := blocks, ended := blocks.isEmpty && k.ve.nextBlock == k.ve.endBlock } })
    else s.releaseB g x.blockSlot lane true
  else
    let s := s.setGroup g.core g.slot.toNat y
    (s.releaseG g lane true).releaseB g x.blockSlot lane true

end Sys2Proof.Machine
end

