-- ==== Sys2Proof/Machine/Flags.lean ====
section
/-! DEFINITION. Number formats, rounding, fused sums, conversions, comparisons, transcendental results and the bits of
ARITH_FLAGS that they set (06_number_formats.md). -/

namespace Sys2Proof.Machine

/-! ## ARITH_FLAGS (R173) -/

def flNX : Byte := 1
def flOF : Byte := 2
def flUF : Byte := 4
def flIV : Byte := 8
def flNV : Byte := 16
def flFZ : Byte := 32
def flSAT : Byte := 64
def flQS : Byte := 128

/-! ## Formats, numbered as FMT (R133, R146) -/

/-- A float format: width, exponent bits, fraction bits, bias, and whether it is short (no infinities, no −0, R148, R149). -/
structure FP where
  w : Nat
  eb : Nat
  mb : Nat
  bias : Nat
  short : Bool
deriving DecidableEq, Repr

/-- The float format of an encoding, none for integers, T2 and BS8. -/
def fpOf : Nat → Option FP
  | 0x0 => some ⟨4, 2, 1, 2, true⟩
  | 0x1 => some ⟨6, 3, 2, 4, true⟩
  | 0x2 => some ⟨8, 4, 3, 9, true⟩
  | 0xA => some ⟨16, 5, 10, 15, false⟩
  | 0xB => some ⟨16, 7, 8, 63, false⟩
  | 0xC => some ⟨32, 8, 23, 127, false⟩
  | 0xD => some ⟨40, 10, 29, 511, false⟩
  | 0xE => some ⟨80, 15, 64, 16383, false⟩
  | _ => none

/-- An integer format: bits and whether it is signed. -/
def intOf : Nat → Option (Nat × Bool)
  | 0x4 => some (4, true)
  | 0x5 => some (4, false)
  | 0x6 => some (8, true)
  | 0x7 => some (8, false)
  | 0x8 => some (16, true)
  | 0x9 => some (32, true)
  | _ => none

/-- Bits of a code of a format. -/
def fmtWidth : Nat → Nat
  | 0x0 | 0x4 | 0x5 => 4
  | 0x1 => 6
  | 0x2 | 0x6 | 0x7 | 0xF => 8
  | 0x3 => 2
  | 0x8 | 0xA | 0xB => 16
  | 0x9 | 0xC => 32
  | 0xD => 40
  | _ => 80

/-- A decoded operand: a not-a-value, an infinity, or (−1)^neg × m × 2^e. -/
inductive FV where
  | nan
  | inf (neg : Bool)
  | fin (neg : Bool) (m : Nat) (e : Int)
deriving DecidableEq, Repr

def FV.isZero : FV → Bool
  | .fin _ 0 _ => true
  | _ => false

def FV.isNan : FV → Bool
  | .nan => true
  | _ => false

def FV.neg : FV → FV
  | .nan => .nan
  | .inf b => .inf (!b)
  | .fin b m e => .fin (!b) m e

def FV.sign : FV → Bool
  | .nan => false
  | .inf b => b
  | .fin b _ _ => b

/-- The value of an integer as a decoded operand. -/
def FV.ofInt (v : Int) : FV := .fin (decide (v < 0)) v.natAbs 0

/-- The value of a code of a float format (R147 to R149). -/
def FP.decode (f : FP) (c : Nat) : FV :=
  let neg := c.testBit (f.w - 1)
  let e := c / 2 ^ f.mb % 2 ^ f.eb
  let m := c % 2 ^ f.mb
  if f.short && neg && e == 0 && m == 0 then .nan
  else if !f.short && e == 2 ^ f.eb - 1 then if m == 0 then .inf neg else .nan
  else if e == 0 then .fin neg m (1 - (f.bias : Int) - f.mb)
  else .fin neg (2 ^ f.mb + m) ((e : Int) - f.bias - f.mb)

/-- The value of a code of any format (R147, R150, table T2 code points). -/
def decodeFmt (fmt c : Nat) : FV :=
  match fpOf fmt with
  | some f => f.decode (c % 2 ^ f.w)
  | none =>
    match intOf fmt with
    | some (n, true) => .ofInt (sextI n c)
    | some (n, false) => .ofInt ((c % 2 ^ n : Nat) : Int)
    | none =>
      if fmt == 3 then
        match c % 4 with
        | 0 => .fin false 0 0
        | 1 => .fin false 1 0
        | 3 => .fin true 1 0
        | _ => .nan
      else if c % 256 == 0xFF then .nan
      else .fin false (4 + c % 4) ((c % 256 / 4 : Nat) - 34)

/-- The canonical not-a-value (table Canonical not-a-values); integers give 0 (R166). -/
def canonNan : Nat → Nat
  | 0x0 => 0x8
  | 0x1 => 0x20
  | 0x2 => 0x80
  | 0x3 => 0b10
  | 0xA => 0x7E00
  | 0xB => 0x7F80
  | 0xC => 0x7FC0_0000
  | 0xD => 0x7F_F000_0000
  | 0xE => 0x7FFF_8000_0000_0000_0000
  | 0xF => 0xFF
  | _ => 0

/-- Whether a format has the flush mode (R156): H16, W16, F32. -/
def flushable (fmt : Nat) : Bool := fmt == 0xA || fmt == 0xB || fmt == 0xC

/-- An operand under FLUSH (R156): a subnormal becomes a zero of its sign, with FZ. -/
def flushOperand (fmt : Nat) (flush : Bool) (v : FV) : FV × Byte :=
  match v, fpOf fmt with
  | .fin b m e, some f => if flush && flushable fmt && m != 0 && decide (m < 2 ^ f.mb) then (.fin b 0 e, flFZ) else (v, 0)
  | _, _ => (v, 0)

/-! ## Rounding (R157 to R159) -/

/-- Number of bits of a positive number. -/
def bitLen (n : Nat) : Nat := if n = 0 then 0 else n.log2 + 1

/-- m × 2^e as a multiple t of 2^q and the part left over: the part as a numerator over 2^d. -/
def splitAt (m : Nat) (e q : Int) : Nat × Nat × Nat :=
  if q ≤ e then (m * 2 ^ (e - q).toNat, 0, 0)
  else
    let d := (q - e).toNat
    (m / 2 ^ d, m % 2 ^ d, d)

/-- Whether the magnitude moves to the next value: RND 0 RNE, 1 RTZ, 2 SR with random value r. -/
def roundsUp (rnd r t rest d : Nat) : Bool :=
  if rest = 0 then false
  else
    match rnd with
    | 0 => decide (2 ^ d < 2 * rest) || (2 * rest == 2 ^ d && t % 2 == 1)
    | 1 => false
    | _ => decide (r < rest * 2 ^ 32 / 2 ^ d)

/-- sr_bits (R159). -/
def srBits (seed : W64) (stream index : Nat) : Nat :=
  let x := seed + BitVec.ofNat 64 stream * 0x9E37_79B9_7F4A_7C15 + BitVec.ofNat 64 index * 0xD1B5_4A32_D192_ED03
  let x := (x ^^^ (x >>> 30)) * 0xBF58_476D_1CE4_E5B9
  let x := (x ^^^ (x >>> 27)) * 0x94D0_49BB_1331_11EB
  let x := x ^^^ (x >>> 31)
  fld x 32 32

/-- How a result is rounded: RND, the random value, SAT (true SATURATE), FLUSH, and whether a quantising instruction asks (R169). -/
structure RMode where
  rnd : Nat := 0
  r : Nat := 0
  sat : Bool := false
  flush : Bool := false
  quant : Bool := false
deriving DecidableEq, Repr

/-- The largest finite code magnitude of a float format. -/
def FP.maxCode (f : FP) : Nat := if f.short then 2 ^ (f.eb + f.mb) - 1 else (2 ^ f.eb - 1) * 2 ^ f.mb - 1

/-- A code with the sign put in front. -/
def FP.signed (f : FP) (neg : Bool) (c : Nat) : Nat := if neg then c + 2 ^ (f.w - 1) else c

/-- A zero of a sign: a short format has one zero code (R149). -/
def FP.zero (f : FP) (neg : Bool) : Nat := if f.short then 0 else f.signed neg 0

/-- The result when the rounded magnitude exceeds the largest finite one (R163). -/
def FP.overflow (f : FP) (k : RMode) (neg : Bool) : Nat × Byte :=
  let fl := (if k.quant then flQS else flOF) ||| flNX
  if f.short || k.sat || k.rnd == 1 then (f.signed neg f.maxCode, fl)
  else (f.signed neg ((2 ^ f.eb - 1) * 2 ^ f.mb), fl)

/-- A nonzero exact value (−1)^neg × m × 2^e rounded to a float format (R156, R157, R158, R163). -/
def FP.round (f : FP) (fmt : Nat) (k : RMode) (neg : Bool) (m : Nat) (e : Int) : Nat × Byte :=
  let top : Int := (bitLen m : Int) - 1 + e
  let emin : Int := 1 - (f.bias : Int)
  if k.flush && flushable fmt && decide (top < emin) then (f.signed neg 0, flFZ ||| flUF ||| flNX)
  else
    let q := (if top < emin then emin else top) - f.mb
    let (t, rest, d) := splitAt m e q
    let t' := if roundsUp k.rnd k.r t rest d then t + 1 else t
    let (t', q) := if 2 ^ (f.mb + 1) ≤ t' then (t' / 2, q + 1) else (t', q)
    let code : Int := if t' < 2 ^ f.mb then (t' : Int) else (q + f.mb + f.bias) * 2 ^ f.mb + (t' - 2 ^ f.mb : Nat)
    if (f.maxCode : Int) < code then f.overflow k neg
    else
      let fl := if rest = 0 then 0 else if top < emin then flUF ||| flNX else flNX
      (if code = 0 then f.zero neg else f.signed neg code.toNat, fl)

/-- A nonzero exact value rounded to T2 (R157, R163). -/
def roundT2 (k : RMode) (neg : Bool) (m : Nat) (e : Int) : Nat × Byte :=
  let (t, rest, d) := splitAt m e 0
  let t' := if roundsUp k.rnd k.r t rest d then t + 1 else t
  let one := if neg then 0b11 else 0b01
  if 1 < t' then (one, (if k.quant then flQS else flOF) ||| flNX)
  else if t' = 0 then (0, flUF ||| flNX)
  else (one, if rest = 0 then 0 else flNX)

/-- A nonzero exact value rounded to a float format or T2. -/
def roundTo (fmt : Nat) (k : RMode) (neg : Bool) (m : Nat) (e : Int) : Nat × Byte :=
  match fpOf fmt with
  | some f => f.round fmt k neg m e
  | none => roundT2 k neg m e

/-- A zero of a sign in a float format or T2. -/
def zeroOf (fmt : Nat) (neg : Bool) : Nat :=
  match fpOf fmt with
  | some f => f.zero neg
  | none => 0

/-- An infinity in a float format, or the largest finite value of its sign where the format has none (R162 step 4). -/
def infOf (fmt : Nat) (k : RMode) (neg : Bool) : Nat × Byte :=
  let fl := (if k.quant then flQS else flOF) ||| flNX
  match fpOf fmt with
  | some f => if f.short then (f.signed neg f.maxCode, fl) else (f.signed neg ((2 ^ f.eb - 1) * 2 ^ f.mb), 0)
  | none => (if neg then 0b11 else 0b01, fl)

/-! ## Fused sums (R162, R163) -/

/-- The product of the factors of a term; none is step 3 of R162. -/
def mulTerm : List FV → Option FV
  | [] => some (.fin false 1 0)
  | v :: vs =>
    match mulTerm vs with
    | none => none
    | some p =>
      match v, p with
      | .nan, _ => some .nan
      | _, .nan => some .nan
      | .inf a, .inf b => some (.inf (a != b))
      | .inf a, .fin b m _ => if m = 0 then none else some (.inf (a != b))
      | .fin a m _, .inf b => if m = 0 then none else some (.inf (a != b))
      | .fin a m e, .fin b n g => some (.fin (a != b) (m * n) (e + g))

/-- The exact sum of finite terms as an integer multiple of 2^e. -/
def sumFinite (ts : List FV) : Int × Int :=
  let e := ts.foldl (fun (a : Int) t => match t with | .fin _ m g => if m = 0 then a else min a g | _ => a) 100000
  (ts.foldl (fun (a : Int) t =>
    match t with
    | .fin b m g => let v : Int := (m * 2 ^ (g - e).toNat : Nat); if b then a - v else a + v
    | _ => a) 0, e)

/-- What a fused sum is before its rounding. -/
inductive Fused where
  | nv
  | iv
  | inf (neg : Bool)
  | zero (neg : Bool)
  | val (neg : Bool) (m : Nat) (e : Int)
deriving DecidableEq, Repr

/-- R162 on the terms of a fused sum, each a list of factors. -/
def fuse (terms : List (List FV)) : Fused :=
  if terms.any (fun t => t.any FV.isNan) then .nv
  else
    let ps := terms.map mulTerm
    if ps.any Option.isNone then .iv
    else
      let vs := ps.filterMap id
      let infs := vs.filterMap (fun v => match v with | .inf b => some b | _ => none)
      match infs with
      | b :: bs => if bs.all (fun x => x == b) then .inf b else .iv
      | [] =>
        let (s, e) := sumFinite vs
        if s = 0 then .zero (vs.all (fun v => v.isZero && v.sign))
        else .val (decide (s < 0)) s.natAbs e

/-- A fused sum rounded once into a float format or T2: its code and flags (R162, R163). -/
def fusedTo (fmt : Nat) (k : RMode) (terms : List (List FV)) : Nat × Byte :=
  match fuse terms with
  | .nv => (canonNan fmt, flNV)
  | .iv => (canonNan fmt, flIV)
  | .inf b => infOf fmt k b
  | .zero b => (zeroOf fmt b, 0)
  | .val b m e => roundTo fmt k b m e

/-! ## Integer destinations (R166, R167) -/

/-- The range of an integer format. -/
def intRange (n : Nat) (signed : Bool) : Int × Int :=
  if signed then (-(2 : Int) ^ (n - 1), (2 : Int) ^ (n - 1) - 1) else (0, (2 : Int) ^ n - 1)

/-- An exact integer into n bits: SATURATE gives the nearest limit and `fl`, WRAP the low bits (R167). -/
def intTo (n : Nat) (signed sat : Bool) (fl : Byte) (v : Int) : Nat × Byte :=
  let (lo, hi) := intRange n signed
  if lo ≤ v ∧ v ≤ hi then (wrapN n v, 0)
  else if sat then (wrapN n (if v < lo then lo else hi), fl)
  else (wrapN n v, 0)

/-- A float value into an integer format (R166, R169): rounded, then to the nearest limit. -/
def floatToInt (n : Nat) (signed : Bool) (k : RMode) (v : FV) : Nat × Byte :=
  let fl := if k.quant then flQS else flSAT
  let (lo, hi) := intRange n signed
  match v with
  | .nan => (0, flNV)
  | .inf b => (wrapN n (if b then lo else hi), fl)
  | .fin b m e =>
    let (t, rest, d) := splitAt m e 0
    let t' := if roundsUp k.rnd k.r t rest d then t + 1 else t
    let (c, f) := intTo n signed true fl (if b then -(t' : Int) else t')
    (c, f ||| (if rest = 0 then 0 else flNX))

/-- A decoded integer operand as an integer. -/
def FV.toInt : FV → Int
  | .fin b m _ => if b then -(m : Int) else m
  | _ => 0

/-- CVT of one element from format src to dst (R166 to R168), before the flush of its source. -/
def convert (dst src : Nat) (k : RMode) (c : Nat) : Nat × Byte :=
  let (v, fz) := flushOperand src k.flush (decodeFmt src c)
  match intOf dst, intOf src with
  | some (n, sg), some _ => intTo n sg k.sat (if k.quant then flQS else flSAT) v.toInt
  | some (n, sg), none =>
    let (x, fl) := floatToInt n sg k v
    (x, fl ||| fz)
  | none, _ =>
    let (x, fl) := fusedTo dst k [[v]]
    (x, fl ||| fz)

/-! ## Integer operations (table Scalar, predicate and vector arithmetic) -/

/-- FN 0 to 14 of 0x01, 0x02, 0x08 and 0x09 on n bits. -/
def intOp (n fn : Nat) (sat : Bool) (a b : Nat) : Nat × Byte :=
  let x := sextI n a
  let y := sextI n b
  match fn with
  | 0 => intTo n true sat flSAT (x + y)
  | 1 => intTo n true sat flSAT (x - y)
  | 2 => intTo n true sat flSAT (x * y)
  | 3 => (wrapN n (x * y / 2 ^ n), 0)
  | 4 => (a * b / 2 ^ n, 0)
  | 5 => (a &&& b, 0)
  | 6 => (a ||| b, 0)
  | 7 => (a ^^^ b, 0)
  | 8 => (a * 2 ^ (b % n) % 2 ^ n, 0)
  | 9 => (a / 2 ^ (b % n), 0)
  | 10 => (wrapN n (x / 2 ^ (b % n)), 0)
  | 11 => (if y < x then b else a, 0)
  | 12 => (if x < y then b else a, 0)
  | 13 => (min a b, 0)
  | _ => (max a b, 0)

/-- The comparisons EQ, NE, LT, LE, LTU, LEU by FN on n bits. -/
def intCmp (n fn a b : Nat) : Bool :=
  match fn with
  | 0 => a == b
  | 1 => a != b
  | 2 => decide (sextI n a < sextI n b)
  | 3 => decide (sextI n a ≤ sextI n b)
  | 4 => decide (a < b)
  | _ => decide (a ≤ b)

/-- PAND, POR, PXOR, PANDN by FN. -/
def predOp (fn : Nat) (a b : Bool) : Bool :=
  match fn with
  | 0 => a && b
  | 1 => a || b
  | 2 => a ^^ b
  | _ => a && !b

/-- The immediate of an integer operation on n bits: sign-extended, but zero-extended for AND, OR and XOR. -/
def immFor (n fn : Nat) (imm : W32) : Nat :=
  if 5 ≤ fn ∧ fn ≤ 7 then imm.toNat else wrapN n (sextI 32 imm.toNat)

/-- FADD 0, FSUB 1, FMUL 2, FMA 3 of one element (R162): operands flushed when asked, then the fused sum; with a
not-a-value operand NV is the only flag. -/
def floatOp (fmt fn : Nat) (k : RMode) (ca cb cc : Nat) : Nat × Byte :=
  let a := flushOperand fmt k.flush (decodeFmt fmt ca)
  let b := flushOperand fmt k.flush (decodeFmt fmt cb)
  let c := if fn == 3 then flushOperand fmt k.flush (decodeFmt fmt cc) else (.fin false 0 0, 0)
  let terms : List (List FV) :=
    match fn with
    | 0 => [[a.1], [b.1]]
    | 1 => [[a.1], [b.1.neg]]
    | 2 => [[a.1, b.1]]
    | _ => [[a.1, b.1], [c.1]]
  let r := fusedTo fmt k terms
  if a.1.isNan || b.1.isNan || c.1.isNan then r else (r.1, r.2 ||| a.2 ||| b.2 ||| c.2)

/-- FABS 6 or FNEG 7: the sign bit cleared or inverted (R154). -/
def signOp (fmt fn c : Nat) : Nat :=
  let h := 2 ^ (fmtWidth fmt - 1)
  if fn == 6 then c % h else if c < h then c + h else c - h

/-! ## Minimum, maximum, comparison (R170, R171) -/

/-- Whether a < b as numbers; both ordered. −0 equals +0. -/
def FV.lt (a b : FV) : Bool :=
  match a, b with
  | .inf x, .inf y => x && !y
  | .inf x, _ => x
  | _, .inf y => !y
  | .fin x m e, .fin y n g =>
    let k := min e g
    let u : Int := (m * 2 ^ (e - k).toNat : Nat)
    let w : Int := (n * 2 ^ (g - k).toNat : Nat)
    decide ((if x then -u else u) < (if y then -w else w))
  | _, _ => false

/-- FMIN or FMAX of two codes (R170). -/
def fminmax (fmt : Nat) (isMax flush : Bool) (ca cb : Nat) : Nat × Byte :=
  let (a, fa) := flushOperand fmt flush (decodeFmt fmt ca)
  let (b, fb) := flushOperand fmt flush (decodeFmt fmt cb)
  let ca := if fa == 0 then ca else zeroOf fmt a.sign
  let cb := if fb == 0 then cb else zeroOf fmt b.sign
  let fz := fa ||| fb
  if a.isNan && b.isNan then (canonNan fmt, flNV ||| fz)
  else if a.isNan then (cb, fz)
  else if b.isNan then (ca, fz)
  else if a.isZero && b.isZero then
    (zeroOf fmt (if isMax then a.sign && b.sign else a.sign || b.sign), fz)
  else if a.lt b then (if isMax then cb else ca, fz)
  else (if isMax then ca else cb, fz)

/-- VCMP.FEQ 0, FLT 1, FLE 2, FUN 3 of two codes (R171). -/
def fcompare (op fmt ca cb : Nat) : Bool :=
  let a := decodeFmt fmt ca
  let b := decodeFmt fmt cb
  if a.isNan || b.isNan then op == 3
  else
    match op with
    | 0 => !a.lt b && !b.lt a
    | 1 => a.lt b
    | 2 => !b.lt a
    | _ => false

/-! ## Packed pairs (R152) -/

/-- An operation on each element of a register: two for H16 and W16, one for F32. The flags are ORed (R165). -/
def perElement (fmt : Nat) (f : Nat → Nat → Nat × Byte) (x : Nat) : Nat × Byte :=
  if fmt == 0xC then f 0 (x % 2 ^ 32)
  else
    let (a, fa) := f 0 (x % 2 ^ 16)
    let (b, fb) := f 1 (x / 2 ^ 16 % 2 ^ 16)
    (a + b * 2 ^ 16, fa ||| fb)

/-- Element i of a register. -/
def element (fmt i x : Nat) : Nat := if fmt == 0xC then x % 2 ^ 32 else x / 2 ^ (16 * i) % 2 ^ 16

/-! ## Transcendental results (R93, R172) -/

/-- floor of the square root, one bit at a time from bit n - 1. -/
def isqrt : Nat → Nat → Nat → Nat
  | 0, acc, _ => acc
  | n + 1, acc, x =>
    let t := acc + 2 ^ n
    isqrt n (if t * t ≤ x then t else acc) x

/-- pi × 2^400, rounded down. -/
def piFix : Nat := 0x3243f6a8885a308d313198a2e03707344a4093822299f31d0082efa98ec4e6c89452821e638d01377be5466cf34e90c6cc0ac
/-- ln 2 × 2^400, rounded down. -/
def ln2Fix : Nat := 0xb17217f7d1cf79abc9e3b39803f2f6af40f343267298b62d8a0d175b8baafa2be7b876206debac98559552fb4afa1b10ed2e

/-- Terms of a power series in fixed point with 400 fraction bits: term k is the one before × z / (k (k + 1)) when `two`, else × z / k. -/
def series (two alt : Bool) (z : Int) : Nat → Nat → Int → Int → Int
  | 0, _, _, acc => acc
  | n + 1, k, term, acc =>
    let t := term * z / 2 ^ 400 / (if two then ((k : Int) * (k + 1)) else k)
    let t := if alt then -t else t
    series two alt z n (if two then k + 2 else k + 1) t (acc + t)

/-- 2^x for a fraction x / 2^400 in [0, 1), in fixed point. -/
def exp2Fix (x : Nat) : Nat :=
  (series false false ((x * ln2Fix / 2 ^ 400 : Nat) : Int) 100 1 (2 ^ 400) (2 ^ 400)).toNat

/-- sin(pi × x / 2^400) for x / 2^400 in [0, 1/2], in fixed point. -/
def sinpiFix (x : Nat) : Nat :=
  let z : Nat := x * piFix / 2 ^ 400
  (series true true ((z * z / 2 ^ 400 : Nat) : Int) 60 2 (z : Int) (z : Int)).toNat

/-- Bits of log2 of y / 2^400 in [1, 2), by repeated squaring. -/
def log2Bits : Nat → Nat → Nat → Nat
  | 0, _, acc => acc
  | n + 1, y, acc =>
    let y := y * y / 2 ^ 400
    if 2 ^ 401 ≤ y then log2Bits n (y / 2) (2 * acc + 1) else log2Bits n y (2 * acc)

/-- A value known to lie just above v × 2^e, rounded to F32 by RNE: the last bit stands for the part cut off. -/
def roundSticky (neg : Bool) (v : Nat) (e : Int) : Nat × Byte := roundTo 0xC {} neg (2 * v + 1) (e - 1)

/-- The transcendental instructions by FN: 0 RCP, 1 RSQ, 2 SQRT, 3 EXP2, 4 LOG2, 5 SINPI, 6 COSPI, on an F32 code. -/
def xfRcp (v : FV) : Nat × Byte :=
  match v with
  | .nan => (canonNan 0xC, flNV)
  | .inf b => (zeroOf 0xC b, 0)
  | .fin b 0 _ => ((infOf 0xC {} b).1, flOF)
  | .fin b m e =>
    let q := 2 ^ 100 / m
    if q * m = 2 ^ 100 then roundTo 0xC {} b q (-100 - e) else roundSticky b q (-100 - e)

/-- A square root of m × 2^e, exact or with what it leaves out marked. -/
def sqrtRound (m : Nat) (e : Int) : Nat × Byte :=
  let s : Nat := if e % 2 = 0 then 100 else 101
  let x := m * 2 ^ s
  let q := isqrt 80 0 x
  let g := (e - s) / 2
  if q * q = x then roundTo 0xC {} false q g else roundSticky false q g

def xfSqrt (v : FV) : Nat × Byte :=
  match v with
  | .nan => (canonNan 0xC, flNV)
  | .inf true => (canonNan 0xC, flIV)
  | .inf false => (0x7F80_0000, 0)
  | .fin b 0 _ => (zeroOf 0xC b, 0)
  | .fin true _ _ => (canonNan 0xC, flIV)
  | .fin false m e => sqrtRound m e

def xfRsq (v : FV) : Nat × Byte :=
  match v with
  | .nan => (canonNan 0xC, flNV)
  | .inf true => (canonNan 0xC, flIV)
  | .inf false => (0, 0)
  | .fin b 0 _ => ((infOf 0xC {} b).1, flOF)
  | .fin true _ _ => (canonNan 0xC, flIV)
  | .fin false m e =>
    let s : Nat := if e % 2 = 0 then 160 else 159
    let q := isqrt 90 0 (2 ^ s / m)
    let g := -((s : Int) + e) / 2
    if q * q * m = 2 ^ s then roundTo 0xC {} false q g else roundSticky false q g

/-- floor and fraction (over 2^400) of a value. -/
def splitInt (b : Bool) (m : Nat) (e : Int) : Int × Nat :=
  let f : Nat := if 0 ≤ e + 400 then m * 2 ^ (e + 400).toNat else m / 2 ^ (-(e + 400)).toNat
  let x : Int := if b then -(f : Int) else f
  (x / 2 ^ 400, (x % 2 ^ 400).toNat)

def xfExp2 (v : FV) : Nat × Byte :=
  match v with
  | .nan => (canonNan 0xC, flNV)
  | .inf true => (0, 0)
  | .inf false => (0x7F80_0000, 0)
  | .fin b m e =>
    let (n, f) := splitInt b m e
    let n := if 400 < n then 400 else if n < -400 then -400 else n
    if f = 0 then roundTo 0xC {} false 1 n else roundSticky false (exp2Fix f / 2 ^ 100) (n - 300)

/-- floor(log2 |x|) and the fraction of log2 in 200 bits. -/
def xfLog2 (v : FV) : Nat × Byte :=
  match v with
  | .nan => (canonNan 0xC, flNV)
  | .inf true => (canonNan 0xC, flIV)
  | .inf false => (0x7F80_0000, 0)
  | .fin _ 0 _ => (0xFF80_0000, flOF)
  | .fin true _ _ => (canonNan 0xC, flIV)
  | .fin false m e =>
    let n := bitLen m - 1
    let k : Int := e + n
    if m = 2 ^ n then fusedTo 0xC {} [[.ofInt k]]
    else
      let l : Int := k * 2 ^ 150 + log2Bits 150 (m * 2 ^ 400 / 2 ^ n) 0
      if l < 0 then roundSticky true (l.natAbs - 1) (-150) else roundSticky false l.toNat (-150)

/-- sin(pi x) of a fraction x / 2^400 in [0, 2), with exact zeros and ones. -/
def sinpiOf (x : Nat) (zeroNeg : Bool) : Nat × Byte :=
  let half := 2 ^ 399
  let neg := decide (2 ^ 400 ≤ x)
  let y := x % 2 ^ 400
  let y := if half < y then 2 ^ 400 - y else y
  if y = 0 then (zeroOf 0xC zeroNeg, 0)
  else if y = half then roundTo 0xC {} neg 1 0
  else roundSticky neg (sinpiFix y) (-400)

def xfSinpi (v : FV) : Nat × Byte :=
  match v with
  | .nan => (canonNan 0xC, flNV)
  | .inf _ => (canonNan 0xC, flIV)
  | .fin b m e =>
    let (n, f) := splitInt b m e
    sinpiOf ((n % 2).toNat * 2 ^ 400 + f) b

def xfCospi (v : FV) : Nat × Byte :=
  match v with
  | .nan => (canonNan 0xC, flNV)
  | .inf _ => (canonNan 0xC, flIV)
  | .fin _ m e =>
    let (n, f) := splitInt false m e
    sinpiOf (((n % 2).toNat * 2 ^ 400 + f + 2 ^ 399) % 2 ^ 401) false

/-- A transcendental result by FN, on an F32 code. -/
def transcendental (fn c : Nat) : Nat × Byte :=
  let v := decodeFmt 0xC c
  match fn with
  | 0 => xfRcp v
  | 1 => xfRsq v
  | 2 => xfSqrt v
  | 3 => xfExp2 v
  | 4 => xfLog2 v
  | 5 => xfSinpi v
  | _ => xfCospi v

end Sys2Proof.Machine
end

