-- ==== Sys2Proof/Machine/MemOps.lean ====
section
/-! DEFINITION. Loads, stores and atomics of the SE and the VE: their addresses, their targets, the store buffers, the
cache, and what is done at once and what is left outstanding (R83 to R85, R135, R136, R278 to R302, R309 to R318, R375). -/

namespace Sys2Proof.Machine

/-! ## Addresses and targets (R135, R136, R141, R375) -/

/-- The device's self-counter page (R520). -/
def selfPage : Nat := 0x3000_0501_0000

def inSelfPage (t : Tgt) : Bool :=
  match t with
  | .dev a => decide (selfPage ≤ a) && decide (a < selfPage + 0x1_0000)
  | _ => false

/-- What an access of one lane turns into. -/
inductive Acc where
  | ok (t : Tgt) (cache : Bool)
  /-- A load in the parameter window: the offset in the captured bank (R375). -/
  | window (off : Nat)
  /-- An exception code of the table Exceptions raised to a job, and its DETAIL. -/
  | fault (code : Nat) (detail : W64)
  | wait
deriving DecidableEq, Repr

/-- The number of a stream: of a group the seed of its registers, of the SE that of its entry. -/
def State.gidOf (s : State) (t : Strm) : Nat :=
  match t with
  | .se c => (s.core c).se.gid
  | .ve g => match s.group g.core g.slot.toNat with | some x => x.seed | none => 0

/-- The slot of a stream as records number it; 0 for the SE. -/
def strmNum (t : Strm) : Nat := match strmSlot t with | some g => g.toNat | none => 0

/-- The access of a lane: SPACE 1 with its drawer offset, SPACE 0 with its virtual address. `base` is the register's value. A
SPACE 1 offset is summed without wrapping (DESIGN CHOICE: R135 does not give the width of the sum), and a misaligned access of the
control and status space is MISALIGNED (DESIGN CHOICE between R12 and R136). -/
def State.resolve (s : State) (t : Strm) (base : W64) (off : BitVec 16) (space : Bool) (size : Nat) (k : AccKind) :
    Acc × State :=
  let c := strmCore t
  if space then
    let a := ((base.toNat % 2 ^ 32 : Nat) : Int) + off.toInt
    if a % (size : Int) ≠ 0 then (.fault 4 (paDetail (wrapN 48 ((drawerBase c : Int) + a))), s)
    else if a < 0 ∨ 0x2_0000 ≤ a then (.fault 5 0, s)
    else (.ok (.dev (drawerBase c + a.toNat)) false, s)
  else
    let va := (base + off.signExtend 64).toNat
    if va % size ≠ 0 then (.fault 4 (vaDetail va k), s)
    else if 2 ^ 57 ≤ va then (.fault 2 (vaDetail va k), s)
    else
      match windowOff (s.entryOn t) va with
      | some o => (if k = .load then .window o else .fault 3 (vaDetail va k), s)
      | none =>
        match s.translate (some c) (s.ownerNiche c) va k with
        | (.ok t cache, s) => (if inSelfPage t && k != .load then .fault 3 (vaDetail va k) else .ok t cache, s)
        | (.fault code, s) => (.fault code (vaDetail va k), s)
        | (.wait, s) => (.wait, s)

/-- The accesses of several lanes, in lane order, with each lane's virtual address; 2^58 stands for an address that is
no virtual one (SPACE 1). -/
def State.resolveAll (s : State) (t : Strm) (bases : List (Nat × W64)) (off : BitVec 16) (space : Bool) (size : Nat)
    (k : AccKind) : List (Nat × Nat × Acc) × State :=
  bases.foldl (fun (r : List (Nat × Nat × Acc) × State) b =>
    let (a, s) := r.2.resolve t b.2 off space size k
    (r.1 ++ [(b.1, if space then 2 ^ 58 else (b.2 + off.signExtend 64).toNat, a)], s)) ([], s)

/-- The first lane that faults. -/
def firstFault (as : List (Nat × Nat × Acc)) : Option (Nat × Nat × W64) :=
  as.findSome? (fun a => match a.2.2 with | .fault code d => some (a.1, code, d) | _ => none)

/-- A precise exception of a stream's instruction, naming a lane. -/
def State.strmFault (s : State) (t : Strm) (lane pc code : Nat) (detail : W64) : Option State :=
  match t with
  | .se c => s.seFault c code detail
  | .ve g =>
    match s.group g.core g.slot.toNat with
    | some x => s.veFault g x lane pc code detail
    | none => none

/-! ## What holds an access back (R293, R301, R302) -/

/-- A target in the control and status space or in host memory (R302). -/
def State.isStrong (s : State) (t : Tgt) : Bool :=
  match t with
  | .dev a => decide (s.classOf a = .csr)
  | .host _ => true
  | .remote _ _ => false

/-- Whether an LD.ACQ, or an access of R302, of the stream is outstanding. -/
def State.heldBack (s : State) (c : CoreNum) (slot : Option (BitVec 5)) : Bool :=
  let k := s.core c
  k.loads.any (fun e => e.slot == slot && (e.acq || e.lanes.any (fun l => s.isStrong l.tgt))) ||
    (k.buffer slot ++ k.storesOut).any (fun e => e.slot == slot && e.lanes.any (fun l => s.isStrong l.tgt))

/-- Where an address lies within another access that covers it. -/
def tgtWithin (a : Tgt) (an : Nat) (b : Tgt) (bn : Nat) : Option Nat :=
  match a, b with
  | .dev x, .dev y => if within x an y bn then some (x - y) else none
  | .host x, .host y => if within x an y bn then some (x - y) else none
  | .remote d x, .remote e y => if d = e && within x an y bn then some (x - y) else none
  | _, _ => none

/-- What the store buffer does for a load of n bytes (R301). -/
inductive Forward where
  | none
  | bytes (bs : List Byte)
  | wait
deriving DecidableEq, Repr

/-- A target some bytes further on. -/
def Tgt.plus : Tgt → Nat → Tgt
  | .dev a, i => .dev (a + i)
  | .remote d a, i => .remote d (a + i)
  | .host a, i => .host (a + i)

/-- A byte that some lanes store: the highest-numbered lane's (R283). -/
def lanesByte (ls : List LaneAcc) (t : Tgt) : Option Byte :=
  ls.reverse.findSome? (fun l => (tgtWithin t 1 l.tgt l.bytes.length).bind (fun o => l.bytes[o]?))

/-- n bytes that some lanes store, if they store every one. -/
def lanesBytes (ls : List LaneAcc) (t : Tgt) (n : Nat) : Option (List Byte) := (List.range n).mapM (fun i => lanesByte ls (t.plus i))

/-- Whether some lanes store any of n bytes. -/
def lanesTouch (ls : List LaneAcc) (t : Tgt) (n : Nat) : Bool := ls.any (fun l => tgtOverlap t n l.tgt l.bytes.length)

/-- The lanes of an entry that belong to a thread of its group: its own, or all where the entry is every active thread's (R300). -/
def StoreEntry.ownLanes (e : StoreEntry) (slot : Option (BitVec 5)) (lane : Nat) : List LaneAcc :=
  if e.slot = slot then e.lanes.filter (fun l => e.all || l.lane == lane) else []

/-- Whether an entry updates a statistics record that n bytes touch. -/
def StoreEntry.touchesStat (e : StoreEntry) (c : CoreNum) (t : Tgt) (n : Nat) : Bool :=
  match e.stat with
  | some (off, _) => tgtOverlap t n (.dev (drawerBase c + off)) 32
  | none => false

/-- One store-buffer entry seen by a load: bytes that the load's own thread stores are returned, or waited for where they are only
a part. -/
def forwardOwn (c : CoreNum) (e : StoreEntry) (slot : Option (BitVec 5)) (lane : Nat) (t : Tgt) (n : Nat) (free : Bool) : Forward :=
  let own := e.ownLanes slot lane
  if e.slot = slot && e.touchesStat c t n then .wait
  else if !lanesTouch own t n then .none
  else
    match lanesBytes own t n with
    | some bs => .bytes (if free then (lanesBytes e.lanes t n).getD bs else bs)
    | none => .wait

/-- An entry of other threads seen by a load: what a load has already returned stays seen, and else it is free whether the load
sees it. -/
def forwardOther (e : StoreEntry) (t : Tgt) (n : Nat) (free : Bool) : Forward :=
  if !(e.seen || free) then .none
  else
    match lanesBytes e.lanes t n with
    | some bs => .bytes bs
    | none => if e.seen && lanesTouch e.lanes t n then .wait else .none

/-- A load of a lane against the store buffer and the stores of its stream on their way (R278, R301): its own thread's newest entry
answers, else the newest of another thread that it sees; and the entry it saw. -/
def State.forward (s : State) (c : CoreNum) (slot : Option (BitVec 5)) (lane : Nat) (t : Tgt) (n : Nat) : Forward × Option Nat :=
  let k := s.core c
  let es := (k.buffer slot).reverse
  let free := Config.freeBit s.fresh
  let out := k.storesOut.any (fun e => lanesTouch (e.ownLanes slot lane) t n)
  let far := match t with
    | .remote d x => s.tr.ops.any (fun o => isStoreOp c slot true o.purpose && o.device == d && overlaps x n (o.addr % 2 ^ 48 / 64 * 64) 64)
    | _ => false
  match es.findSome? (fun e => match forwardOwn c e slot lane t n free with | .none => none | f => some f) with
  | some f => (f, none)
  | none =>
    if out || far then (.wait, none)
    else (es.findSome? (fun e => match forwardOther e t n free with | .none => none | f => some (f, some e.num))).getD (.none, none)

/-- An entry of a store buffer that a load of another thread saw. -/
def State.markSeen (s : State) (c : CoreNum) (slot : Option (BitVec 5)) (num : Option Nat) : State :=
  match num with
  | none => s
  | some i =>
    let mark (es : List StoreEntry) : List StoreEntry := es.map (fun e => if e.num = i then { e with seen := true } else e)
    s.updCore c (fun k =>
      if slot.isSome then { k with ve := { k.ve with buffer := mark k.ve.buffer } } else { k with se := { k.se with buffer := mark k.se.buffer } })

/-- Whether a stream's own buffered or unacknowledged stores touch an access that goes to its home (R278). -/
def State.ownStores (s : State) (c : CoreNum) (slot : Option (BitVec 5)) (t : Tgt) (n : Nat) : Bool :=
  let k := s.core c
  (k.buffer slot ++ k.storesOut).any (fun e => e.slot == slot && (lanesTouch e.lanes t n || e.touchesStat c t n))

/-! ## The cache (R83 to R85, R88, R486) -/

/-- The address of a target. -/
def Tgt.addr : Tgt → Nat
  | .dev a => a
  | .remote _ a => a
  | .host a => a

/-- The cache line of a target. -/
def State.lineOf (s : State) (t : Tgt) : Nat := lineAddr t s.myDevice

/-- What a lane of a load finds at once. -/
inductive Got where
  /-- Bytes, or a poisoned word. -/
  | bytes (bs : List Byte)
  | poison (detail : W64)
  /-- Not here yet: a miss, or an uncached access. -/
  | miss
  | wait
deriving DecidableEq, Repr

/-- The bytes of a cached line for an access, or its poison. -/
def CacheLine.read (l : CacheLine) (off n va : Nat) : Got :=
  if (wordsOf off n).any (fun w => l.poison.contains (w / 8)) then .poison (vaDetail va .load)
  else .bytes ((l.data.drop off).take n)

/-- The bytes of a line that the cache holds, for an access: the copies of its state bits are read by majority, and a parity
mismatch drops a clean line, which is then a miss (R87, R88). -/
def State.lineRead (s : State) (c : CoreNum) (line off n va : Nat) : Got × State :=
  let s := s.readSet c line
  match (s.core c).dc.hit line with
  | some l =>
    if s.lineBad c l off n then
      let s := s.lineParity c l
      (if l.dirty then l.read off n va else .miss, s)
    else (l.read off n va, s)
  | none => (.miss, s)

/-- A load of a lane as far as its core can answer it: the parameter window, the store buffer, the own drawer, the cache. -/
def State.loadLane (s : State) (t : Strm) (lane va : Nat) (a : Acc) (n : Nat) : Got × State :=
  let c := strmCore t
  let slot := strmSlot t
  match a with
  | .window o =>
    let pa := (match s.entryOn t with | some e => e.bankPa.toNat | none => 0) % 2 ^ 48 + o
    let ((bs, p), s) := s.homeRead pa n
    (if p.isSome then .poison (vaDetail va .load) else .bytes bs, s)
  | .ok tgt cache =>
    match s.forward c slot lane tgt n with
    | (.bytes bs, saw) =>
      let s := s.markSeen c slot saw
      (.bytes bs, { s with fresh := s.fresh + 1 })
    | (.wait, _) => (.wait, s)
    | (.none, _) =>
      let s : State := { s with fresh := s.fresh + 1 }
      let own : Bool := match tgt with | .dev pa => decide (s.classOf pa = .drawer) && drawerCore pa == c | _ => false
      let dead : Bool := match tgt with | .remote d _ => s.isDead d.toNat | _ => false
      if own then
        let ((bs, p), s) := s.homeRead tgt.addr n
        (match p with | some w => .poison (if va = 2 ^ 58 then paDetail w else vaDetail va .load) | none => .bytes bs, s)
      else if cache then
        if (s.core c).dc.shut then (.wait, s)
        else
          match s.lineRead c (s.lineOf tgt) (tgt.addr % 64) n va with
          | (.miss, s) => (if dead then .poison (vaDetail va .load) else .miss, s)
          | (g, s) => (g, s.selfAdd c 8 1)
      else (if dead then .poison (vaDetail va .load) else .miss, s)
  | _ => (.wait, s)

/-- A miss begins: the line is fetched from its home, from another device by a READ (R84). It waits where another miss is
outstanding, its engine's transfers are at their limit (R70), or the cache is shut. -/
def State.startMiss (s : State) (c : CoreNum) (t : Tgt) (isVe : Bool) : State :=
  if (s.core c).dc.miss.isSome || (s.core c).dc.shut || decide (6 ≤ s.transfers c isVe) then s
  else
    let line := s.lineOf t
    let (place, s) := s.takeOrder
    let s := (s.updCore c (fun k => { k with dc := { k.dc with miss := some (line, isVe), missPort := place, missNode := 0 } })).selfAdd c 9 1
    match t with
    | .remote d pa => s.request 0 (accessPacket d (pa / 64 * 64) (s.ownerNiche c) (s.ownerCtx c) 0 64 []) (.fill c line)
    | _ => s

/-- The bits of a mismatch on the core's data paths, met by a read from the drawer or the cache (text after R74): none, replayed, or
uncorrectable. The first is counted and recorded. -/
def State.pathRead (s : State) (c : CoreNum) : Bool × State :=
  match (s.core c).pathBad.toNat with
  | 0 => (false, s)
  | 1 =>
    let s := s.updCore c (fun k => { k with pathBad := 0, regReplay := satAdd k.regReplay 1 })
    (false, s.logError { cause := 0x02, loc := dieLoc (regionOf c), core := some c })
  | _ => (true, s.updCore c (fun k => { k with pathBad := 0 }))

/-! ## Loads -/

/-- A loaded value extended to a register (SX). -/
def extend (n : Nat) (sx : Bool) (bs : List Byte) : W64 :=
  let v := leNat bs
  if sx then BitVec.ofInt 64 (sextI (8 * n) v) else BitVec.ofNat 64 v

/-- The registers of a finished load written (DST of a 64-bit VE access is a pair), but for those that a younger instruction wrote
(R564). -/
def State.loadResult (s : State) (c : CoreNum) (slot : Option (BitVec 5)) (dst : Option Byte) (n : Nat) (sx : Bool)
    (lanes : List (Nat × List Byte)) (skip : List (Nat × Nat) := []) : State :=
  match dst, slot with
  | some d, none =>
    match lanes with
    | l :: _ => if skip.contains (0, d.toNat) then s else s.updCore c (fun k => { k with se := k.se.setReg d.toNat (extend n sx l.2) })
    | [] => s
  | some d, some g =>
    match s.group c g.toNat with
    | some x =>
      let put (y : Group) (l r : Nat) (v : W32) : Group := if skip.contains (l, r) then y else y.setReg l r v
      s.setGroup c g.toNat (lanes.foldl (fun y l =>
        let v := extend n sx l.2
        let y := put y l.1 d.toNat (v.setWidth 32)
        if n = 8 then put y l.1 (d.toNat + 1) ((v >>> 32).setWidth 32) else y) x)
    | none => s
  | none, _ => s

/-- The stream past an instruction of some lanes. -/
def State.strmNext (s : State) (t : Strm) (lanes : List Nat) : State :=
  match t with
  | .se c => s.seNext c
  | .ve g =>
    match s.group g.core g.slot.toNat with
    | some x => s.veNext g x lanes
    | none => s

/-- A change to a lane of an entry of the loads outstanding. -/
def State.updLane (s : State) (c : CoreNum) (id lane : Nat) (f : LaneAcc → LaneAcc) : State :=
  s.updCore c (fun k => { k with loads := k.loads.map (fun e =>
    if e.id = id then { e with lanes := e.lanes.map (fun x => if x.lane = lane then f x else x) } else e) })

/-- A lane of an outstanding load goes on its way, once its engine's transfers let it (R70): a miss of its line, a READ toward another
device, or into the mesh. -/
def State.goLane (s : State) (c : CoreNum) (e : LoadEntry) (x : LaneAcc) : State :=
  let isVe := e.slot.isSome
  let dead : Bool := match x.tgt with | .remote d _ => s.isDead d.toNat | _ => false
  if !x.bytes.isEmpty || x.bad.isSome || e.atom.isSome then s
  else if x.cache then
    if ((s.core c).dc.hit (s.lineOf x.tgt)).isSome then s
    else if dead then s.updLane c e.id x.lane (fun x => { x with bad := some (6, vaDetail x.va .load) })
    else s.startMiss c x.tgt isVe
  else if x.port != 0 || decide (6 ≤ s.transfers c isVe) then s
  else if dead then s.updLane c e.id x.lane (fun x => { x with bad := some (6, vaDetail x.va .load) })
  else
    let (place, s) := s.takeOrder
    let s := s.updLane c e.id x.lane (fun x => { x with port := place })
    match x.tgt with
    | .remote d pa => s.request 0 (accessPacket d pa (s.ownerNiche c) (s.ownerCtx c) 0 e.size []) (.load c e.id x.lane)
    | _ => s

/-- The ATOMIC packet of one word toward another device (R317). -/
def State.sendAtom (s : State) (c : CoreNum) (id n fn : Nat) (w : AtomWord) : State :=
  let num (v : W64) : Nat := v.toNat % 2 ^ (8 * n)
  match w.tgt with
  | .remote d pa =>
    let data := w.lanes.flatMap (fun o => leBytes n (num o.operand) ++ (if fn = 9 then leBytes n (num o.expected) else []))
    let p := { accessPacket d pa (s.ownerNiche c) (s.ownerCtx c) 0 data.length data with
               op := BitVec.ofNat 4 fn, size := BitVec.ofNat 2 (Nat.log2 n), lanes := BitVec.ofNat 6 (w.lanes.length - 1) }
    s.request 2 p (.atomic c id fn (w.lanes.map (fun o => (o.lane, o.operand))))
  | _ => s

/-- The words of an ATOM that are still to be sent leave, as far as the engine's transfers let them. -/
def State.goAtom (c : CoreNum) (id n fn : Nat) (isVe : Bool) : List AtomWord → State → State
  | [], s => s
  | w :: ws, s =>
    if 6 ≤ s.transfers c isVe then s
    else
      let s := (s.sendAtom c id n fn w).updCore c (fun k => { k with loads := k.loads.map (fun e =>
        if e.id = id then { e with atom := some (fn, ws) } else e) })
      State.goAtom c id n fn isVe ws s

/-- Every outstanding load of a core goes on as far as it can, the oldest first. -/
def State.goLoads (s : State) (c : CoreNum) : State :=
  (s.core c).loads.foldl (fun s e =>
    let s := e.lanes.foldl (fun s x => s.goLane c e x) s
    match e.atom with
    | some (fn, ws) => State.goAtom c e.id e.size fn e.slot.isSome ws s
    | none => s) s

/-- The number of a new entry of the loads outstanding. -/
def Core.newLoad (k : Core) : Nat := k.loads.foldl (fun m e => max m (e.id + 1)) 0

/-- The access of a lane goes to a strongly ordered target (R302). -/
def State.accStrong (s : State) (a : Nat × Nat × Acc) : Bool :=
  match a.2.2 with
  | .ok t _ => s.isStrong t
  | _ => false

/-- What the lanes of a load find, in lane order. -/
def State.loadLanes (s : State) (t : Strm) (as : List (Nat × Nat × Acc)) (n : Nat) : List (Nat × Nat × Acc × Got) × State :=
  as.foldl (fun (r : List (Nat × Nat × Acc × Got) × State) a =>
    let (g, s) := r.2.loadLane t a.1 a.2.1 a.2.2 n
    (r.1 ++ [(a.1, a.2.1, a.2.2, g)], s)) ([], s)

/-- The exception of a lane: of its address, or POISON. -/
def gotFault (a : Nat × Nat × Acc × Got) : Option (Nat × W64) :=
  match a.2.2.1, a.2.2.2 with
  | .fault code d, _ => some (code, d)
  | _, .poison d => some (6, d)
  | _, _ => none

/-- A lane that must wait before the load can issue. -/
def gotWaits (a : Nat × Nat × Acc × Got) : Bool := (gotFault a).isNone && (a.2.2.1 == .wait || a.2.2.2 == .wait)

/-- The lane of a load as it is kept: its bytes or its exception, or neither yet. -/
def gotLane (a : Nat × Nat × Acc × Got) : LaneAcc :=
  let (tg, ca) := match a.2.2.1 with | .ok t c => (t, c) | _ => (Tgt.dev 0, false)
  { lane := a.1, va := a.2.1, tgt := tg, cache := ca, bytes := match a.2.2.2 with | .bytes b => b | _ => [], bad := gotFault a }

/-- What has become of some lanes of a load: the exception of the lowest lane that has one, once every lane below it has its bytes
(R141); all the bytes; or neither yet. -/
inductive Ended where
  | bytes
  | fault (lane code : Nat) (detail : W64)
  | no
deriving DecidableEq, Repr

/-- A load ends with an exception. -/
def Ended.isFault : Ended → Bool
  | .fault _ _ _ => true
  | _ => false

/-- Whether a load can end. -/
def ended : List LaneAcc → Ended
  | [] => .bytes
  | x :: xs =>
    match x.bad with
    | some (code, d) => .fault x.lane code d
    | none => if x.bytes.isEmpty then .no else ended xs

/-- The lane of a store. -/
def storeLane (n : Nat) (data : Nat → W64) (a : Nat × Nat × Acc) : Option LaneAcc :=
  match a.2.2 with
  | .ok tg ca => some { lane := a.1, va := a.2.1, tgt := tg, cache := ca, bytes := leBytes n (data a.1).toNat }
  | _ => none

/-- An outstanding load of a stream: its entry joins the others, and goes on as far as it can. -/
def State.loadPut (s : State) (t : Strm) (e : LoadEntry) : State :=
  let c := strmCore t
  let (num, s) := s.takeOrder
  (s.updCore c (fun k => { k with loads := k.loads ++ [{ e with id := k.newLoad, num := num, slot := strmSlot t }] })).goLoads c

/-- The uncorrectable mismatch of a data path: HW_ERROR, precise, once the older accesses of the stream are performed (text after
R74). -/
def State.pathFault (s : State) (t : Strm) (lane pc : Nat) : Option State :=
  let c := strmCore t
  if s.olderPending c (strmSlot t) then none
  else
    let err : ErrInfo := { cause := 0x22 }
    match t with
    | .se c => some (s.hwError c (launchOf (s.core c).se.entry) err { code := 0x0D, engine := 0, pc := pc })
    | .ve g =>
      let x := (s.group c g.slot.toNat).getD {}
      let b := Sparse.getD (s.core c).ve.blocks x.blockSlot {}
      some (s.hwError c (launchOf (s.core c).ve.entry) err
        { code := 0x0D, engine := 1, group := x.index, block := b.block, lane := lane, pc := pc })

/-- A load whose lanes have found what they find at issue: its exception, its registers at once, or an outstanding load. -/
def State.loadEnds (s : State) (t : Strm) (pc : Nat) (dst : Byte) (n : Nat) (sx acq : Bool) (lanes : List LaneAcc) : Option State :=
  let ls := lanes.map (·.lane)
  match ended lanes with
  | .fault lane code d => s.strmFault t lane pc code d
  | .bytes =>
    match s.pathRead (strmCore t) with
    | (true, s) => s.pathFault t (ls.headD 0) pc
    | (false, s) => some ((s.loadResult (strmCore t) (strmSlot t) (some dst) n sx (lanes.map (fun l => (l.lane, l.bytes)))).strmNext t ls)
  | .no =>
    some ((s.loadPut t { id := 0, slot := none, acq := acq, dst := some dst, size := n, sx := sx, pc := BitVec.ofNat 64 pc,
                         lanes := lanes }).strmNext t ls)

/-- A load of some lanes: what the core has at once is written at once; otherwise the load is outstanding until
DCACHE_FILL, RESP or LOAD_RESPONSE bring the rest (R281). -/
def State.loadIssue (s : State) (t : Strm) (pc : Nat) (bases : List (Nat × W64)) (dst : Byte) (size : Nat) (sx space : Bool)
    (off : BitVec 16) : Option State :=
  let c := strmCore t
  let slot := strmSlot t
  let n := 2 ^ size
  if s.heldBack c slot then none
  else
    let (as, s) := s.resolveAll t bases off space n .load
    let (gs, s) := s.loadLanes t as n
    let lanes := gs.map gotLane
    if !(ended lanes).isFault && (gs.any gotWaits || (as.any s.accStrong && s.storesPending c slot)) then none
    else s.loadEnds t pc dst n sx false lanes

/-! ## Stores -/

/-- Room in the store buffer: 8 entries on the SE, 16 on the VE (R300). -/
def State.bufferRoom (s : State) (c : CoreNum) (slot : Option (BitVec 5)) : Bool :=
  decide (((s.core c).buffer slot).length < if slot.isSome then 16 else 8)

/-- An entry of a stream put into its store buffer. -/
def State.bufferPut (s : State) (t : Strm) (pc : Nat) (e : StoreEntry) : State :=
  let gid := s.gidOf t
  let (num, s) := s.takeOrder
  let e := { e with slot := strmSlot t, pc := BitVec.ofNat 64 pc, gid := gid, num := num }
  s.updCore (strmCore t) (fun k =>
    if e.slot.isSome then { k with ve := { k.ve with buffer := k.ve.buffer ++ [e] } }
    else { k with se := { k.se with buffer := k.se.buffer ++ [e] } })

/-- A store of some lanes enters the store buffer, an ST.REL with its scope (R300); one that R302 governs waits for the stream's
earlier stores. -/
def State.storeIssue (s : State) (t : Strm) (pc : Nat) (bases : List (Nat × W64)) (data : Nat → W64) (size : Nat)
    (rel : Option (BitVec 3)) (space : Bool) (off : BitVec 16) : Option State :=
  let c := strmCore t
  let slot := strmSlot t
  let n := 2 ^ size
  if s.heldBack c slot then none
  else
    let (as, s) := s.resolveAll t bases off space n .store
    match firstFault as with
    | some (lane, code, d) => s.strmFault t lane pc code d
    | none =>
      let lanes := as.filterMap (storeLane n data)
      if lanes.length != as.length || (as.any s.accStrong && s.storesPending c slot) || !s.bufferRoom c slot then none
      else some ((s.bufferPut t pc { slot := slot, lanes := lanes, rel := rel }).strmNext t (as.map (·.1)))

/-! ## Releases and acquires (R291 to R296, R306) -/

/-- Whether the stores of a stream that are older than a place in the order of issue have reached the state that a scope requires
(table Scopes). -/
def State.releasedTo (s : State) (c : CoreNum) (slot : Option (BitVec 5)) (scope num : Nat) : Bool :=
  let k := s.core c
  let mine (e : StoreEntry) : Bool := e.slot == slot && decide (e.num < num)
  let out := k.storesOut.filter mine
  !(k.buffer slot).any mine && (scope != 2 || out.all (fun e => e.lanes.all (fun x => x.node != 0))) &&
    (decide (scope ≤ 2) || out.isEmpty) &&
    (decide (scope ≤ 3) || (!s.tr.ops.any (fun o => isStoreOp c slot false o.purpose) && !s.backsPending c))

/-- Whether every earlier store of a stream has reached that state. -/
def State.released (s : State) (c : CoreNum) (slot : Option (BitVec 5)) (scope : Nat) : Bool := s.releasedTo c slot scope s.order

/-- The lost-store flag of a stream: of the SE, or of any active thread of a group (R305). -/
def State.lostOf (s : State) (t : Strm) (lanes : List Nat) : Option W64 :=
  match t with
  | .se c => (s.core c).se.lost
  | .ve g =>
    match s.group g.core g.slot.toNat with
    | some x => firstLost none x lanes
    | none => none

/-- Whether a stream of core b, on its engine, lies in a scope of a stream of core a (table Scopes): 0 the SE, 1 the VE, 3 the DE. -/
def inScope (scope : Nat) (a : CoreNum) (aEng : Nat) (b : CoreNum) (bEng : Nat) : Bool :=
  match scope with
  | 0 => a == b && aEng == bEng
  | 1 => a == b
  | 2 => regionOf a == regionOf b
  | _ => true

/-- The bytes that a release wrote among those of an access, where it wrote any and they are still the value read. -/
def RelMark.readBy (r : RelMark) (t : Tgt) (bs : List Byte) : Bool :=
  (List.range bs.length).any (fun i => (tgtWithin (t.plus i) 1 r.tgt r.bytes.length).isSome) &&
    (List.range bs.length).all (fun i => match tgtWithin (t.plus i) 1 r.tgt r.bytes.length with | some o => r.bytes[o]? == bs[i]? | none => true)

/-- In checked mode, an acquire that reads a release outside the containment of R294 writes SCOPE_MISMATCH (R295). -/
def State.scopeCheck (s : State) (t : Strm) (scope : Nat) (a : Tgt) (bs : List Byte) (va : Nat) : State :=
  let c := strmCore t
  let e := (strmVe t).toNat
  let o := s.ownerNiche c
  match s.rels.find? (fun r => r.readBy a bs) with
  | some r =>
    if bit (s.niche o).control 2 && !(inScope r.scope.toNat r.core r.engine c e && inScope scope c e r.core r.engine) then
      s.frieze (regionOf c) 0x21
        [{ w0 := frzHead 0x21 c.toNat e (strmNum t) (s.stamp (regionOf c))
           w1 := pack [(0, 13, r.core.toNat), (13, 3, r.scope.toNat), (16, 3, scope)] },
         { w0 := pack [(0, 8, 0x7F), (16, 6, o.toNat)], w1 := BitVec.ofNat 64 (va % 2 ^ 57) }]
    else s
  | none => s

/-- The bytes that a release wrote are noted, for the check of R295. -/
def State.noteRelease (s : State) (c : CoreNum) (engine : Nat) (scope : BitVec 3) (t : Tgt) (bs : List Byte) : State :=
  let s := s.unmark t bs.length
  { s with rels := { tgt := t, bytes := bs, core := c, engine := engine, scope := scope } :: s.rels }

/-- A cacheable address is written back and dropped before an access at its home (R297). -/
def State.bypassFor (s : State) (c : CoreNum) (isVe : Bool) (t : Tgt) : State :=
  let line := s.lineOf t
  if ((s.core c).dc.hit line).isSome then s.bypass c isVe line else s

/-- Whether the data cache holds no line of a target any more. -/
def State.uncachedNow (s : State) (c : CoreNum) (t : Tgt) : Bool := ((s.core c).dc.hit (s.lineOf t)).isNone

/-- Lines that the host must give up before accesses of a stream at their homes (R461). -/
def State.heldLines (s : State) (ts : List Tgt) (n : Nat) (write : Bool) : List Nat :=
  ts.flatMap (fun t => match t with | .dev a => s.linesHeld a n write | _ => [])

/-- An access at its home by a lane of LD.ACQ: bytes, poison, or left to LOAD_RESPONSE or RESP. A home that the access does not reach
yet leaves it to them too. -/
def State.acqLane (s : State) (t : Strm) (scope lane va : Nat) (a : Acc) (n : Nat) : Got × State :=
  let c := strmCore t
  match a with
  | .ok tg cache =>
    if (cache && (s.core c).dc.shut) || s.ownStores c (strmSlot t) tg n then (.wait, s)
    else
      let s := if cache then s.bypassFor c (strmVe t) tg else s
      if cache && !s.uncachedNow c tg then (.wait, s)
      else if !s.reaches c tg then (.miss, s)
      else
        match tg with
        | .dev pa =>
          if s.classOf pa = .csr then (.miss, s)
          else
            let ((bs, p), s) := s.homeRead pa n
            (match p with
             | some w => (.poison (if va = 2 ^ 58 then paDetail w else vaDetail va .load), s)
             | none => (.bytes bs, s.scopeCheck t scope tg bs va))
        | .host pa =>
          let (bs, s) := s.hostRead pa n
          (.bytes bs, s.scopeCheck t scope tg bs va)
        | .remote d _ => (if s.isDead d.toNat then .poison (vaDetail va .load) else .miss, s)
  | .window _ => s.loadLane t lane va a n
  | _ => (.wait, s)

/-- What the lanes of an LD.ACQ find at their homes, in lane order. -/
def State.acqLanes (s : State) (t : Strm) (scope : Nat) (as : List (Nat × Nat × Acc)) (n : Nat) : List (Nat × Nat × Acc × Got) × State :=
  as.foldl (fun (r : List (Nat × Nat × Acc × Got) × State) a =>
    let (g, s) := r.2.acqLane t scope a.1 a.2.1 a.2.2 n
    (r.1 ++ [(a.1, a.2.1, a.2.2, g)], s)) ([], s)

/-- The target of an access. -/
def accTgt (a : Nat × Nat × Acc) : Option Tgt :=
  match a.2.2 with
  | .ok t _ => some t
  | _ => none

/-- LD.ACQ of some lanes (R293, R297): performed at the home at once where the home is this device or the host. -/
def State.acquireIssue (s : State) (t : Strm) (pc : Nat) (bases : List (Nat × W64)) (dst : Byte) (size scope : Nat)
    (sx space : Bool) (off : BitVec 16) : Option State :=
  let c := strmCore t
  let slot := strmSlot t
  let n := 2 ^ size
  if s.heldBack c slot then none
  else
    let (as, s) := s.resolveAll t bases off space n .load
    if !(s.heldLines (as.filterMap accTgt) n false).isEmpty then none
    else
      let (gs, s) := s.acqLanes t scope as n
      let lanes := gs.map (fun a => { gotLane a with cache := false, scope := BitVec.ofNat 3 scope })
      if !(ended lanes).isFault && (gs.any gotWaits || (as.any s.accStrong && s.storesPending c slot)) then none
      else s.loadEnds t pc dst n sx true lanes

/-- The address of a target as records and packets name it. -/
def State.tgtGlobal (s : State) (t : Tgt) : Nat :=
  match t with
  | .remote d pa => d.toNat * 2 ^ 48 + pa
  | .dev pa => s.globalPa pa
  | .host pa => pa

/-! ## Atomics (R309 to R318) -/

/-- The new value at the home, with flags (table Atomic operations): FN, width in bytes, old value, operand, expected value. -/
def atomOp (fn n v a e : Nat) : Nat × Byte :=
  match fn with
  | 0 => ((v + a) % 2 ^ (8 * n), 0)
  | 1 => ((intOp (8 * n) 11 false v a).1, 0)
  | 2 => ((intOp (8 * n) 12 false v a).1, 0)
  | 3 => (min v a, 0)
  | 4 => (max v a, 0)
  | 5 => (v &&& a, 0)
  | 6 => (v ||| a, 0)
  | 7 => (v ^^^ a, 0)
  | 8 => (a, 0)
  | 9 => (if v = e then a else v, 0)
  | _ => floatOp 0xC 0 {} v a 0

/-- A merged operation on one word (R317): operands and expected values in lane order; the old values, the word left, the flags. -/
def mergedAtom (fn n : Nat) (ops : List (Nat × Nat)) (v : Nat) : List Nat × Nat × Byte :=
  ops.foldl (fun (r : List Nat × Nat × Byte) o =>
    let x := atomOp fn n r.2.1 o.1 o.2
    (r.1 ++ [r.2.1], x.1, r.2.2 ||| x.2)) ([], v, 0)

/-- Sticky flags of a stream's engine. -/
def State.strmFlags (s : State) (t : Strm) (f : Byte) : State :=
  match t with
  | .se c => s.updCore c (fun k => { k with se := { k.se with flags := k.se.flags ||| f } })
  | .ve g => s.veFlags g.core f

/-- A merged atomic performed at a home on this device or the host: the old values in lane order. -/
def State.atomAt (s : State) (t : Tgt) (fn n : Nat) (ops : List (Nat × Nat)) : (List Nat × Byte) × State :=
  match t with
  | .dev pa =>
    let ((bs, _), s) := s.homeRead pa n
    let (olds, v, fl) := mergedAtom fn n ops (leNat bs)
    ((olds, fl), s.homeWrite pa (leBytes n v))
  | .host pa =>
    let (bs, s) := s.hostRead pa n
    let (olds, v, fl) := mergedAtom fn n ops (leNat bs)
    ((olds, fl), (s.unmark t n).hostWrite pa (leBytes n v))
  | .remote _ _ => ((ops.map (fun _ => 0), 0), s)

/-- The distinct words that the lanes address, each with its lanes in order. -/
def byWord (ls : List (Nat × Tgt)) : List (Tgt × List Nat) :=
  ls.foldl (fun ws l =>
    if ws.any (fun w => w.1 == l.2) then ws.map (fun w => if w.1 = l.2 then (w.1, w.2 ++ [l.1]) else w)
    else ws ++ [(l.2, [l.1])]) []

/-- The lane of an atomic. -/
def atomLane (a : Nat × Nat × Acc) : Option (Nat × Nat × Tgt) :=
  match a.2.2 with
  | .ok tg _ => some (a.1, a.2.1, tg)
  | _ => none

/-- The injected error at a target on this device (R486). -/
def State.injectTgt (s : State) (t : Tgt) (n : Nat) : State :=
  match t with
  | .dev pa => s.inject pa n
  | _ => s

/-- The exception of a lane of an atomic: of its address, or POISON (R313). -/
def State.atomFault (s : State) (n : Nat) (a : Nat × Nat × Acc) : Option (Nat × Nat × W64) :=
  match a.2.2 with
  | .fault code d => some (a.1, code, d)
  | .ok (.dev pa) _ => if s.mem.poisoned pa n then some (a.1, 6, vaDetail a.2.1 .atomic) else none
  | .ok (.remote d _) _ => if s.isDead d.toNat then some (a.1, 6, vaDetail a.2.1 .atomic) else none
  | _ => none

/-- The lost store of a lane whose atomic meets a dead device. -/
def State.atomLost (s : State) (t : Strm) (code lane : Nat) (x : Tgt) : State :=
  match x with
  | .remote dv pa =>
    if code = 6 ∧ s.isDead dv.toNat then
      s.lostStore (strmCore t) (s.ownerNiche (strmCore t)) (strmVe t).toNat (strmNum t) (s.gidOf t) lane (dv.toNat * 2 ^ 48 + pa)
    else s
  | _ => s

/-- A target on another device. -/
def tgtFar (t : Tgt) : Bool :=
  match t with
  | .remote _ _ => true
  | _ => false

/-- The operands and expected values of the lanes of a word. -/
def wordOps (operand expected : Nat → W64) (w : Tgt × List Nat) : AtomWord :=
  { tgt := w.1, lanes := w.2.map (fun l => { lane := l, operand := operand l, expected := expected l }) }

/-- The merged operation of one word performed at a home of this device or the host, whose lanes join those done with their old
values (R317). -/
def State.atomWord (s : State) (t : Strm) (fn n : Nat) (done : List (Nat × List Byte)) (w : AtomWord) :
    List (Nat × List Byte) × State :=
  let num (v : W64) : Nat := v.toNat % 2 ^ (8 * n)
  let ((olds, fl), s) := s.atomAt w.tgt fn n (w.lanes.map (fun o => (num o.operand, num o.expected)))
  (done ++ (w.lanes.zip olds).map (fun p => (p.1.lane, leBytes n p.2)), s.strmFlags t fl)

/-- An ATOM of some lanes (R309 to R318): it takes an entry of the store buffer and leaves it at once (R300). Words of this device and
of the host are done at once, one merged operation a word; words of other devices by ATOMIC packets, whose RESP gives the old
values. -/
def State.atomIssue (s : State) (t : Strm) (pc : Nat) (bases : List (Nat × W64)) (operand expected : Nat → W64) (fn size : Nat)
    (dst : Byte) (off : BitVec 16) : Option State :=
  let c := strmCore t
  let slot := strmSlot t
  let n := 2 ^ size
  if s.heldBack c slot || !s.bufferRoom c slot then none
  else
    let (as, s) := s.resolveAll t bases off false n .atomic
    let ls := as.filterMap atomLane
    let ts := ls.map (·.2.2)
    let cached := ts.filter (fun x => !s.uncachedNow c x)
    if (!cached.isEmpty && (s.core c).dc.shut) || !(s.heldLines ts n true).isEmpty then none
    else
      let s := cached.foldl (fun s x => s.bypassFor c (strmVe t) x) s
      let s := ls.foldl (fun s l => s.injectTgt l.2.2 n) s
      match as.findSome? (s.atomFault n) with
      | some (lane, code, d) =>
        if s.olderPending c slot then none
        else
          let s := ls.foldl (fun s l => s.atomLost t code l.1 l.2.2) s
          s.strmFault t lane pc code d
      | none =>
        if ls.length != as.length || (as.any s.accStrong && s.storesPending c slot) || ts.any (fun x => s.ownStores c slot x n) ||
            ts.any (fun x => !s.uncachedNow c x) || ts.any (fun x => !tgtFar x && !s.reaches c x) then none
        else
          let ws := (byWord (ls.map (fun l => (l.1, l.2.2)))).map (wordOps operand expected)
          let (done, s) := (ws.filter (fun w => !tgtFar w.tgt)).foldl
            (fun (r : List (Nat × List Byte) × State) w => r.2.atomWord t fn n r.1 w) ([], s)
          let far := ws.filter (fun w => tgtFar w.tgt)
          if far.isEmpty then some ((s.loadResult c slot (some dst) n false done).strmNext t (ls.map (·.1)))
          else
            let lanes : List LaneAcc := ls.map (fun l =>
              { lane := l.1, va := l.2.1, tgt := l.2.2, cache := false, bytes := ((done.find? (fun p => p.1 == l.1)).map (·.2)).getD [] })
            some ((s.loadPut t { id := 0, slot := none, dst := some dst, size := n, sx := false, pc := BitVec.ofNat 64 pc,
                                 lanes := lanes, atom := some (fn, far) }).strmNext t (ls.map (·.1)))

end Sys2Proof.Machine
end

