-- ==== Sys2Proof/Machine/CoreCtl.lean ====
section
/-! DEFINITION. A core's work outside its instructions: engine entries, kernels, blocks, caches, scrubbing, store-buffer
drains (R67 to R69, R77 to R92, R98, R101 to R126, R282, R300 to R307, R374, R563). -/

namespace Sys2Proof.Machine

/-! ## Engine entries (R67 to R69, R98, R374) -/

/-- The number of an engine: of its hold bit and of its exception records. -/
def engNum : Eng → Nat
  | .se => 0
  | .ve => 1
  | .me => 2
  | .de => 3

/-- The scalar registers of a starting SE entry: RANK, RANKS and GRANTS (R374). -/
def seStart (x : EngineEntry) : Sparse W64 :=
  [(1, BitVec.ofNat 64 (fld x.word2 0 24)), (2, BitVec.ofNat 64 (fld x.word2 24 24)), (3, BitVec.ofNat 64 (fld x.word5 8 12))]

/-- The command of an ME or DE entry. -/
def EngineEntry.command (x : EngineEntry) : FifoCmd :=
  { lo := x.word1, hi := x.word2, issuer := .entry x.node x.maquette, launch := x.launch, rank := x.rank, node := x.node,
    super := x.super }

/-- A core after an engine took the head of its queue; unchanged where it takes none. `gid` numbers the streams of the entry. The
entry address is taken as it stands (DESIGN CHOICE: R128 names no cause for one that is no multiple of 8). -/
def Core.fetchEntry (k : Core) (gid : Nat) : Eng → Core
  | .se =>
    match k.seQ, k.se.entry with
    | x :: q, none =>
      { k with seQ := q
               se := { k.se.cleared with entry := some x, sregs := seStart x, preds := 0, pc := BitVec.ofNat 64 (fld x.word1 0 57), gid := gid } }
    | _, _ => k
  | .ve =>
    match k.veQ, k.ve.entry with
    | x :: q, none => { k with veQ := q, ve := { k.ve.cleared with entry := some x, gid := gid } }
    | _, _ => k
  | .me =>
    match k.meQ with
    | x :: q => if k.me.fifo.length < 8 then { k with meQ := q, me := { k.me with fifo := k.me.fifo ++ [x.command] } } else k
    | [] => k
  | .de =>
    match k.deQ with
    | x :: q => if k.de.fifo.length < 8 then { k with deQ := q, de := { k.de with fifo := k.de.fifo ++ [x.command] } } else k
    | [] => k

/-- Entries waiting in an engine's queue. -/
def Core.queued (k : Core) : Eng → Nat
  | .se => k.seQ.length
  | .ve => k.veQ.length
  | .me => k.meQ.length
  | .de => k.deQ.length

/-- ENGINE_ENTRY_FETCH: the head of the engine's queue is taken, unless the engine is held, busy or its FIFO full. An entry
that starts abandons a margin probe of the region (R492). -/
def execEngineEntryFetch (c : CoreNum) (e : Eng) (s : State) : Host.Outcome State Fault Refusal :=
  .next (if s.runs c && !bit (s.core c).control (engNum e) then
      let t : State := { s.updCore c (fun k => k.fetchEntry s.fresh e) with fresh := s.fresh + 1 }
      if (t.core c).queued e = (s.core c).queued e then t else t.dropProbe (regionOf c)
    else s)

/-- An engine entry of a rank has completed: the dispatcher's node has one entry less to wait for (R370). -/
def State.entryDone (s : State) (l node rank : Nat) (e : Eng) : State :=
  match s.launch? l with
  | some x =>
    s.setLaunch l { x with nodes := x.nodes.mapIdx (fun i (k : NodeRun) =>
      if i = node then { k with open_ := k.open_.filter (fun o => o != (rank, e)) } else k) }
  | none => s

/-! ## Launch shapes and blocks (R101 to R109) -/

/-- REGS of a launch entry (R101). -/
def EngineEntry.regs (x : EngineEntry) : Nat := 8 * (fld x.word3 34 5 + 1)

/-- THREADS of a launch entry. -/
def EngineEntry.perBlock (x : EngineEntry) : Nat := fld x.word3 24 10 + 1

/-- Groups in a block (R102). -/
def EngineEntry.groups (x : EngineEntry) : Nat := ceilDiv x.perBlock 32

/-- KiB of drawer of a block (R105). -/
def EngineEntry.kib (x : EngineEntry) : Nat := ceilDiv (fld x.word3 39 18) 1024

/-- The stream reserve in KiB (R105). -/
def EngineEntry.reserve (x : EngineEntry) : Nat := fld x.word5 0 8

/-- Whether a parameter lies outside its range or a block would not fit on an empty core (R106). -/
def EngineEntry.badShape (x : EngineEntry) : Bool :=
  decide (131072 < fld x.word3 39 18) || decide (16384 < 32 * x.regs * x.groups) || decide (128 < x.reserve + x.kib)

/-- LAUNCH_ENTRY_START: the shape is accepted, or LAUNCH_SHAPE is raised on the entry. -/
def execLaunchEntryStart (c : CoreNum) (s : State) : Host.Outcome State Fault Refusal :=
  let k := s.core c
  .next (match k.ve.entry with
    | some x =>
      if !s.runs c || k.ve.started then s
      else if x.badShape then
        s.raise c x.launch { code := 0x09, engine := 1, precise := false, queued := some (x.node, x.maquette) }
      else
        let first := fld x.word4 0 24
        let stop := first + fld x.word4 24 25
        s.updCore c (fun k => { k with ve := { k.ve with started := true, nextBlock := first, endBlock := stop } })
    | none => s)

/-- Free registers of the pool (R105, VE_OCC). -/
def Core.regsFree (k : Core) : Nat := 16384 - (k.ve.groups.map (fun p => 32 * p.2.regs)).sum

/-- Free slots below n. -/
def freeSlots {α : Type} (m : Sparse α) (n : Nat) : List Nat := (List.range n).filter (fun i => (Sparse.find m i).isNone)

/-- The lowest free run of `need` KiB below `top` (R105, R107). -/
def Core.drawerRun (k : Core) (need top : Nat) : Option Nat :=
  (List.range (top + 1 - need)).find? (fun i =>
    decide (i + need ≤ top) && k.ve.blocks.all (fun p => !overlaps i need (p.2.base / 1024) p.2.kib))

/-- What stops the next block: 0 nothing, else the lowest code of HEAD_LIMIT (VE_OCC). -/
def Core.headLimit (k : Core) : Nat :=
  match k.ve.entry with
  | some x =>
    if !k.ve.started || k.ve.nextBlock == k.ve.endBlock then 0
    else if k.regsFree < 32 * x.regs * x.groups then 1
    else if (k.drawerRun x.kib (128 - x.reserve)).isNone then 2
    else if (freeSlots k.ve.groups 32).length < x.groups then 3
    else if (freeSlots k.ve.blocks 16).isEmpty then 4
    else 0
  | none => 0

/-- Group i of a block as it is admitted (R102, R108). -/
def admitGroup (x : EngineEntry) (i blockSlot seed : Nat) : Group :=
  { index := i, blockSlot := blockSlot, regs := x.regs, seed := seed
    threads := (List.range 32).map (fun lane =>
      { pc := BitVec.ofNat 64 (fld x.word1 0 57), exited := decide (x.perBlock ≤ 32 * i + lane) }) }

/-- BLOCK_ADMIT: the next block with all its groups, in the lowest free slots and drawer run; its allocation holds
unpredictable values. -/
def execBlockAdmit (c : CoreNum) (s : State) : Host.Outcome State Fault Refusal :=
  let k := s.core c
  .next (match k.ve.entry, (freeSlots k.ve.blocks 16).head? with
    | some x, some bs =>
      if !s.runs c || !k.ve.started || k.ve.nextBlock == k.ve.endBlock || k.headLimit != 0 then s
      else
        let base := ((k.drawerRun x.kib (128 - x.reserve)).getD 0) * 1024
        let slots := (freeSlots k.ve.groups 32).take x.groups
        let gs := slots.mapIdx (fun i slot => (slot, admitGroup x i bs (s.fresh + i)))
        let s := s.updCore c (fun k => { k with ve := { k.ve with
          groups := gs.foldl (fun m p => Sparse.put m p.1 p.2) k.ve.groups
          blocks := Sparse.put k.ve.blocks bs { block := k.ve.nextBlock, base := base, kib := x.kib }
          nextBlock := k.ve.nextBlock + 1 } })
        let s : State := { s with fresh := s.fresh + x.groups }
        if x.kib = 0 then s else s.scramble (drawerBase c + base) (x.kib * 1024)
    | _, _ => s)

/-! ## Kernels (R123 to R125, R174, R307) -/

/-- Whether an engine has a store in its buffer or not yet acknowledged. -/
def State.engineStores (s : State) (c : CoreNum) (isVe : Bool) : Bool :=
  let k := s.core c
  !(if isVe then k.ve.buffer else k.se.buffer).isEmpty || k.storesOut.any (fun e => e.slot.isSome == isVe) ||
    s.tr.ops.any (fun o => match o.purpose with | .store c' sl _ _ _ _ _ _ => c' == c && sl.isSome == isVe | _ => false)

/-- Whether an engine has a load outstanding. -/
def Core.engineLoads (k : Core) (isVe : Bool) : Bool := k.loads.any (fun e => e.slot.isSome == isVe)

/-- KERNEL_START: the data cache is written back and invalidated; behind the last acknowledgement the engine's ARITH_FLAGS are
cleared and its instructions may issue (R123). Stores of the engine's previous work have drained first (R303). -/
def execKernelStart (c : CoreNum) (e : Eng) (s : State) : Host.Outcome State Fault Refusal :=
  let k := s.core c
  .next (match e with
    | .se =>
      if s.runs c && k.se.entry.isSome && !k.se.running && !k.se.ended && k.dc.ready && !s.engineStores c false then s.startFlush c (.start false)
      else s
    | .ve =>
      if s.runs c && k.ve.started && !k.ve.running && !k.ve.ended && k.dc.ready && !s.engineStores c true then s.startFlush c (.start true)
      else s
    | _ => s)

/-- The first lost store of the kernel that ends: of its own streams, or of the DMA engine for its launch (R307, R345). -/
def Core.lostAtEnd (k : Core) (own : Option W64) (l : Nat) : Option W64 := if own.isSome then own else Sparse.find k.de.lost l

/-- KERNEL_END: once the engine's stores have drained, BARRIER_LOSS where one was lost (R307), else the write-back of
R124; the lines stay valid and clean, and the kernel has ended behind the last acknowledgement. -/
def execKernelEnd (c : CoreNum) (e : Eng) (s : State) : Host.Outcome State Fault Refusal :=
  let k := s.core c
  .next (match e with
    | .se =>
      if s.runs c && k.se.ended && !k.se.drained && !s.engineStores c false && !k.engineLoads false then
        match k.lostAtEnd k.se.lost (launchOf k.se.entry) with
        | some a => s.raise c (launchOf k.se.entry) { code := 0x08, engine := 0, pc := k.se.pc.toNat, detail := a }
        | none => s.startFlush c (.ending false)
      else s
    | .ve =>
      if s.runs c && k.ve.ended && !k.ve.drained && !s.engineStores c true && !k.engineLoads true && k.ve.xf.isEmpty then
        match k.lostAtEnd k.ve.lost (launchOf k.ve.entry) with
        | some a =>
          let (g, b, lane, pc) := k.ve.lastExit
          s.raise c (launchOf k.ve.entry) { code := 0x08, engine := 1, group := g, block := b, lane := lane, pc := pc.toNat, detail := a }
        | none => s.startFlush c (.ending true)
      else s
    | _ => s)

/-- ENTRY_COMPLETE: the write-backs of the kernel end have been acknowledged; the engine is free and the dispatcher is told. -/
def execEntryComplete (c : CoreNum) (e : Eng) (s : State) : Host.Outcome State Fault Refusal :=
  let k := s.core c
  .next (match e with
    | .se =>
      match k.se.entry with
      | some x =>
        if k.se.drained && !s.backsPending c then
          (s.updCore c (fun k => { k with se := k.se.cleared })).entryDone x.launch x.node x.rank .se
        else s
      | none => s
    | .ve =>
      match k.ve.entry with
      | some x =>
        if k.ve.drained && !s.backsPending c then
          (s.updCore c (fun k => { k with ve := k.ve.cleared })).entryDone x.launch x.node x.rank .ve
        else s
      | none => s
    | _ => s)

/-! ## The barrier watchdog (R120, R121) -/

/-- BARRIER_WD_US of a niche, in ticks. -/
def State.watchdog (s : State) (n : NicheNum) : Nat := fld (s.niche n).control 32 16 * 1000

/-- A mask of numbers. -/
def maskOf (l : List Nat) : Nat := l.foldl (fun m i => m ||| 2 ^ i) 0

/-- Live lanes that have not arrived at a kind of barrier. -/
def Group.missing (x : Group) (k : Arrival) : List Nat := x.live.filter (fun l => (x.thread l).arrived != k)

/-- BARRIER_WATCHDOG_EXPIRY: a barrier of a group (slot of the group) or of a block (slot of the block) that has waited
for the niche's setting raises BARRIER_STALL. -/
def execBarrierWatchdogExpiry (c : CoreNum) (whole : Bool) (slot : BitVec 5) (s : State) : Host.Outcome State Fault Refusal :=
  let k := s.core c
  let wd := s.watchdog (s.ownerNiche c)
  let due (o : Option W64) : Bool := match o with | some t => s.runs c && wd != 0 && decide (wd ≤ s.waited c t) | none => false
  .next (if whole then
      match Sparse.find k.ve.blocks slot.toNat with
      | some b =>
        let gs := k.groupsOf slot.toNat
        let lacking := gs.filter (fun p => !(p.2.missing .block).isEmpty)
        let first := lacking.foldl (fun (m : Option Group) p => match m with
          | none => some p.2
          | some g => some (if p.2.index < g.index then p.2 else g)) none
        let at_ := gs.findSome? (fun p => (p.2.at_ .block).head?.map (fun l => (l, (p.2.thread l).pc)))
        match first, at_ with
        | some g, some (lane, pc) =>
          if due b.barStart && gs.all (fun p => !s.storesPending c (some (BitVec.ofNat 5 p.1))) then
            s.raise c (launchOf k.ve.entry)
              { code := 0x07, engine := 1, group := g.index, block := b.block, lane := lane, pc := pc.toNat
                detail := pack [(0, 32, maskOf (lacking.map (·.2.index))), (32, 32, maskOf (g.missing .block))] }
          else s
        | _, _ => s
      | none => s
    else
      match Sparse.find k.ve.groups slot.toNat with
      | some g =>
        match (g.at_ .group).head? with
        | some lane =>
          if due g.barStart && !s.storesPending c (some slot) then
            s.raise c (launchOf k.ve.entry)
              { code := 0x07, engine := 1, group := g.index, block := (Sparse.getD k.ve.blocks g.blockSlot {}).block, lane := lane
                pc := (g.thread lane).pc.toNat, detail := BitVec.ofNat 64 (maskOf (g.missing .group)) }
          else s
        | none => s
      | none => s)

/-! ## The drawer (R77 to R81) -/

/-- DRAWER_CE_WRITEBACK: a corrected word that no store overtook is written back (R77, R78); its bytes were corrected when read. -/
def execDrawerCeWriteback (c : CoreNum) (s : State) : Host.Outcome State Fault Refusal :=
  .next (s.updCore c (fun k => { k with ceWait := k.ceWait.drop 1 }))

/-- SCRUB_READ: while SCRUB_EN is 1, the scrubber reads a word in an idle cycle of its bank and treats what it finds by
R77 and R79. -/
def execScrubRead (c : CoreNum) (word : BitVec 14) (f : EccFind) (s : State) : Host.Outcome State Fault Refusal :=
  let a := drawerBase c + 8 * word.toNat
  .next (if (s.region (regionOf c)).running && bit (s.core c).control 6 then
      if s.armed 0 && s.injCore == c then s.disarm.correctWord a true true
      else if s.armed 1 && s.injCore == c then s.disarm.poisonWord a true true
      else
        match f with
        | .clean => s
        | .single => s.correctWord a true false
        | .double => s.poisonWord a true false
    else s)

/-! ## The caches (R84 to R92, R563) -/

/-- Loads whose every lane has its bytes finish, in order. -/
def State.settleLoads (s : State) (c : CoreNum) : State :=
  let done := (s.core c).loads.filter (fun e => ended e.lanes == .bytes)
  let s := done.foldl (fun s e => s.loadResult c e.slot e.dst e.size e.sx (e.lanes.map (fun l => (l.lane, l.bytes))) e.skip) s
  s.updCore c (fun k => { k with loads := k.loads.filter (fun e => ended e.lanes != .bytes) })

/-- A lane that waits for a line takes its bytes from it, or its poison. -/
def LaneAcc.serve (own : Nat) (l : CacheLine) (n : Nat) (x : LaneAcc) : LaneAcc :=
  if x.cache && x.bytes.isEmpty && x.bad.isNone && lineAddr x.tgt own == l.addr then
    match l.read (x.tgt.addr % 64) n x.va with
    | .bytes b => { x with bytes := b }
    | .poison d => { x with bad := some (6, d) }
    | _ => x
  else x

/-- The lanes that wait for a line are served from it; the loads that are complete finish, and the others go on. -/
def State.serveLine (s : State) (c : CoreNum) (line : Nat) : State :=
  match (s.core c).dc.hit line with
  | some l =>
    let own := s.myDevice
    ((s.updCore c (fun k => { k with loads := k.loads.map (fun e => { e with lanes := e.lanes.map (LaneAcc.serve own l e.size) }) })).settleLoads c).goLoads c
  | none => s.goLoads c

/-- The line of the outstanding miss arrives: a way, the waiting accesses, the next miss. -/
def State.fillLine (s : State) (c : CoreNum) (line : Nat) (data : List Byte) (poison : List Nat) : State :=
  ((s.updCore c (fun k => { k with dc := k.dc.fill line data poison })).serveLine c line).flushGo c

/-- The poisoned words of a line read at its home, by number. -/
def linePoison (m : Memory) (a : Nat) : List Nat := (List.range 8).filter (fun w => m.poison.contains (a + 8 * w))

/-- Whether a core's stores can leave: its region runs, or is about to enter OFF (R51, R303). -/
def State.drains (s : State) (c : CoreNum) : Bool :=
  let x := s.region (regionOf c)
  x.running || x.targets.any (fun t => fld t 0 3 == 3)

/-- DCACHE_FILL: the line of the outstanding miss comes from its home on this device, or the line that came from another device is
placed once the write-back buffer is free (R85). -/
def execDcacheFill (c : CoreNum) (s : State) : Host.Outcome State Fault Refusal :=
  let d := (s.core c).dc
  .next (match d.miss with
    | some (line, _) =>
      if !s.drains c || d.fillWaits line then s
      else
        match d.arrived with
        | some (bs, poison) => s.fillLine c line bs poison
        | none =>
          let a := line % 2 ^ 48
          let x : LaneAcc := { lane := 0, va := 0, tgt := .dev a, cache := true, bytes := [], port := d.missPort, node := d.missNode }
          if !s.isLocal line || !s.inTurn c x || !s.awake (some (regionOf c)) a then s
          else
            let ((bs, _), s) := s.homeRead a 64
            s.fillLine c line bs (if (s.classOf a).isMemory then linePoison s.mem a else [])
    | none => s)

/-- DCACHE_WRITEBACK: the line in the write-back buffer leaves for its home (R85); write-backs of the whole cache go on. -/
def execDcacheWriteback (c : CoreNum) (s : State) : Host.Outcome State Fault Refusal :=
  .next (((s.drainBuffer c).flushGo c).goLoads c)

/-- A line of the instruction cache filled: an invalid way, else the least recently used; it is then the most recent. -/
def ICache.fill (i : ICache) (line : Nat) (data : List Byte) : ICache :=
  let set := line / 64 % 128
  let w := if (Sparse.find i.lines (2 * set)).isNone then 0
    else if (Sparse.find i.lines (2 * set + 1)).isNone then 1
    else Sparse.getD i.lru set 0
  { i with lines := Sparse.put i.lines (2 * set + w) { addr := line, data := data }, lru := Sparse.put i.lru set (1 - w), loose := none }

/-- The way that holds a line. -/
def ICache.has (i : ICache) (line : Nat) : Bool :=
  let set := line / 64 % 128
  [0, 1].any (fun w => match Sparse.find i.lines (2 * set + w) with | some l => l.addr == line | none => false)

/-- A line that a fetch finds becomes the most recently used of its set. -/
def ICache.use (i : ICache) (line : Nat) : ICache :=
  let set := line / 64 % 128
  let first := match Sparse.find i.lines (2 * set) with | some l => l.addr == line | none => false
  { i with lru := Sparse.put i.lru set (if first then 1 else 0) }

/-- Whether the parity of a word of a line that the instruction cache holds does not match. -/
def ICache.bad (i : ICache) (line off : Nat) : Bool :=
  [0, 1].any (fun w => match Sparse.find i.lines (2 * (line / 64 % 128) + w) with
    | some l => l.addr == line && l.badParity.contains (off / 8)
    | none => false)

/-- A parity mismatch of an instruction word: the line is invalidated, to be fetched again, and CORRECTED (text after R91). -/
def State.icacheParity (s : State) (c : CoreNum) (line : Nat) : State :=
  (s.updCore c (fun k => { k with ic := { k.ic with lines := k.ic.lines.filter (fun x => x.2.addr != line) }
                                  cacheRefetch := satAdd k.cacheRefetch 1 })).logError
    { cause := 0x08, loc := dieLoc (regionOf c), core := some c }

/-- The address that a stream fetches next, and the lane an exception names. -/
def State.fetchAt (s : State) (t : Strm) : Option (Nat × Nat) :=
  match t with
  | .se c => if s.runs c && (s.core c).se.running && !(s.core c).se.ended then some ((s.core c).se.pc.toNat, 0) else none
  | .ve g =>
    if s.runs g.core && (s.core g.core).ve.running then
      match s.group g.core g.slot.toNat with
      | some x => match x.choose with
        | some (_, pc, lanes) => some (pc, lanes.headD 0)
        | none => none
      | none => none
    else none

/-- ICACHE_FILL: the line of a stream's next instruction, translated, found in the cache or read at its home; a poisoned word, a missing
translation or a forbidden fetch raises its exception at the instruction (R141, R375, R563). -/
def execIcacheFill (t : Strm) (s : State) : Host.Outcome State Fault Refusal :=
  let c := strmCore t
  .next (match s.fetchAt t with
    | some (pc, lane) =>
      if !(s.core c).ic.ready then s
      else if (windowOff (s.entryOn t) pc).isSome then (s.strmFault t lane pc 3 (vaDetail pc .fetch)).getD s
      else
        match s.translate (some c) (s.ownerNiche c) pc .fetch with
        | (.fault code, s) => (s.strmFault t lane pc code (vaDetail pc .fetch)).getD s
        | (.wait, s) => s
        | (.ok tg _, s) =>
          let line := s.lineOf tg
          let s := if (s.core c).ic.bad line (pc % 64) then s.icacheParity c line else s
          if (s.core c).ic.has line then s.updCore c (fun k => { k with ic := k.ic.use line })
          else
            match tg with
            | .dev pa =>
              let a := pa / 64 * 64
              let held := s.linesHeld a 64 false
              if !held.isEmpty then s.recall held
              else if !s.reaches c tg then s
              else
              let ((bs, p), s) := s.homeRead a 64
              if s.mem.poisoned (pa / 8 * 8) 8 && (s.classOf a).isMemory then
                if s.olderPending c (strmSlot t) then s
                else ((s.memError pa true false false).strmFault t lane pc 6 (vaDetail pc .fetch)).getD s
              else if p.isSome then
                s.updCore c (fun k => { k with ic := { k.ic with loose := some (line + pc % 64, BitVec.ofNat 64 (leNat ((bs.drop (pc % 64)).take 8))) } })
              else s.updCore c (fun k => { k with ic := k.ic.fill line bs })
            | .remote d pa =>
              if s.isDead d.toNat then (s.strmFault t lane pc 6 (vaDetail pc .fetch)).getD s
              else if s.tr.ops.any (fun o => o.purpose == .fetch c line) then s
              else s.request 0 (accessPacket d (pa / 64 * 64) (s.ownerNiche c) (s.ownerCtx c) 0 64 []) (.fetch c line)
            | .host _ => s
    | none => s)

/-- DCACHE_INIT_DONE: the invalidation of R89 has ended. -/
def execDcacheInitDone (c : CoreNum) (s : State) : Host.Outcome State Fault Refusal :=
  .next (if (s.region (regionOf c)).running then s.updCore c (fun k => { k with dc := { k.dc with ready := true } }) else s)

/-- ICACHE_INIT_DONE: the invalidation of R92 has ended, and ICACHE_INV with it. -/
def execIcacheInitDone (c : CoreNum) (s : State) : Host.Outcome State Fault Refusal :=
  .next (if (s.region (regionOf c)).running then
      s.updCore c (fun k => { k with ic := { k.ic with ready := true }, control := setBit k.control 5 false })
    else s)

/-- DCACHE_WBI set (R90): every dirty line is written back, then every line invalidated, and the bit reads 0 at the end. -/
def State.startWbi (s : State) (c : CoreNum) : State :=
  (s.updCore c (fun k => { k with control := setBit k.control 4 true })).startFlush c .wbi

/-- ICACHE_INV set (R92): the instruction cache is invalid and fetch waits until ICACHE_INIT_DONE. -/
def State.startIcacheInv (s : State) (c : CoreNum) : State :=
  s.updCore c (fun k => { k with ic := {}, control := setBit k.control 5 true })

/-- DCACHE_WBI: firmware's write of CORE_CONTROL (R96). -/
def execDcacheWbi (a : Actor) (c : CoreNum) (s : State) : Host.Outcome State Fault Refusal :=
  .next (if isFw a then s.startWbi c else s)

/-- ICACHE_INV: firmware's write of CORE_CONTROL (R96). -/
def execIcacheInv (a : Actor) (c : CoreNum) (s : State) : Host.Outcome State Fault Refusal :=
  .next (if isFw a then s.startIcacheInv c else s)

/-! ## Store buffers (R281, R282, R300 to R303) -/

/-- Where a lane of a leaving entry goes. -/
inductive Drain where
  /-- Performed, or in the cache; nothing is left of it. -/
  | gone
  /-- Into the mesh, at its place in the order of the port. -/
  | out (place : Nat)
  /-- It stays in the buffer. -/
  | stay
deriving DecidableEq, Repr

/-- The first lost address of a stream of a core, while the stream is there (R305). -/
def State.streamLost (s : State) (c : CoreNum) (slot : Option (BitVec 5)) (gid lane : Nat) : Option W64 :=
  let k := s.core c
  match slot with
  | none => if k.se.gid = gid then k.se.lost else none
  | some g =>
    match Sparse.find k.ve.groups g.toNat with
    | some x => if x.seed = gid then (x.thread lane).lost else none
    | none => none

/-- A lane of a store that no home takes any more. -/
def State.laneLost (s : State) (c : CoreNum) (e : StoreEntry) (x : LaneAcc) : State :=
  s.lostStore c (s.ownerNiche c) e.slot.isSome.toNat (match e.slot with | some g => g.toNat | none => 0) e.gid x.lane (s.tgtGlobal x.tgt)

/-- What a release wrote is noted; any other store overwrites such a note (R295). -/
def State.noteStore (s : State) (c : CoreNum) (e : StoreEntry) (x : LaneAcc) : State :=
  match e.rel with
  | some scope => s.noteRelease c e.slot.isSome.toNat scope x.tgt x.bytes
  | none => s.unmark x.tgt x.bytes.length

/-- A lane of a cacheable store leaves the buffer into the cache, or its line is fetched first (R84, R282). -/
def State.drainCached (s : State) (c : CoreNum) (e : StoreEntry) (x : LaneAcc) : Drain × State :=
  let line := s.lineOf x.tgt
  if (s.core c).dc.shut then (.stay, s)
  else
    let s := s.readSet c line
    if ((s.core c).dc.hit line).isSome then
      let who : Writer := { slot := e.slot, gid := e.gid, lane := x.lane }
      let s := s.updCore c (fun k => { k with dc := k.dc.storeHit line (x.tgt.addr % 64) x.bytes who })
      (.gone, s.selfAdd c 8 1)
    else
      let dead : Bool := match x.tgt with | .remote d _ => s.isDead d.toNat | _ => false
      if dead then (.gone, s.laneLost c e x) else (.stay, s.startMiss c x.tgt e.slot.isSome)

/-- A lane of a store that its home performs leaves the buffer: into the own drawer at once, toward another device by a WRITE,
otherwise into the mesh, as far as the engine's transfers let it (R70, R282). -/
def State.drainHome (s : State) (c : CoreNum) (e : StoreEntry) (x : LaneAcc) : Drain × State :=
  let full := decide (6 ≤ s.transfers c e.slot.isSome)
  let go (s : State) : Drain × State := if full then (.stay, s) else (.out s.takeOrder.1, s.takeOrder.2)
  match x.tgt with
  | .dev pa =>
    if decide (s.classOf pa = .drawer) && drawerCore pa == c then
      (.gone, if e.rel.isSome then (s.homeWrite pa x.bytes).noteStore c e x else s.homeWrite pa x.bytes)
    else go s
  | .host _ => go s
  | .remote dv pa =>
    if s.isDead dv.toNat then (.gone, s.laneLost c e x)
    else if full then (.stay, s)
    else (.gone, (s.noteStore c e x).request 1
      (accessPacket dv pa (s.ownerNiche c) (s.ownerCtx c) 0 x.bytes.length x.bytes) (.store c e.slot e.gid x.lane e.pc x.va (s.ownerNiche c) e.num))

/-- A lane of a store leaves the buffer. A release at FABRIC scope behind a lost store of its stream is itself lost (R306); a release
of a line that the cache holds waits until the line has left (R297). -/
def State.drainLane (s : State) (c : CoreNum) (e : StoreEntry) (x : LaneAcc) : Drain × State :=
  match e.rel with
  | none => if x.cache then s.drainCached c e x else s.drainHome c e x
  | some scope =>
    if x.cache && (s.core c).dc.shut then (.stay, s)
    else
      let s := if x.cache then s.bypassFor c e.slot.isSome x.tgt else s
      if x.cache && !s.uncachedNow c x.tgt then (.stay, s)
      else if scope = 4 && (s.streamLost c e.slot e.gid x.lane).isSome then (.gone, s.laneLost c e x)
      else s.drainHome c e { x with cache := false }

/-- The bytes of an entry that belong to lanes, with those of its statistics record. -/
def StoreEntry.spans (e : StoreEntry) (c : CoreNum) : List LaneAcc :=
  e.lanes ++ (match e.stat with
    | some (off, _) => [{ lane := 0, va := 2 ^ 58, tgt := .dev (drawerBase c + off), cache := false, bytes := List.replicate 32 0 }]
    | none => [])

/-- Whether an older entry must leave before another: both store some byte, for one thread (R278), or one of them has been seen. -/
def mustPrecede (c : CoreNum) (o e : StoreEntry) : Bool :=
  let one (a b : LaneAcc) : Bool := o.all || e.all || a.lane == b.lane
  (o.spans c).any (fun a => (e.spans c).any (fun b => tgtOverlap a.tgt a.bytes.length b.tgt b.bytes.length &&
    ((o.slot == e.slot && one a b) || o.seen || e.seen)))

/-- Whether an entry of a store buffer may leave (R142, R278, R293): behind the older ones that it overlaps, behind the older loads
of its stream, whose exceptions it must not pass, and as a release behind what its scope asks. -/
def State.mayLeave (s : State) (c : CoreNum) (older : List StoreEntry) (e : StoreEntry) : Bool :=
  s.drains c && !older.any (fun o => mustPrecede c o e) &&
    !(s.core c).loads.any (fun l => l.slot == e.slot && decide (l.num < e.num)) &&
    (match e.rel with | some scope => s.releasedTo c e.slot scope.toNat e.num | none => true)

/-- One lane more of a leaving entry: the lanes that stay, and the state. -/
def State.drainStep (c : CoreNum) (e : StoreEntry) (r : List LaneAcc × State) (x : LaneAcc) : List LaneAcc × State :=
  match r.2.drainLane c e x with
  | (.gone, s) => (r.1, s)
  | (.out place, s) =>
    let x := { x with port := place, cache := false }
    (r.1, s.updCore c (fun k => { k with storesOut := k.storesOut ++ [{ e with lanes := [x], stat := none }] }))
  | (.stay, s) => (r.1 ++ [x], s)

/-- A statistics record updated by what an instruction or a drained row adds to it; poison bits stay (R185 to R189, R223). -/
def State.addStat (s : State) (c : CoreNum) (stat : Option (Nat × List Nat)) : State :=
  match stat with
  | none => s
  | some (off, adds) =>
    let a := drawerBase c + off
    let s := (s.inject a 32).overtake a 32
    let (old, s) := s.memRead a 32
    let f := (List.range 8).map (fun i => leNat ((old.drop (4 * i)).take 4))
    let new := f.mapIdx (fun i x => if i < 2 then max x (adds.getD i 0) else min (x + adds.getD i 0) 0xFFFF_FFFF)
    { s with mem := s.mem.merge a (new.flatMap (leBytes 4)) }

/-- STORE_BUFFER_DRAIN: entry idx of a store buffer leaves it, lane by lane in lane order; lanes that wait stay. -/
def execStoreBufferDrain (c : CoreNum) (ve : Bool) (idx : Nat) (s : State) : Host.Outcome State Fault Refusal :=
  let buf (k : Core) : List StoreEntry := if ve then k.ve.buffer else k.se.buffer
  .next (match (buf (s.core c))[idx]? with
    | none => s
    | some e =>
      if !s.mayLeave c ((buf (s.core c)).take idx) e then s
      else
        let (stay, s) := e.lanes.foldl (State.drainStep c e) ([], s)
        let s := if stay.isEmpty then s.addStat c e.stat else s
        s.updCore c (fun k =>
          let b := if stay.isEmpty then (buf k).eraseIdx idx else (buf k).set idx { e with lanes := stay }
          if ve then { k with ve := { k.ve with buffer := b } } else { k with se := { k.se with buffer := b } }))

end Sys2Proof.Machine
end

