-- ==== Sys2Proof/Machine/MemoryInstr.lean ====
section
/-! DEFINITION. Memory instructions of the SE and the VE, OP 0x20 to 0x27: loads, stores, acquire and release, atomics,
barriers, cache maintenance, hints. -/

namespace Sys2Proof.Machine

/-! ## Operands -/

/-- The issue of an M-format instruction on either engine: `body` and `wait` are given the instruction's address and the
active lanes (lane 0 stands for the SE). -/
def State.memIssue (s : State) (t : Strm) (w : W64) (reads : List (Nat × Nat)) (dsts : List Nat) (effectful : Bool)
    (body : State → Nat → List Nat → Option State) (wait : State → List Nat → State := fun s _ => s) :
    Host.Outcome State Fault Refusal :=
  match t with
  | .se c => s.seIssue c w reads dsts.head? effectful (fun s => body s (s.core c).se.pc.toNat [0]) (fun s => wait s [0])
  | .ve g => s.veIssue g w reads dsts effectful (fun s _ pc act => body s pc act) (fun s _ act => wait s act)

/-- The value of the address register of a lane (R135): s[SRC1]; the pair, or with SPACE 1 the register, v[SRC1]. -/
def State.base (s : State) (t : Strm) (lane : Nat) (space : Bool) (r : Byte) : W64 :=
  match t with
  | .se c => (s.core c).se.reg r.toNat
  | .ve g =>
    match s.group g.core g.slot.toNat with
    | some x => if space then (x.reg lane r.toNat).setWidth 64 else x.pair lane r.toNat
    | none => 0

/-- A data register of a lane: a pair for an 8-byte access on the VE (R136). -/
def State.operand (s : State) (t : Strm) (lane size : Nat) (r : Byte) : W64 :=
  match t with
  | .se c => (s.core c).se.reg r.toNat
  | .ve g =>
    match s.group g.core g.slot.toNat with
    | some x => if size = 3 then x.pair lane r.toNat else (x.reg lane r.toNat).setWidth 64
    | none => 0

/-- The register file of a stream, as parity records name it. -/
def fileOf (t : Strm) : Nat := (strmVe t).toNat

/-- The registers of the address field. -/
def addrReads (t : Strm) (f : MFmt) : List (Nat × Nat) :=
  if strmVe t && !f.space then pairRegs' f.src1.toNat else [(fileOf t, f.src1.toNat)]
where
  /-- Both registers of a pair. -/
  pairRegs' (r : Nat) : List (Nat × Nat) := [(1, r), (1, r + 1)]

/-- The registers of a data field. -/
def dataRegs (t : Strm) (size r : Nat) : List Nat := if strmVe t && size == 3 then [r, r + 1] else [r]

def dataReads (t : Strm) (size r : Nat) : List (Nat × Nat) := (dataRegs t size r).map (fun x => (fileOf t, x))

/-- The address registers of the active lanes. -/
def State.bases (s : State) (t : Strm) (f : MFmt) (lanes : List Nat) : List (Nat × W64) :=
  lanes.map (fun l => (l, s.base t l f.space f.src1))

/-- The lines that an access at its home waits for are recalled from the host (R461). -/
def State.recallFor (s : State) (t : Strm) (f : MFmt) (k : AccKind) (lanes : List Nat) : State :=
  let n := 2 ^ f.size.toNat
  let (as, s) := s.resolveAll t (s.bases t f lanes) f.off f.space n k
  s.recall (s.heldLines (as.filterMap (fun a => match a.2.2 with | .ok t _ => some t | _ => none)) n (k != .load))

/-! ## Loads and stores -/

/-- LD. -/
def execLd (t : Strm) (f : MFmt) (s : State) : Host.Outcome State Fault Refusal :=
  s.memIssue t (encM 0x20 0 f) (addrReads t f) (dataRegs t f.size.toNat f.dst.toNat) false (fun s pc ls =>
    s.loadIssue t pc (s.bases t f ls) f.dst f.size.toNat f.sx f.space f.off)

/-- ST. -/
def execSt (t : Strm) (f : MFmt) (s : State) : Host.Outcome State Fault Refusal :=
  s.memIssue t (encM 0x21 0 f) (addrReads t f ++ dataReads t f.size.toNat f.src2.toNat) [] false (fun s pc ls =>
    s.storeIssue t pc (s.bases t f ls) (fun l => s.operand t l f.size.toNat f.src2) f.size.toNat none f.space f.off)

/-- LD.ACQ. -/
def execLdAcq (t : Strm) (f : MFmt) (s : State) : Host.Outcome State Fault Refusal :=
  s.memIssue t (encM 0x22 0 f) (addrReads t f) (dataRegs t f.size.toNat f.dst.toNat) false (fun s pc ls =>
    s.acquireIssue t pc (s.bases t f ls) f.dst f.size.toNat f.scope.toNat f.sx f.space f.off)
    (fun s ls => s.recallFor t f .load ls)

/-- ST.REL: it waits in the store buffer for what R293 asks. -/
def execStRel (t : Strm) (f : MFmt) (s : State) : Host.Outcome State Fault Refusal :=
  s.memIssue t (encM 0x23 0 f) (addrReads t f ++ dataReads t f.size.toNat f.src2.toNat) [] false (fun s pc ls =>
    s.storeIssue t pc (s.bases t f ls) (fun l => s.operand t l f.size.toNat f.src2) f.size.toNat (some f.scope) f.space f.off)

/-! ## Atomics -/

/-- OP 0x24. -/
def State.atom (s : State) (t : Strm) (fn : Nat) (f : MFmt) : Host.Outcome State Fault Refusal :=
  let z := f.size.toNat
  let exp := if fn = 9 then dataReads t z f.dst.toNat else []
  s.memIssue t (encM 0x24 fn f) (addrReads t f ++ dataReads t z f.src2.toNat ++ exp) (dataRegs t z f.dst.toNat) true
    (fun s pc ls => s.atomIssue t pc (s.bases t f ls) (fun l => s.operand t l z f.src2) (fun l => s.operand t l z f.dst)
      fn z f.dst f.off)
    (fun s ls => s.recallFor t f .atomic ls)

/-- ATOM.ADD: FN 0 (R310). -/
def execAtomAdd (t : Strm) (f : MFmt) (s : State) : Host.Outcome State Fault Refusal := s.atom t 0 f

/-- ATOM.MIN: FN 1 (R310). -/
def execAtomMin (t : Strm) (f : MFmt) (s : State) : Host.Outcome State Fault Refusal := s.atom t 1 f

/-- ATOM.MAX: FN 2 (R310). -/
def execAtomMax (t : Strm) (f : MFmt) (s : State) : Host.Outcome State Fault Refusal := s.atom t 2 f

/-- ATOM.MINU: FN 3 (R310). -/
def execAtomMinu (t : Strm) (f : MFmt) (s : State) : Host.Outcome State Fault Refusal := s.atom t 3 f

/-- ATOM.MAXU: FN 4 (R310). -/
def execAtomMaxu (t : Strm) (f : MFmt) (s : State) : Host.Outcome State Fault Refusal := s.atom t 4 f

/-- ATOM.AND: FN 5 (R310). -/
def execAtomAnd (t : Strm) (f : MFmt) (s : State) : Host.Outcome State Fault Refusal := s.atom t 5 f

/-- ATOM.OR: FN 6 (R310). -/
def execAtomOr (t : Strm) (f : MFmt) (s : State) : Host.Outcome State Fault Refusal := s.atom t 6 f

/-- ATOM.XOR: FN 7 (R310). -/
def execAtomXor (t : Strm) (f : MFmt) (s : State) : Host.Outcome State Fault Refusal := s.atom t 7 f

/-- ATOM.XCHG: FN 8 (R310). -/
def execAtomXchg (t : Strm) (f : MFmt) (s : State) : Host.Outcome State Fault Refusal := s.atom t 8 f

/-- ATOM.CAS: FN 9 (R310). -/
def execAtomCas (t : Strm) (f : MFmt) (s : State) : Host.Outcome State Fault Refusal := s.atom t 9 f

/-- ATOM.FADD: FN 10 (R310). -/
def execAtomFadd (t : Strm) (f : MFmt) (s : State) : Host.Outcome State Fault Refusal := s.atom t 10 f

/-! ## Barriers (R288 to R290, R305) -/

/-- The lost-store flags of active threads cleared. -/
def State.clearLost (s : State) (t : Strm) (lanes : List Nat) : State :=
  match t with
  | .se c => s.updCore c (fun k => { k with se := { k.se with lost := none } })
  | .ve g =>
    match s.group g.core g.slot.toNat with
    | some x => s.setGroup g.core g.slot.toNat (x.mapLanes lanes (fun _ t => { t with lost := none }))
    | none => s

/-- The lowest active lane whose lost-store flag is set. -/
def State.lostLane (s : State) (t : Strm) (lanes : List Nat) : Nat :=
  match t with
  | .se _ => 0
  | .ve g =>
    match s.group g.core g.slot.toNat with
    | some x => (lanes.find? (fun l => (x.thread l).lost.isSome)).getD 0
    | none => 0

/-- ORD.S and ORD.LS wait for the stream's stores and its core's write-backs; a lost store then raises BARRIER_LOSS and
the flag is cleared (R305). -/
def State.ordStore (s : State) (t : Strm) (fn : Nat) (f : MFmt) : Host.Outcome State Fault Refusal :=
  s.memIssue t (encM 0x25 fn f) [] [] (fn == 2) (fun s pc ls =>
    let c := strmCore t
    if s.storesPending c (strmSlot t) || s.backsPending c then none
    else
      match s.lostOf t ls with
      | some a => (s.clearLost t ls).strmFault t (s.lostLane t ls) pc 0x08 (a &&& mask 0 62)
      | none => some (s.strmNext t ls))

/-- ORD.L: every earlier load and atomic of the stream has been performed (R288). -/
def execOrdL (t : Strm) (f : MFmt) (s : State) : Host.Outcome State Fault Refusal :=
  s.memIssue t (encM 0x25 0 f) [] [] true (fun s _ ls => some (s.strmNext t ls))

/-- ORD.S: every earlier store, and every write-back of CWB and CWBI, has been performed or lost (R288). -/
def execOrdS (t : Strm) (f : MFmt) (s : State) : Host.Outcome State Fault Refusal := s.ordStore t 1 f

/-- ORD.LS: both (R288). -/
def execOrdLs (t : Strm) (f : MFmt) (s : State) : Host.Outcome State Fault Refusal := s.ordStore t 2 f

/-! ## Cache maintenance (R565) -/

/-- The lines that a range of one translated page covers; none where the page cannot be in a cache. -/
inductive LineSet where
  | lines (base n : Nat)
  | skip
  | fault (code : Nat) (detail : W64)
  | wait
deriving DecidableEq, Repr

/-- Whether the leaf of an address is cacheable. -/
def State.leafCaches (s : State) (c : CoreNum) (va : Nat) : Bool :=
  match (s.findLeaf (some c) (s.ownerNiche c) va).1 with
  | .ok (_, _, e) => bit e 4
  | .error _ => false

/-- A part of a range that lies in one 64 KiB unit: its lines. -/
def State.linesFor (s : State) (c : CoreNum) (va n : Nat) (k : AccKind) (icache : Bool) : LineSet × State :=
  match s.translate (some c) (s.ownerNiche c) va k with
  | (.ok t cache, s) =>
    (if cache || (icache && s.leafCaches c va) then
      (match t with
       | .host _ => .skip
       | t => .lines (s.lineOf t) (n + t.addr % 64))
     else .skip, s)
  | (.fault code, s) => (.fault code (vaDetail va k), s)
  | (.wait, s) => (.wait, s)

/-- Every page of a range translated in ascending address before anything is done: a page without a translation comes before one
that may not be written, wherever it lies (R565). -/
def State.rangeLines (s : State) (c : CoreNum) (k : AccKind) (icache : Bool) :
    Nat → Nat → Nat → List (Nat × Nat) → Option (Option (Nat × W64)) → (Except (Option (Nat × W64)) (List (Nat × Nat))) × State
  | 0, _, _, acc, bad => ((match bad with | some e => .error e | none => .ok acc), s)
  | fuel + 1, va, n, acc, bad =>
    if n = 0 then ((match bad with | some e => .error e | none => .ok acc), s)
    else
      let m := min n (0x1_0000 - va % 0x1_0000)
      match s.linesFor c va m k icache with
      | (.lines b len, s) => State.rangeLines s c k icache fuel (va + m) (n - m) (acc ++ [(b, len)]) bad
      | (.skip, s) => State.rangeLines s c k icache fuel (va + m) (n - m) acc bad
      | (.fault 2 d, s) => (.error (some (2, d)), s)
      | (.fault code d, s) =>
        State.rangeLines s c k icache fuel (va + m) (n - m) acc (match bad with | some (some e) => some (some e) | _ => some (some (code, d)))
      | (.wait, s) => State.rangeLines s c k icache fuel (va + m) (n - m) acc (if bad.isSome then bad else some none)

/-- Whether a line lies in some of the ranges. -/
def inRanges (rs : List (Nat × Nat)) (line : Nat) : Bool := rs.any (fun r => overlaps line 64 r.1 r.2)

/-- The kind of access that a cache operation is: only CINV of data can discard a store (R565). -/
def cacheKind (fn : Nat) (icache : Bool) : AccKind := if fn = 1 ∧ icache = false then .inval else .touch

/-- A line operation of each lane, each line translated and checked on its own: the first lane that faults, or the ranges. -/
def State.laneLines (s : State) (c : CoreNum) (k : AccKind) (icache : Bool) (vas : List (Nat × Nat)) :
    (Except (Option (Nat × Nat × W64)) (List (Nat × Nat))) × State :=
  vas.foldl (fun r v =>
    match r.1 with
    | .error e => (.error e, r.2)
    | .ok acc =>
      match r.2.rangeLines c k icache 1 (v.2 / 64 * 64) 64 acc none with
      | (.ok acc, s) => (.ok acc, s)
      | (.error (some (code, d)), s) => (.error (some (v.1, code, d)), s)
      | (.error none, s) => (.error none, s)) (.ok [], s)

/-- The lines that a cache operation of some lanes acts on, or its exception: the whole cache, a range, or a line of each lane. -/
def State.cacheLines (s : State) (t : Strm) (fn : Nat) (f : MFmt) (ls : List Nat) :
    (Except (Option (Nat × Nat × W64)) (Nat → Bool)) × State :=
  let c := strmCore t
  let k := cacheKind fn f.sx
  let va (l : Nat) : Nat := (s.base t l false f.src1 + f.off.signExtend 64).toNat
  if f.size == 2 then (.ok (fun _ => true), s)
  else if f.size == 1 then
    let l := ls.headD 0
    let n := (s.operand t l 2 f.src2).toNat
    match s.rangeLines c k f.sx (n / 0x1_0000 + 2) (va l) n [] none with
    | (.ok rs, s) => (.ok (inRanges rs), s)
    | (.error (some (code, d)), s) => (.error (some (l, code, d)), s)
    | (.error none, s) => (.error none, s)
  else
    match s.laneLines c k f.sx (ls.map (fun l => (l, va l))) with
    | (.ok rs, s) => (.ok (inRanges rs), s)
    | (.error e, s) => (.error e, s)

/-- CWB 0, CINV 1 or CWBI 2 on the lines that satisfy a predicate, as far as it can go: it is over when every write-back has been
acknowledged. -/
def State.cacheDo (s : State) (c : CoreNum) (isVe : Bool) (fn : Nat) (icache : Bool) (p : Nat → Bool) : Bool × State :=
  if icache then (true, s.updCore c (fun k => { k with ic := { k.ic with lines := k.ic.lines.filter (fun x => !p x.2.addr), loose := none } }))
  else if fn = 1 then (true, s.dropLines c p)
  else
    let s := s.cleanLines c (.engine isVe) p
    if s.cleaned c (.engine isVe) p then (true, if fn = 0 then s else s.dropLines c p) else (false, s)

/-- OP 0x26. -/
def State.cacheOp (s : State) (t : Strm) (fn : Nat) (f : MFmt) : Host.Outcome State Fault Refusal :=
  let c := strmCore t
  let reads := if f.size == 2 then [] else addrReads t { f with space := false } ++ (if f.size == 1 then [(fileOf t, f.src2.toNat)] else [])
  let waits (s : State) : Bool := (s.core c).dc.shut || ((s.core c).buffer (strmSlot t)).any (fun e => e.slot == strmSlot t)
  s.memIssue t (encM 0x26 fn f) reads [] true
    (fun s pc ls =>
      if waits s then none
      else
        match s.cacheLines t fn f ls with
        | (.ok p, s) =>
          match s.cacheDo c (strmVe t) fn f.sx p with
          | (true, s) => some (s.strmNext t ls)
          | (false, _) => none
        | (.error (some (lane, code, d)), s) => s.strmFault t lane pc code d
        | (.error none, _) => none)
    (fun s ls =>
      if waits s then s
      else
        match s.cacheLines t fn f ls with
        | (.ok p, s) => (s.cacheDo c (strmVe t) fn f.sx p).2
        | _ => s)

/-- CWB: dirty lines written back. -/
def execCwb (t : Strm) (f : MFmt) (s : State) : Host.Outcome State Fault Refusal := s.cacheOp t 0 f

/-- CINV: lines dropped without write-back, of the data or of the instruction cache. -/
def execCinv (t : Strm) (f : MFmt) (s : State) : Host.Outcome State Fault Refusal := s.cacheOp t 1 f

/-- CWBI: lines written back, then dropped. -/
def execCwbi (t : Strm) (f : MFmt) (s : State) : Host.Outcome State Fault Refusal := s.cacheOp t 2 f

/-! ## Hints (R139, R272, R273) -/

/-- OP 0x27: the hint joins the niche's queue of 256, or is dropped and counted. -/
def State.hint (s : State) (t : Strm) (fn : Nat) (f : MFmt) : Host.Outcome State Fault Refusal :=
  s.memIssue t (encM 0x27 fn f) (addrReads t f ++ [(fileOf t, f.src2.toNat)]) [] true (fun s _ ls =>
    let c := strmCore t
    let n := s.ownerNiche c
    let l := ls.headD 0
    let h : Hint := { fn := BitVec.ofNat 5 fn, va := (s.base t l false f.src1 + f.off.signExtend 64).toNat,
                      len := (s.operand t l 2 f.src2).toNat, region := regionOf c }
    let s := if 256 ≤ (s.niche n).hints.length then
        { s with place := { s.place with hintsDropped := satAdd s.place.hintsDropped 1 } }
      else s.updNiche n (fun x => { x with hints := x.hints ++ [h] })
    some (s.strmNext t ls))

/-- HINT HOT: FN 0. -/
def execHot (t : Strm) (f : MFmt) (s : State) : Host.Outcome State Fault Refusal := s.hint t 0 f

/-- HINT COLD: FN 1. -/
def execCold (t : Strm) (f : MFmt) (s : State) : Host.Outcome State Fault Refusal := s.hint t 1 f

/-- HINT WILL_NEED: FN 2. -/
def execWillNeed (t : Strm) (f : MFmt) (s : State) : Host.Outcome State Fault Refusal := s.hint t 2 f

/-- HINT DONT_NEED: FN 3. -/
def execDontNeed (t : Strm) (f : MFmt) (s : State) : Host.Outcome State Fault Refusal := s.hint t 3 f

/-- HINT TIER_SHELF: FN 4. -/
def execTierShelf (t : Strm) (f : MFmt) (s : State) : Host.Outcome State Fault Refusal := s.hint t 4 f

/-- HINT TIER_HBM: FN 5. -/
def execTierHbm (t : Strm) (f : MFmt) (s : State) : Host.Outcome State Fault Refusal := s.hint t 5 f

/-- HINT TIER_BULK: FN 6. -/
def execTierBulk (t : Strm) (f : MFmt) (s : State) : Host.Outcome State Fault Refusal := s.hint t 6 f

/-- HINT TIER_REMOTE: FN 7. -/
def execTierRemote (t : Strm) (f : MFmt) (s : State) : Host.Outcome State Fault Refusal := s.hint t 7 f

/-- HINT PIN: FN 8. -/
def execPin (t : Strm) (f : MFmt) (s : State) : Host.Outcome State Fault Refusal := s.hint t 8 f

/-- HINT UNPIN: FN 9. -/
def execUnpin (t : Strm) (f : MFmt) (s : State) : Host.Outcome State Fault Refusal := s.hint t 9 f

/-- HINT NEAR: FN 10. -/
def execNear (t : Strm) (f : MFmt) (s : State) : Host.Outcome State Fault Refusal := s.hint t 10 f

end Sys2Proof.Machine
end

