-- ==== Sys2Proof/Machine/Vector.lean ====
section
/-! DEFINITION. Vector integer, float, conversion, transcendental and cross-lane instructions, OP 0x08 to 0x0F. -/

namespace Sys2Proof.Machine

/-- The vector registers that an instruction names in SRC1 and SRC2. -/
def vReads (f : RFmt) : List (Nat × Nat) := [(1, f.src1.toNat), (1, f.src2.toNat)]

/-- A register of a lane as a number. -/
def Group.num (x : Group) (l : Nat) (r : Byte) : Nat := (x.reg l r.toNat).toNat

/-- The 32-bit word of a result. -/
def w32 (r : Nat × Byte) : W32 × Byte := (BitVec.ofNat 32 r.1, r.2)

/-! ## Integer (OP 0x08, 0x09, 0x0B, 0x0F) -/

/-- VALU: FN 0 to 14 as OP 0x01 on 32 bits, and SEL with pC of each thread. A word with FN 16 to 18 is another row's. -/
def execValu (g : VeAt) (fn : BitVec 5) (f : RFmt) (s : State) : Host.Outcome State Fault Refusal :=
  let w := encR 8 fn.toNat f
  if fn = 15 then
    s.veLanes g w (vReads f ++ [(2, f.src3.toNat)]) f.dst.toNat (fun x l =>
      (if predOf (x.thread l).preds f.src3.toNat then x.reg l f.src1.toNat else x.reg l f.src2.toNat, 0))
  else if 16 ≤ fn.toNat ∧ fn.toNat ≤ 18 then .next s
  else s.veLanes g w (vReads f) f.dst.toNat (fun x l =>
    w32 (intOp 32 fn.toNat (f.sat == 1) (x.num l f.src1) (x.num l f.src2)))

/-- VALUI: as VALU with IMM. -/
def execValui (g : VeAt) (fn : BitVec 5) (f : IFmt) (s : State) : Host.Outcome State Fault Refusal :=
  s.veLanes g (encI 9 fn.toNat f) [(1, f.src1.toNat)] f.dst.toNat (fun x l =>
    w32 (intOp 32 fn.toNat false (x.num l f.src1) (immFor 32 fn.toNat f.imm)))

/-- The two registers of a pair. -/
def pairRegs (r : Byte) : List (Nat × Nat) := [(1, r.toNat), (1, r.toNat + 1)]

/-- ADDP: 64-bit add of pairs. -/
def execAddp (g : VeAt) (f : RFmt) (s : State) : Host.Outcome State Fault Refusal :=
  s.veIssue g (encR 8 16 f) (pairRegs f.src1 ++ pairRegs f.src2) [f.dst.toNat, f.dst.toNat + 1] false (fun s x _ act =>
    some (s.veNext g (x.writePairs act f.dst.toNat (fun l => x.pair l f.src1.toNat + x.pair l f.src2.toNat)) act))

/-- POPC: the count of ones. -/
def execPopc (g : VeAt) (f : RFmt) (s : State) : Host.Outcome State Fault Refusal :=
  s.veLanes g (encR 8 17 f) [(1, f.src1.toNat)] f.dst.toNat (fun x l => (BitVec.ofNat 32 (ones 32 (x.num l f.src1)).length, 0))

/-- CLZ: the count of leading zeros. -/
def execClz (g : VeAt) (f : RFmt) (s : State) : Host.Outcome State Fault Refusal :=
  s.veLanes g (encR 8 18 f) [(1, f.src1.toNat)] f.dst.toNat (fun x l => (BitVec.ofNat 32 (32 - bitLen (x.num l f.src1)), 0))

/-- VCMP: integer comparison into pD. A word with FN 8 to 11 is another row's. -/
def execVcmp (g : VeAt) (fn : BitVec 5) (f : RFmt) (s : State) : Host.Outcome State Fault Refusal :=
  if 8 ≤ fn.toNat ∧ fn.toNat ≤ 11 then .next s
  else s.vePreds g (encR 0xB fn.toNat f) (vReads f) f.dst.toNat (fun x l =>
    intCmp 32 fn.toNat (x.num l f.src1) (x.num l f.src2))

/-- VLI: vD takes IMM. -/
def execVli (g : VeAt) (f : IFmt) (s : State) : Host.Outcome State Fault Refusal :=
  s.veLanes g (encI 0xF 0 f) [] f.dst.toNat (fun _ _ => (f.imm, 0))

/-! ## Float (OP 0x0A, 0x0B, 0x0C) -/

/-- SR_SEED of the running launch entry (table Engine entry). -/
def Ve.seed (e : Ve) : W64 := match e.entry with | some x => x.word2 | none => 0

/-- BLOCK of a group. -/
def State.blockOf (s : State) (c : CoreNum) (x : Group) : Nat := (Sparse.getD (s.core c).ve.blocks x.blockSlot {}).block

/-- THREAD of a lane (R103). -/
def Group.threadNo (x : Group) (l : Nat) : Nat := x.index * 32 + l

/-- How element i of an instruction rounds in a lane (R159, R160). -/
def State.laneMode (s : State) (c : CoreNum) (x : Group) (f : RFmt) (l i : Nat) : RMode :=
  { rnd := f.rnd.toNat, sat := f.sat == 1, flush := f.flush,
    r := if f.rnd = 2 then
        srBits (s.core c).ve.seed (s.blockOf c x * 1024 + x.threadNo l) (((x.thread l).srCount.toNat + i) % 2 ^ 48)
      else 0 }

/-- The SR counts of lanes advanced by the elements computed under RND SR (R160). -/
def Group.srAdvance (x : Group) (lanes : List Nat) (f : RFmt) (n : Nat) : Group :=
  if f.rnd = 2 then x.mapLanes lanes (fun _ t => { t with srCount := t.srCount + BitVec.ofNat 48 n }) else x

/-- Elements of a register: two for H16 and W16 (R152). -/
def elements (fmt : Nat) : Nat := if fmt == 0xC then 1 else 2

/-- A rounding instruction of the VE: the element function is applied to each element of each active lane. -/
def State.veRound (s : State) (g : VeAt) (w : W64) (reads : List (Nat × Nat)) (f : RFmt) (n : Nat)
    (op : Group → Nat → (Nat → RMode) → W32 × Byte) : Host.Outcome State Fault Refusal :=
  s.veIssue g w reads [f.dst.toNat] false (fun s x _ act =>
    let r := act.map (fun l => (l, op x l (s.laneMode g.core x f l)))
    let fl := r.foldl (fun a p => a ||| p.2.2) (0 : Byte)
    let y := r.foldl (fun y p => y.setReg p.1 f.dst.toNat p.2.1) x
    some ((s.veFlags g.core fl).veNext g (y.srAdvance act f n) act))

/-- OP 0x0A FN 0 to 3. -/
def State.vfpu (s : State) (g : VeAt) (fn : Nat) (f : RFmt) : Host.Outcome State Fault Refusal :=
  let fmt := f.fmt.toNat
  let reads := vReads f ++ (if fn == 3 then [(1, f.src3.toNat)] else [])
  s.veRound g (encR 0xA fn f) reads f (elements fmt) (fun x l k =>
    w32 (perElement fmt (fun i a =>
      floatOp fmt fn (k i) a (element fmt i (x.num l f.src2)) (element fmt i (x.num l f.src3))) (x.num l f.src1)))

/-- FADD: a + b, one rounding. -/
def execFadd (g : VeAt) (f : RFmt) (s : State) : Host.Outcome State Fault Refusal := s.vfpu g 0 f

/-- FSUB: a − b, one rounding. -/
def execFsub (g : VeAt) (f : RFmt) (s : State) : Host.Outcome State Fault Refusal := s.vfpu g 1 f

/-- FMUL: a × b, one rounding. -/
def execFmul (g : VeAt) (f : RFmt) (s : State) : Host.Outcome State Fault Refusal := s.vfpu g 2 f

/-- FMA: a × b + c, one rounding. -/
def execFma (g : VeAt) (f : RFmt) (s : State) : Host.Outcome State Fault Refusal := s.vfpu g 3 f

/-- OP 0x0A FN 4 and 5 (R170). -/
def State.vminmax (s : State) (g : VeAt) (isMax : Bool) (f : RFmt) : Host.Outcome State Fault Refusal :=
  let fmt := f.fmt.toNat
  s.veLanes g (encR 0xA (if isMax then 5 else 4) f) (vReads f) f.dst.toNat (fun x l =>
    w32 (perElement fmt (fun i a => fminmax fmt isMax f.flush a (element fmt i (x.num l f.src2))) (x.num l f.src1)))

/-- FMIN. -/
def execFmin (g : VeAt) (f : RFmt) (s : State) : Host.Outcome State Fault Refusal := s.vminmax g false f

/-- FMAX. -/
def execFmax (g : VeAt) (f : RFmt) (s : State) : Host.Outcome State Fault Refusal := s.vminmax g true f

/-- OP 0x0A FN 6 and 7 (R154). -/
def State.vsign (s : State) (g : VeAt) (fn : Nat) (f : RFmt) : Host.Outcome State Fault Refusal :=
  let fmt := f.fmt.toNat
  s.veLanes g (encR 0xA fn f) [(1, f.src1.toNat)] f.dst.toNat (fun x l =>
    w32 (perElement fmt (fun _ a => (signOp fmt fn a, 0)) (x.num l f.src1)))

/-- FABS: the sign bit cleared. -/
def execFabs (g : VeAt) (f : RFmt) (s : State) : Host.Outcome State Fault Refusal := s.vsign g 6 f

/-- FNEG: the sign bit inverted. -/
def execFneg (g : VeAt) (f : RFmt) (s : State) : Host.Outcome State Fault Refusal := s.vsign g 7 f

/-- VCMP.FEQ, FLT, FLE, FUN: the low elements compared into pD (R171). A word with FN 0 to 5 is another row's. -/
def execVcmpFloat (g : VeAt) (fn : BitVec 5) (f : RFmt) (s : State) : Host.Outcome State Fault Refusal :=
  let fmt := f.fmt.toNat
  let low (v : Nat) : Nat := v % 2 ^ fmtWidth fmt
  if fn.toNat ≤ 5 then .next s
  else s.vePreds g (encR 0xB fn.toNat f) (vReads f) f.dst.toNat (fun x l =>
    fcompare (fn.toNat - 8) fmt (low (x.num l f.src1)) (low (x.num l f.src2)))

/-- A converted code in a register: I4, I8 and I16 sign-extended, every other format zero-extended (CVT). -/
def placeCode (fmt c : Nat) : W32 :=
  match intOf fmt with
  | some (n, true) => BitVec.ofInt 32 (sextI n c)
  | _ => BitVec.ofNat 32 c

/-- CVT: vA converted from FMT2 to FMT (R166 to R168). -/
def execCvt (g : VeAt) (f : RFmt) (s : State) : Host.Outcome State Fault Refusal :=
  let src := f.fmt2.toNat
  let dst := f.fmt.toNat
  s.veRound g (encR 0xC 0 f) [(1, f.src1.toNat)] f 1 (fun x l k =>
    let r := convert dst src (k 0) (x.num l f.src1 % 2 ^ fmtWidth src)
    (placeCode dst r.1, r.2))

/-! ## The transcendental unit (OP 0x0D) -/

/-- A transcendental instruction enters the unit in slices of eight lanes; a slice with no active lane is skipped (R94). -/
def State.vxf (s : State) (g : VeAt) (fn : Nat) (f : RFmt) : Host.Outcome State Fault Refusal :=
  s.veIssue g (encR 0xD fn f) [(1, f.src1.toNat)] [f.dst.toNat] false (fun s x _ act =>
    let slices := (List.range 4).filterMap (fun k =>
      let ls := act.filter (fun l => l / 8 == k)
      let rs := ls.map (fun l => (l, transcendental fn (x.num l f.src1)))
      if ls.isEmpty then none
      else some ({ slot := g.slot, dst := f.dst, results := rs.map (fun r => (r.1, BitVec.ofNat 32 r.2.1)),
                   flags := rs.foldl (fun a r => a ||| r.2.2) 0 } : XfSlice))
    some ((s.updCore g.core (fun k => { k with ve := { k.ve with xf := k.ve.xf ++ slices } })).veNext g
      (Sparse.getD (s.core g.core).ve.groups g.slot.toNat x) act))

/-- RCP. -/
def execRcp (g : VeAt) (f : RFmt) (s : State) : Host.Outcome State Fault Refusal := s.vxf g 0 f

/-- RSQ. -/
def execRsq (g : VeAt) (f : RFmt) (s : State) : Host.Outcome State Fault Refusal := s.vxf g 1 f

/-- SQRT. -/
def execSqrt (g : VeAt) (f : RFmt) (s : State) : Host.Outcome State Fault Refusal := s.vxf g 2 f

/-- EXP2. -/
def execExp2 (g : VeAt) (f : RFmt) (s : State) : Host.Outcome State Fault Refusal := s.vxf g 3 f

/-- LOG2. -/
def execLog2 (g : VeAt) (f : RFmt) (s : State) : Host.Outcome State Fault Refusal := s.vxf g 4 f

/-- SINPI. -/
def execSinpi (g : VeAt) (f : RFmt) (s : State) : Host.Outcome State Fault Refusal := s.vxf g 5 f

/-- COSPI. -/
def execCospi (g : VeAt) (f : RFmt) (s : State) : Host.Outcome State Fault Refusal := s.vxf g 6 f

/-- TRANSCENDENTAL_RESULT: the results of the slice that entered first are written, with their flags (R94). -/
def execTranscendentalResult (c : CoreNum) (s : State) : Host.Outcome State Fault Refusal :=
  match (s.core c).ve.xf with
  | [] => .next s
  | x :: xs =>
    if !s.clocked c then .next s
    else
      let s := (s.updCore c (fun k => { k with ve := { k.ve with xf := xs } })).veFlags c x.flags
      match s.group c x.slot.toNat with
      | some y => .next (s.setGroup c x.slot.toNat (x.results.foldl (fun y r => y.setReg r.1 x.dst.toNat r.2) y))
      | none => .next s

/-! ## Cross-lane (OP 0x0E) -/

/-- SHFL: vA of lane vB mod 32, whatever that lane's state. -/
def execShfl (g : VeAt) (f : RFmt) (s : State) : Host.Outcome State Fault Refusal :=
  s.veLanes g (encR 0xE 0 f) (vReads f) f.dst.toNat (fun x l => (x.reg (x.num l f.src2 % 32) f.src1.toNat, 0))

/-- BCAST: vA of the lowest active lane. -/
def execBcast (g : VeAt) (f : RFmt) (s : State) : Host.Outcome State Fault Refusal :=
  s.veIssue g (encR 0xE 1 f) [(1, f.src1.toNat)] [f.dst.toNat] false (fun s x _ act =>
    some (s.veNext g (x.writeLanes act f.dst.toNat (fun _ => x.reg (act.headD 0) f.src1.toNat)) act))

/-- BALLOT: the mask of active lanes whose pA is 1. -/
def execBallot (g : VeAt) (f : RFmt) (s : State) : Host.Outcome State Fault Refusal :=
  s.veIssue g (encR 0xE 2 f) [(2, f.src1.toNat)] [f.dst.toNat] false (fun s x _ act =>
    let m := act.foldl (fun a l => a + (if predOf (x.thread l).preds f.src1.toNat then 2 ^ l else 0)) 0
    some (s.veNext g (x.writeLanes act f.dst.toNat (fun _ => BitVec.ofNat 32 m)) act))

/-- THREADS and BLOCKS of a launch entry (table Engine entry, word 3). -/
def EngineEntry.threads (e : EngineEntry) : Nat := fld e.word3 24 10 + 1

def EngineEntry.blocks (e : EngineEntry) : Nat := fld e.word3 0 24 + 1

/-- ID: LANE, GROUP, THREAD, BLOCK, BLOCK_BASE, THREADS or BLOCKS (R103). -/
def execId (g : VeAt) (f : RFmt) (s : State) : Host.Outcome State Fault Refusal :=
  let ve := (s.core g.core).ve
  s.veLanes g (encR 0xE 3 f) [] f.dst.toNat (fun x l =>
    let b := Sparse.getD ve.blocks x.blockSlot {}
    let v : Nat := match f.src2.toNat with
      | 0 => l
      | 1 => x.index
      | 2 => x.threadNo l
      | 3 => b.block
      | 4 => b.base
      | 5 => match ve.entry with | some e => e.threads | none => 0
      | _ => match ve.entry with | some e => e.blocks | none => 0
    (BitVec.ofNat 32 v, 0))

end Sys2Proof.Machine
end

