-- ==== Sys2Proof/Machine/Quant.lean ====
section
/-! DEFINITION. The quantising instructions QCVT and QST, OP 0x38 and 0x39 (07_narrow_arithmetic.md R177, R182 to R189). -/

namespace Sys2Proof.Machine

/-! ## One element (R182, R183) -/

/-- The exact quotient x ÷ s of a finite value by the scale of a BS8 code, with a last bit, below 1 and below
the precision of every destination, that marks a remainder. -/
def quotient (v : FV) (scale : Nat) : FV :=
  match v with
  | .fin b m e =>
    let d := 4 + scale % 4
    let k := 128 + e.toNat
    let q := m * 2 ^ k / d
    let sticky := if m * 2 ^ k % d = 0 then 0 else 1
    .fin b (2 * q + sticky) (e + 34 - (scale / 4 : Nat) - (k + 1))
  | v => v

/-- What quantising one source gives: its code, flags, the source after any flush, and whether it was nonzero before. -/
structure Quantised where
  code : Nat
  flags : Byte
  x : FV
  wasNonzero : Bool
deriving DecidableEq, Repr

/-- One source of format src quantised to dst under a scale code. -/
def quantise (dst src scale : Nat) (k : RMode) (c : Nat) : Quantised :=
  let raw := decodeFmt src c
  let (x, fz) := flushOperand src k.flush raw
  let term := if scale = 0xFF then FV.nan else quotient x scale
  let k := { k with sat := true, quant := true }
  let (code, fl) := match intOf dst with
    | some (n, sg) => floatToInt n sg k term
    | none => fusedTo dst k [[term]]
  { code := code, flags := if term.isNan then fl else fl ||| fz, x := x, wasNonzero := !raw.isZero && !raw.isNan }

/-- A nonzero subnormal code of a short float format. -/
def subnormalCode (fmt code : Nat) : Bool :=
  match fmt with
  | 0x0 => code % 8 == 1
  | 0x1 => code % 32 != 0 && decide (code % 32 < 4)
  | 0x2 => code % 128 != 0 && decide (code % 128 < 8)
  | _ => false

/-! ## The statistics record (R186, R187) -/

/-- |v| as F32 bits, rounded toward zero; the largest finite value past the range, 0x7F80_0000 for an infinity. -/
def absF32 (v : FV) : Nat :=
  match v with
  | .fin _ m e => (fusedTo 0xC { rnd := 1 } [[.fin false m e]]).1
  | .inf _ => 0x7F80_0000
  | .nan => 0

/-- One lane added to the eight fields AMAX, AMAX_SCALED, COUNT_SAT, COUNT_ZERO, COUNT_VOID, COUNT_TOTAL, COUNT_SUB, UPDATES. -/
def statLane (fmt scale : Nat) (f : List Nat) (q : Quantised) : List Nat :=
  let inc (x : Nat) : Nat := min (x + 1) 0xFFFF_FFFF
  match f with
  | [amax, scaled, sat, zer, void, total, sub, upd] =>
    if q.x.isNan || scale == 0xFF then [amax, scaled, sat, zer, inc void, inc total, sub, upd]
    else
      [max amax (absF32 q.x), max scaled (absF32 (quotient q.x scale)), if q.flags &&& flQS != 0 then inc sat else sat,
       if q.wasNonzero && q.code == 0 then inc zer else zer, void, inc total, if subnormalCode fmt q.code then inc sub else sub, upd]
  | f => f

/-- What an instruction whose active lanes gave these results adds to the eight fields. -/
def statAdds (fmt scale : Nat) (qs : List Quantised) : List Nat := qs.foldl (statLane fmt scale) [0, 0, 0, 0, 0, 0, 0, 1]

/-! ## The instructions -/

/-- Registers read: vA, vB, vC, and vD of a QST. -/
def qReads (f : RFmt) (dst : Bool) : List (Nat × Nat) :=
  vReads f ++ [(1, f.src3.toNat)] ++ (if dst then [(1, f.dst.toNat)] else [])

/-- The scale code, from the lowest active lane (R138). -/
def scaleOf (x : Group) (f : RFmt) (act : List Nat) : Nat := x.num (act.headD 0) f.src2 % 256

/-- The results of the active lanes. -/
def State.quantLanes (s : State) (g : VeAt) (x : Group) (f : RFmt) (act : List Nat) : List (Nat × Quantised) :=
  act.map (fun l => (l, quantise f.fmt.toNat f.fmt2.toNat (scaleOf x f act) (s.laneMode g.core x f l 0)
    (x.num l f.src1 % 2 ^ fmtWidth f.fmt2.toNat)))

/-- The flags of some results. -/
def quantFlags (qs : List (Nat × Quantised)) : Byte := qs.foldl (fun a q => a ||| q.2.flags) 0

/-- What is wrong with a record offset: MISALIGNED 4 or DRAWER_RANGE 5 (R184). -/
def recordFault (r : Nat) : Option Nat :=
  if r = 0xFFFF_FFFF then none else if r % 32 ≠ 0 then some 4 else if 0x2_0000 < r + 32 then some 5 else none

/-- DETAIL of such a fault: the drawer address of a misaligned offset. -/
def drawerDetail (c : CoreNum) (code off : Nat) : W64 := if code = 4 then paDetail (drawerBase c + off) else 0

/-- The record's part of a store-buffer entry; none where the offset names no record. -/
def statPart (r fmt scale : Nat) (qs : List Quantised) : Option (Nat × List Nat) :=
  if r = 0xFFFF_FFFF then none else some (r, statAdds fmt scale qs)

/-- QCVT: each active lane's code in vD; the update of the record takes an entry of the store buffer (R300). -/
def execQcvt (g : VeAt) (f : RFmt) (s : State) : Host.Outcome State Fault Refusal :=
  s.veIssue g (encR 0x38 0 f) (qReads f false) [f.dst.toNat] false (fun s x pc act =>
    let l := act.headD 0
    let r := x.num l f.src3
    match recordFault r with
    | some code => s.veFault g x l pc code (drawerDetail g.core code r)
    | none =>
      if r ≠ 0xFFFF_FFFF ∧ (s.heldBack g.core (some g.slot) || !s.bufferRoom g.core (some g.slot)) then none
      else
        let qs := s.quantLanes g x f act
        let y := qs.foldl (fun y q => y.setReg q.1 f.dst.toNat (BitVec.ofNat 32 q.2.code)) x
        let s := (s.veFlags g.core (quantFlags qs)).veNext g (y.srAdvance act f 1) act
        some (match statPart r f.fmt.toNat (scaleOf x f act) (qs.map (·.2)) with
          | some p => s.bufferPut (.ve g) pc { slot := none, lanes := [], all := true, stat := some p }
          | none => s))

/-- What is wrong with a QST (R184): an exception code and the offset at fault. -/
def qstFault (fmt addr r : Nat) : Option (Nat × Nat) :=
  let t := addr % 0x2_0000
  let b := addr / 2 ^ 24 % 32
  let n := 4 * fmtWidth fmt
  if t % 32 ≠ 0 then some (4, t)
  else if r ≠ 0xFFFF_FFFF ∧ r % 32 ≠ 0 then some (4, r)
  else if addr / 2 ^ 17 % 128 ≠ 0 ∨ addr / 2 ^ 29 % 8 ≠ 0 ∨ 0x2_0000 < t + b * n + n ∨ 0x2_0000 < t + 32 * n + b + 1 ∨
      (recordFault r).isSome then some (5, t)
  else none

/-- 32 codes as they are packed (R151). -/
def packCodes (w : Nat) (codes : List Nat) : List Byte :=
  leBytes (4 * w) (codes.foldr (fun c a => a * 2 ^ w + c % 2 ^ w) 0)

/-- QST: the block's codes, its scale byte and the record, in that order (R185), in one entry of the store buffer (R300). -/
def execQst (g : VeAt) (f : RFmt) (s : State) : Host.Outcome State Fault Refusal :=
  s.veIssue g (encR 0x39 0 f) (qReads f true) [] false (fun s x pc act =>
    let l := act.headD 0
    let fmt := f.fmt.toNat
    let r := x.num l f.src3
    let addr := x.num l f.dst
    let n := 4 * fmtWidth fmt
    let codesAt := addr % 0x2_0000 + addr / 2 ^ 24 % 32 * n
    let scaleAt := addr % 0x2_0000 + 32 * n + addr / 2 ^ 24 % 32
    match qstFault fmt addr r with
    | some (code, off) => s.veFault g x l pc code (drawerDetail g.core code off)
    | none =>
      if s.heldBack g.core (some g.slot) || !s.bufferRoom g.core (some g.slot) then none
      else
        let qs := s.quantLanes g x f act
        let codes := (List.range 32).map (fun i => ((qs.find? (fun q => q.1 == i)).map (·.2.code)).getD 0)
        let base := drawerBase g.core
        let part (at_ : Nat) (bs : List Byte) : LaneAcc := { lane := l, va := 2 ^ 58, tgt := .dev (base + at_), cache := false, bytes := bs }
        let s := (s.veFlags g.core (quantFlags qs)).veNext g (x.srAdvance act f 1) act
        some (s.bufferPut (.ve g) pc
          { slot := none, all := true, stat := statPart r fmt (scaleOf x f act) (qs.map (·.2))
            lanes := [part codesAt (packCodes (fmtWidth fmt) codes), part scaleAt [BitVec.ofNat 8 (scaleOf x f act)]] }))

end Sys2Proof.Machine
end

