-- ==== Sys2Proof/Machine/Matrix.lean ====
section
/-! DEFINITION. Matrix commands: MULTIPLY, DRAIN, FLAGS, SPILL and RESUME, their chunks, drains and completion
(R176 to R181, R191 to R193, R195 to R228, R237 to R245). Commands overlap as R216, R220, R231, R232 and R241 let them: the next
one starts behind the last chunk of the one before, and drains read and write row by row behind the steps. -/

namespace Sys2Proof.Machine

/-! ## Fields of a command (tables Matrix command, SPILL and RESUME fields) -/

def FifoCmd.kind (f : FifoCmd) : Nat := fld f.lo 0 4
def FifoCmd.tile (f : FifoCmd) : Bool := bit f.lo 4
def FifoCmd.acc (f : FifoCmd) : Bool := bit f.lo 5
def FifoCmd.drains (f : FifoCmd) : Bool := bit f.lo 6
def FifoCmd.audit (f : FifoCmd) : Bool := bit f.lo 7
def FifoCmd.fmtA (f : FifoCmd) : Nat := fld f.lo 8 4
def FifoCmd.fmtB (f : FifoCmd) : Nat := fld f.lo 12 4
def FifoCmd.aOff (f : FifoCmd) : Nat := fld f.lo 16 12 * 32
def FifoCmd.bOff (f : FifoCmd) : Nat := fld f.lo 28 12 * 32
def FifoCmd.rows (f : FifoCmd) : Nat := fld f.lo 40 7 + 1
def FifoCmd.cols (f : FifoCmd) : Nat := fld f.lo 47 5 + 1
def FifoCmd.flush (f : FifoCmd) : Bool := bit f.lo 52
def FifoCmd.waitSem (f : FifoCmd) : Nat := fld f.lo 53 6
def FifoCmd.waitEn (f : FifoCmd) : Bool := bit f.lo 59
def FifoCmd.cplx (f : FifoCmd) : Nat := fld f.lo 60 2
def FifoCmd.count (f : FifoCmd) : Nat := fld f.hi 0 16
def FifoCmd.grant (f : FifoCmd) : Nat := fld f.hi 0 2
def FifoCmd.quarter (f : FifoCmd) : Nat := fld f.hi 2 2
def FifoCmd.outOff (f : FifoCmd) : Nat := fld f.hi 16 14 * 8
def FifoCmd.fmtOut (f : FifoCmd) : Nat := fld f.hi 30 4
def FifoCmd.rnd (f : FifoCmd) : Nat := fld f.hi 34 3
def FifoCmd.sat (f : FifoCmd) : Nat := fld f.hi 37 2
def FifoCmd.paramOff (f : FifoCmd) : Nat := fld f.hi 39 12 * 32
def FifoCmd.sigSem (f : FifoCmd) : Nat := fld f.hi 51 6
def FifoCmd.sigEn (f : FifoCmd) : Bool := bit f.hi 57

/-- Fields of the drain record: its 32 bytes as four words. -/
def recWord (r : List Byte) (i : Nat) : W64 := BitVec.ofNat 64 (leNat ((r.drop (8 * i)).take 8))
def recPitch (r : List Byte) : Nat := fld (recWord r 1) 0 17
def recScale (r : List Byte) : Nat := fld (recWord r 1) 17 8
def recStats (r : List Byte) : Option Nat := if bit (recWord r 1) 42 then some (fld (recWord r 1) 25 17) else none

/-! ## Operands in the drawer (R177, R178, R197, R198) -/

/-- A block format (R176). -/
def isBlockFmt (fmt : Nat) : Bool := decide (fmt < 8)

/-- Bytes of a block's codes, or of 32 long elements. -/
def blockLen (fmt : Nat) : Nat := 4 * fmtWidth fmt

/-- Bytes of a tray (table Tray sizes). -/
def trayLen (fmt : Nat) : Nat := 32 * blockLen fmt + 32

/-- Offsets of block j's codes and, in a block format, of its scale byte. -/
def blockAt (fmt off j : Nat) : Nat × Option Nat :=
  if isBlockFmt fmt then
    let t := off + j / 32 * trayLen fmt
    (t + j % 32 * blockLen fmt, some (t + 32 * blockLen fmt + j % 32))
  else (off + blockLen fmt * j, none)

/-- M′ of R197. -/
def padRows (m : Nat) : Nat := 32 * ceilDiv m 32

/-- The extent P of one part of k reduction blocks of `stride` rows (R198, R215): whole trays, or every block. -/
def partLen (fmt k stride : Nat) : Nat := if isBlockFmt fmt then k * stride / 32 * trayLen fmt else blockLen fmt * (k * stride)

/-- Parts of each operand by CPLX. -/
def partsOf (cplx : Nat) : Nat := if cplx = 0 then 1 else if cplx = 1 then 2 else 3

/-! ## Checks when a command starts (R204, R217, R242) -/

/-- The operand format pairs of the table Matrix rates. -/
def pairOk (a b : Nat) : Bool := (isBlockFmt a && isBlockFmt b) || (a == b && isFl a)

/-- The output formats of a drain; X80 only for RESUME. -/
def outOk (fmt : Nat) (x80 : Bool) : Bool := isBlockFmt fmt || isFl fmt || fmt == 0xD || (x80 && fmt == 0xE)

/-- The fields of a drain hold what R217 accepts. -/
def FifoCmd.drainFields (f : FifoCmd) : Bool :=
  outOk f.fmtOut (f.kind == 4) && decide (f.rnd ≤ 2) && decide (f.sat ≤ 1) &&
    ((f.fmtOut != 0xD && f.fmtOut != 0xE) || (f.rnd == 0 && f.sat == 0)) && (!isBlockFmt f.fmtOut || f.outOff % 32 == 0)

/-- The fields of a drain are zero. -/
def FifoCmd.noDrain (f : FifoCmd) : Bool := fld f.hi 16 35 == 0

/-- A part of the word is zero. -/
def loZero (f : FifoCmd) (lo n : Nat) : Bool := fld f.lo lo n == 0

/-- Whether a command's own fields are valid: no byte of an operand part lies beyond the drawer, each part its whole extent P. -/
def FifoCmd.fieldsOk (f : FifoCmd) : Bool :=
  loZero f 62 2 && fld f.hi 58 6 == 0 &&
  match f.kind with
  | 0 =>
    let k := f.count
    pairOk f.fmtA f.fmtB && k != 0 && f.cplx != 3 && !(f.audit && (!isBlockFmt f.fmtA || f.cols == 32)) &&
      !(f.cplx != 0 && f.tile) && (if f.drains then f.drainFields else f.noDrain) &&
      decide (f.aOff + partsOf f.cplx * partLen f.fmtA k (padRows f.rows) ≤ 0x2_0000) &&
      decide (f.bOff + partsOf f.cplx * partLen f.fmtB k 32 ≤ 0x2_0000)
  | 1 => loZero f 5 3 && loZero f 8 32 && f.cplx == 0 && f.count == 0 && f.drainFields
  | 2 => loZero f 4 49 && f.cplx == 0 && fld f.hi 8 8 == 0 && fld f.hi 30 21 == 0
  | 3 => !f.drains && !f.audit && loZero f 8 32 && !f.flush && f.cplx == 0 && fld f.hi 4 12 == 0 && f.noDrain
  | 4 =>
    !f.audit && loZero f 8 32 && f.cplx == 0 && fld f.hi 4 12 == 0 &&
      (if f.drains then f.drainFields else f.noDrain && !f.flush)
  | _ => false

/-- A tile of a drain's output in bytes: P_OUT of R215. -/
def outPart (fmt rows pitch : Nat) : Nat := if isBlockFmt fmt then ceilDiv rows 32 * trayLen fmt else rows * pitch

/-- Bytes of an output value. -/
def outWidth (fmt : Nat) : Nat := if fmt == 0xD then 8 else if fmt == 0xE then 16 else fmtWidth fmt / 8

/-- Bytes that one tile's output spans. -/
def outSpan (fmt rows cols pitch : Nat) : Nat :=
  if isBlockFmt fmt then outPart fmt rows 0 else (rows - 1) * pitch + cols * outWidth fmt

/-- Rows a drain of a command reads: from the first row, how many. -/
def FifoCmd.drainRows (f : FifoCmd) : Nat := if f.kind == 4 then min (f.rows - 32 * f.quarter) 32 else f.rows

/-- Whether a drain record is valid for a command (R217). -/
def FifoCmd.recordOk (f : FifoCmd) (r : List Byte) : Bool :=
  let pitch := recPitch r
  let twice := if f.kind == 0 && f.cplx != 0 then outPart f.fmtOut f.rows pitch else 0
  fld (recWord r 1) 43 21 == 0 && fld (recWord r 3) 48 16 == 0 &&
    (isBlockFmt f.fmtOut || (pitch % 8 == 0 && decide (f.cols * outWidth f.fmtOut ≤ pitch))) &&
    (match recStats r with | some o => o % 32 == 0 | none => true) &&
    decide (f.outOff + twice + outSpan f.fmtOut f.drainRows f.cols pitch ≤ 0x2_0000)

/-- The grant that a SPILL or RESUME names is recorded for the core and its niche, and its quarter has rows (R242). -/
def State.grantOk (s : State) (c : CoreNum) (f : FifoCmd) : Bool :=
  let g := Sparse.getD (s.region (regionOf c)).grants f.grant {}
  g.valid && g.coreIndex == indexOf c && g.niche == s.ownerNiche c && decide (32 * f.quarter < f.rows)

/-! ## Tiles and grants -/

/-- The value of a tile at row * 32 + column. -/
def Me.get (m : Me) (t : Bool) (i : Nat) : X40 :=
  let free := match m.seed with | some d => Config.freeTile d (if t then 4096 + i else i) | none => 0
  Sparse.getD (if t then m.t1 else m.t0) i free

def Me.put (m : Me) (t : Bool) (i : Nat) (v : X40) : Me :=
  if t then { m with t1 := Sparse.put m.t1 i v } else { m with t0 := Sparse.put m.t0 i v }

def State.updMe (s : State) (c : CoreNum) (f : Me → Me) : State := s.updCore c (fun k => { k with me := f k.me })

/-- The key of a grant value. -/
def spillKey (g row col : Nat) : Nat := g * 1024 + row * 32 + col

/-- The value of a grant; what nothing has written is unpredictable (R245). -/
def Region.spillAt (x : Region) (k : Nat) : X80 := Sparse.getD x.spill k (match x.spillSeed with | some d => Config.freeSpill d k | none => 0)

/-! ## Exceptions of the ME (R143, R227) -/

/-- Every range of the drawer that a drain writes, its statistics record among them. -/
def FifoCmd.drainDest (f : FifoCmd) (rec : List Byte) : List (Nat × Nat) :=
  let pitch := recPitch rec
  let one (out : Nat) : List (Nat × Nat) :=
    if isBlockFmt f.fmtOut then
      (List.range f.drainRows).flatMap (fun m =>
        let (o, sc) := blockAt f.fmtOut out m
        [(o, blockLen f.fmtOut), (sc.getD 0, 1)])
    else (List.range f.drainRows).map (fun m => (out + m * pitch, f.cols * outWidth f.fmtOut))
  one f.outOff ++ (if f.kind == 0 && f.cplx != 0 then one (f.outOff + outPart f.fmtOut f.rows pitch) else []) ++
    (match recStats rec with | some o => if isBlockFmt f.fmtOut then [(o, 32)] else [] | none => [])

/-- Whether a command drains. -/
def FifoCmd.doesDrain (f : FifoCmd) : Bool := f.kind == 1 || ((f.kind == 0 || f.kind == 4) && f.drains)

/-- The ranges of the drawer that a command writes, with its drain record as it was read. -/
def FifoCmd.dest (f : FifoCmd) (rec : List Byte) : List (Nat × Nat) :=
  if f.doesDrain then f.drainDest rec else if f.kind == 2 then [(f.outOff, 8)] else []

/-- The bytes that a faulting command was to write hold unpredictable values (R143). -/
def State.scrambleDest (s : State) (c : CoreNum) (f : FifoCmd) : State :=
  let ds := if f.doesDrain && !outOk f.fmtOut (f.kind == 4) then [] else f.dest (s.mem.bytes (drawerBase c + f.paramOff) 32)
  ds.foldl (fun s d => if d.1 < 0x2_0000 then s.scramble (drawerBase c + d.1) (min d.2 (0x2_0000 - d.1)) else s) s

/-- An imprecise exception of an engine's command, naming its issuer. -/
def cmdExc (engine code : Nat) (f : FifoCmd) (detail : W64) : Exc :=
  match f.issuer with
  | .insn pc => { code := code, engine := engine, precise := false, pc := pc.toNat, detail := detail }
  | .entry node m => { code := code, engine := engine, precise := false, queued := some (node, m), detail := detail }

def State.meRaise (s : State) (c : CoreNum) (code : Nat) (f : FifoCmd) (detail : W64) : State :=
  (s.scrambleDest c f).raise c f.launch (cmdExc 2 code f detail)

/-- An injected tile parity error found by a read of a tile value (R74). -/
def State.tileParity (s : State) (c : CoreNum) (f : FifoCmd) : Option State :=
  if s.armed 5 && s.injCore == c then
    some ((s.disarm.scrambleDest c f).hwError c f.launch { cause := 0x21, injected := true } (cmdExc 2 0x0D f 0))
  else none

/-! ## Steps (R180, R181, R201 to R203, R213, R214) -/

/-- 32 codes of a block, decoded (R151). -/
def decodeBlock (fmt : Nat) (bs : List Byte) : List FV :=
  let w := fmtWidth fmt
  let v := leNat bs
  (List.range 32).map (fun i => decodeFmt fmt (v / 2 ^ (w * i)))

/-- A block of an operand: its elements and, in a block format, its scale. -/
structure Blk where
  elems : List FV
  scale : Option FV
deriving DecidableEq, Repr

/-- The block term of R181: exact, a not-a-value when a code or a scale is VOID. -/
def blockTerm (a b : Blk) : FV :=
  match a.scale, b.scale with
  | some sa, some sb =>
    if a.elems.any FV.isNan || b.elems.any FV.isNan || sa.isNan || sb.isNan then .nan
    else
      let (n, e) := sumFinite ((a.elems.zip b.elems).filterMap (fun p => mulTerm [p.1, p.2]))
      (mulTerm [.fin (decide (n < 0)) n.natAbs e, sa, sb]).getD .nan
  | _, _ => .nan

/-- What one block pair contributes to a step, as terms of a fused sum; subtracted when `neg`. -/
def contribution (long neg : Bool) (a b : Blk) : List (List FV) :=
  if long then (a.elems.zip b.elems).map (fun p => [if neg then p.1.neg else p.1, p.2])
  else let t := blockTerm a b; [[if neg then t.neg else t]]

/-- One step of a tile value: the new value and its flags (R201, R203). -/
def step1 (t : X40) (terms : List (List FV)) (fz : Byte) : X40 × Byte :=
  let (v, fl) := fusedTo 0xD {} ([decodeFmt 0xD t.toNat] :: terms)
  let nan := terms.any (fun t => t.any FV.isNan) || (decodeFmt 0xD t.toNat).isNan
  (BitVec.ofNat 40 v, (if nan then fl else fl ||| fz) &&& (flNX ||| flNV ||| flIV ||| flFZ))

/-- The passes of a command: parts of A and B, and the tiles written with whether the contribution is subtracted. -/
def passesOf (cplx : Nat) (tile : Bool) : List (Nat × Nat × List (Bool × Bool)) :=
  match cplx with
  | 0 => [(0, 0, [(tile, false)])]
  | 1 => [(0, 0, [(false, false)]), (1, 1, [(false, true)]), (0, 1, [(true, false)]), (1, 0, [(true, false)])]
  | _ => [(0, 0, [(false, false), (true, true)]), (1, 1, [(false, true), (true, true)]), (2, 2, [(true, false)])]

/-- Chunks of one pass. -/
def FifoCmd.perPass (f : FifoCmd) : Nat := ceilDiv f.count 3

/-- Chunks of a command. -/
def FifoCmd.chunks (f : FifoCmd) : Nat := (passesOf f.cplx f.tile).length * f.perPass

/-- The reduction blocks of a chunk of a pass. -/
def FifoCmd.chunkBlocks (f : FifoCmd) (c : Nat) : List Nat := (List.range 3).filterMap (fun b => if 3 * c + b < f.count then some (3 * c + b) else none)

/-- The lowest poisoned word among the bytes of an operand block. -/
def State.blockPoison (s : State) (c : CoreNum) (fmt off j : Nat) : Option Nat :=
  let (o, sc) := blockAt fmt off j
  match s.mem.firstPoison (drawerBase c + o) (blockLen fmt), sc with
  | some w, _ => some w
  | none, some x => s.mem.firstPoison (drawerBase c + x) 1
  | none, none => none

/-- A block from its code bytes and scale byte, with FZ when FLUSH replaced an element. -/
def decodeRaw (fmt : Nat) (flush : Bool) (b : List Byte × Option Byte) : Blk × Byte :=
  let es := (decodeBlock fmt b.1).map (flushOperand fmt flush)
  ({ elems := es.map (·.1), scale := b.2.map (fun x => decodeFmt 0xF x.toNat) }, es.foldl (fun a e => a ||| e.2) 0)

/-- A block's code bytes and scale byte as one read finds them. -/
def Memory.rawBlock (m : Memory) (draw : Nat) (c : CoreNum) (fmt off j : Nat) : List Byte × Option Byte :=
  let (o, sc) := blockAt fmt off j
  (m.bytesAt draw (drawerBase c + o) (blockLen fmt), sc.map (fun x => m.byteAt draw (drawerBase c + x)))

/-- Memory as a command reads it: where its own output lies, what it reads is unpredictable (R226). -/
def Memory.blurred (m : Memory) (draw : Nat) (c : CoreNum) (dest : List (Nat × Nat)) : Memory :=
  dest.foldl (fun m d => m.scramble (drawerBase c + d.1) d.2 draw) m

/-- The tile steps of one chunk: every row, every column, its blocks in ascending order. -/
def Me.chunkSteps (m : Me) (f : FifoCmd) (tiles : List (Bool × Bool)) (kbs : List Nat) (as bs : Nat → Nat → Blk × Byte) : Me :=
  (List.range f.rows).foldl (fun m r => (List.range f.cols).foldl (fun m n =>
    kbs.foldl (fun m kb =>
      let (a, fa) := as r kb
      let (b, fb) := bs n kb
      tiles.foldl (fun m t =>
        let (v, fl) := step1 (m.get t.1 (32 * r + n)) (contribution a.scale.isNone t.2 a b) (fa ||| fb)
        { m.put t.1 (32 * r + n) v with flags := m.flags ||| fl }) m) m) m) m

/-- Where a run's next chunk lies: the offsets of its operand parts, the tiles its steps go to, its reduction blocks. -/
structure ChunkAt where
  aOff : Nat
  bOff : Nat
  tiles : List (Bool × Bool)
  kbs : List Nat
deriving DecidableEq, Repr

def MeRun.chunkAt (r : MeRun) : Option ChunkAt :=
  let f := r.cmd
  ((passesOf f.cplx f.tile)[r.chunk / f.perPass]?).map (fun p =>
    { aOff := f.aOff + p.1 * partLen f.fmtA f.count (padRows f.rows), bOff := f.bOff + p.2.1 * partLen f.fmtB f.count 32
      tiles := p.2.2, kbs := f.chunkBlocks (r.chunk % f.perPass) })

/-- The first poisoned word of a chunk's weights. -/
def State.weightPoison (s : State) (c : CoreNum) (f : FifoCmd) (p : ChunkAt) : Option Nat :=
  p.kbs.findSome? (fun kb => (List.range f.cols).findSome? (fun n => s.blockPoison c f.fmtB p.bOff (kb * 32 + n)))

/-- The first poisoned word of a chunk's rows. -/
def State.rowPoison (s : State) (c : CoreNum) (f : FifoCmd) (p : ChunkAt) : Option Nat :=
  p.kbs.findSome? (fun kb => (List.range f.rows).findSome? (fun m => s.blockPoison c f.fmtA p.aOff (kb * padRows f.rows + m)))

/-- The weight loader fills the shadow weights of a chunk (R206): blocks in ascending order, in each its columns. -/
def State.loadWeights (s : State) (c : CoreNum) (r : MeRun) (p : ChunkAt) : Shadow × State :=
  let f := r.cmd
  let s := s.inject (drawerBase c + (blockAt f.fmtB p.bOff (p.kbs.headD 0 * 32)).1) 8
  let m := s.mem.blurred s.fresh c r.dest
  ({ blocks := p.kbs.flatMap (fun kb => (List.range f.cols).map (fun n => m.rawBlock s.fresh c f.fmtB p.bOff (kb * 32 + n)))
     bad := s.weightPoison c f p }, { s with fresh := s.fresh + 1 })

/-- The weight of block kb and column n among a chunk's shadow weights. -/
def Shadow.weight (w : Shadow) (f : FifoCmd) (p : ChunkAt) (n kb : Nat) : Blk × Byte :=
  decodeRaw f.fmtB f.flush (w.blocks.getD ((kb - p.kbs.headD 0) * f.cols + n) ([], none))

/-- Audit comparisons of a chunk (R191, R193, R194): the count, and an injected mismatch (R573). -/
def State.auditChunk (s : State) (c : CoreNum) (f : FifoCmd) (kbs : List Nat) : State × Bool :=
  if !f.audit then (s, false)
  else
    let r := regionOf c
    let s := s.updRegion r (fun x => { x with auditChecks := satAdd x.auditChecks (f.rows * kbs.length) })
    if s.armed 12 && s.injCore == c && kbs.head? == some 0 then
      let s := s.disarm.updRegion r (fun x => { x with auditMismatches := satAdd x.auditMismatches 1 })
      let (addr, sp) := match f.issuer with
        | .insn pc => (pc.toNat, 2)
        | .entry node m => (node + m.toNat * 2 ^ 16, 0)
      ((s.scrambleDest c f).hwError c f.launch { cause := 0x28, addr := addr, aspace := sp, detail := 1, injected := true } (cmdExc 2 0x0D f 0), true)
    else (s, false)

/-- A change to one of the commands started. -/
def State.updRun (s : State) (c : CoreNum) (i : Nat) (g : MeRun → MeRun) : State :=
  s.updMe c (fun m => { m with runs := m.runs.modify i g })

/-- Tile values that nothing has written since they became unpredictable may read differently each time (R3). -/
def State.meSeed (s : State) (c : CoreNum) : State :=
  if (s.core c).me.seed.isSome then { s.updMe c (fun m => { m with seed := some s.fresh }) with fresh := s.fresh + 1 } else s

/-- Row times that the bands lost to empty dovetail buffers while a chunk streamed (R208, R229, R520): timing, so a free number
(assumption log, 83). -/
def State.feedStalls (s : State) (c : CoreNum) : State :=
  let n := Config.freeNat s.fresh
  (({ s with fresh := s.fresh + 1 } : State).updRegion (regionOf c) (fun x => { x with feedStalls := satAdd x.feedStalls n })).selfAdd c 6
    (BitVec.ofNat 64 n)

/-- The tile rows as a MULTIPLY finds them: +0 under ACC 0, and column 31 +0 in audit mode (R191, R202). -/
def Me.prepare (m : Me) (f : FifoCmd) : Me :=
  let tiles := if f.cplx = 0 then [f.tile] else [false, true]
  let cols := if !f.acc then List.range 32 else if f.audit then [31] else []
  tiles.foldl (fun m t => (List.range f.rows).foldl (fun m r => cols.foldl (fun m n => m.put t (32 * r + n) 0) m) m) m

/-- The steps of a chunk with its weights active (R206), every row and column (R201). -/
def State.chunkMe (s : State) (c : CoreNum) (r : MeRun) (p : ChunkAt) (w : Shadow) (m : Me) : Me :=
  let f := r.cmd
  let mem := s.mem.blurred s.fresh c r.dest
  (if r.chunk = 0 then m.prepare f else m).chunkSteps f p.tiles p.kbs
    (fun i kb => decodeRaw f.fmtA f.flush (mem.rawBlock s.fresh c f.fmtA p.aOff (kb * padRows f.rows + i))) (w.weight f p)

/-- The loader goes on to a run's next chunk while the rows of this one stream (R206). -/
def State.nextWeights (s : State) (c : CoreNum) (i : Nat) (r : MeRun) : State :=
  match if r.chunk < r.chunks then r.chunkAt else none with
  | some p => let (w, s) := s.loadWeights c r p; s.updRun c i (fun r => { r with shadow := some w })
  | none => s

/-- The next chunk of run i on the array: its weights become active, its rows stream and take their steps, and the loader fills the
next shadow weights. Weights that a pre-emption discarded are read again. -/
def State.runChunk (s : State) (c : CoreNum) (i : Nat) (r : MeRun) (p : ChunkAt) : State :=
  let f := r.cmd
  let (w, s) := match r.shadow with | some w => (w, s) | none => s.loadWeights c r p
  let s := s.inject (drawerBase c + (blockAt f.fmtA p.aOff (p.kbs.headD 0 * padRows f.rows)).1) 8
  match w.bad.or (s.rowPoison c f p) with
  | some w => s.meRaise c 6 f (paDetail w)
  | none =>
    match s.tileParity c f, s.pathRead c with
    | some s, _ => s
    | none, (true, s) => (s.scrambleDest c f).hwError c f.launch { cause := 0x22 } (cmdExc 2 0x0D f 0)
    | none, (false, s) =>
      let (s, bad) := s.auditChunk c f p.kbs
      if bad then s
      else
        let s := s.meSeed c
        let s := { s.updMe c (s.chunkMe c r p w) with fresh := s.fresh + 1 }
        let r := { r with chunk := r.chunk + 1, shadow := none }
        ((s.updRun c i (fun _ => r)).nextWeights c i r).feedStalls c

/-! ## Drains (R200, R210, R221 to R223, R240) -/

/-- One value of a drain: its code, and what the statistics count (R221). -/
def drainValue (f : FifoCmd) (src : Nat) (rec : List Byte) (v idx : Nat) : Quantised :=
  let k : RMode := { rnd := f.rnd, r := srBits (recWord rec 0) (recWord rec 2).toNat ((fld (recWord rec 3) 0 48 + idx) % 2 ^ 48)
                     sat := f.sat == 1, flush := f.flush }
  if isBlockFmt f.fmtOut then quantise f.fmtOut src (recScale rec) k v
  else
    let x := decodeFmt src v
    let (c, fl) := fusedTo f.fmtOut k [[x]]
    { code := c, flags := fl, x := x, wasNonzero := !x.isZero && !x.isNan }

/-- The column groups of a row of a drain, or its block's codes and scale byte (R200, R210). -/
def rowGroups (f : FifoCmd) (rec : List Byte) (out row : Nat) (codes : List Nat) (stat : Option (Nat × List Nat)) : List Granule :=
  if isBlockFmt f.fmtOut then
    let (o, sc) := blockAt f.fmtOut out row
    [{ col := 0, cols := 32, stat := stat
       writes := [(o, packCodes (fmtWidth f.fmtOut) (codes ++ List.replicate (32 - codes.length) 0)), (sc.getD 0, [BitVec.ofNat 8 (recScale rec)])] }]
  else
    let w := outWidth f.fmtOut
    let per := 32 / w
    (List.range (ceilDiv codes.length per)).map (fun i =>
      { col := i * per, cols := per
        writes := [(out + row * recPitch rec + i * per * w, ((codes.drop (i * per)).take per).flatMap (leBytes w))] })

/-- What a drain's row adds to the statistics record of a block-format output (R223). -/
def rowStat (f : FifoCmd) (rec : List Byte) (qs : List Quantised) : Option (Nat × List Nat) :=
  match recStats rec with
  | some o => if isBlockFmt f.fmtOut then some (o, statAdds f.fmtOut (recScale rec) qs) else none
  | none => none

/-- A tile value, or a grant value of a RESUME, as a drain reads it: row m of the second tile in the second half (R215, R240). -/
def State.drainSource (s : State) (c : CoreNum) (f : FifoCmd) (second : Bool) (m n : Nat) : Nat :=
  if f.kind == 4 then ((s.region (regionOf c)).spillAt (spillKey f.grant m n)).toNat
  else ((s.core c).me.get (f.tile || second) (32 * m + n)).toNat

/-- The values of the next row of a drain, converted (R221, R222). -/
def State.drainValues (s : State) (c : CoreNum) (r : MeRun) : List Quantised :=
  let f := r.cmd
  let second := decide (f.drainRows ≤ r.row)
  let m := r.row % f.drainRows
  (List.range f.cols).map (fun n => drainValue f (if f.kind == 4 then 0xE else 0xD) r.record (s.drainSource c f second m n)
    ((if second then 4096 else 0) + 32 * m + n))

/-- A drain reads its next row into the dovetail buffers (R210). -/
def State.readRow (s : State) (c : CoreNum) (i : Nat) (r : MeRun) : State :=
  let f := r.cmd
  match if f.kind == 4 then none else s.tileParity c f with
  | some s => s
  | none =>
    let s := s.meSeed c
    let qs := s.drainValues c r
    let out := f.outOff + (if f.drainRows ≤ r.row then outPart f.fmtOut f.rows (recPitch r.record) else 0)
    let gs := rowGroups f r.record out (r.row % f.drainRows) (qs.map (·.code)) (rowStat f r.record qs)
    (s.updMe c (fun m => { m with flags := qs.foldl (fun a q => a ||| q.flags) m.flags })).updRun c i
      (fun r => { r with row := r.row + 1, writes := r.writes ++ gs })

/-- Every step of a command is taken. -/
def MeRun.stepped (r : MeRun) : Bool := r.chunk == r.chunks

/-- The drain that the one drain path serves: the first in command order with rows left (R231). -/
def Me.drainer (m : Me) : Option (Nat × MeRun) := (m.runs.mapIdx (fun i r => (i, r))).find? (fun p => decide (p.2.row < p.2.rows))

/-- Some column of a drain has its dovetail buffer of four values full. -/
def Me.full (m : Me) (f : FifoCmd) : Bool :=
  (List.range f.cols).any (fun j => decide (4 ≤ (m.runs.flatMap (·.writes)).countP (fun g => decide (g.col ≤ j ∧ j < g.col + g.cols))))

/-- The drain path reads rows until a column buffer is full or no row is left. -/
def State.pumpDrain (s : State) (c : CoreNum) : Nat → State
  | 0 => s
  | fuel + 1 =>
    match (s.core c).me.drainer with
    | some (i, r) => if r.stepped && !(s.core c).me.full r.cmd then (s.readRow c i r).pumpDrain c fuel else s
    | none => s

/-! ## Starting a command (R218) -/

/-- The tiles that a command's steps, drain, spill or resume touches. -/
def FifoCmd.touches (f : FifoCmd) (t : Bool) : Bool := f.kind != 2 && (f.tile == t || (f.kind == 0 && f.cplx != 0))

/-- A drain with rows left to read shares a tile with a command (R220, R241), or reads the grant that a SPILL writes. -/
def drainBefore (runs : List MeRun) (f : FifoCmd) : Bool :=
  runs.any (fun r => decide (r.row < r.rows) &&
    if r.cmd.kind == 4 then f.kind == 3 && r.cmd.grant == f.grant else [false, true].any (fun t => r.cmd.touches t && f.touches t))

/-- Whether the engine may start a command behind those it has started (assumption log, 35): not beside FLAGS, which waits for all
(R224); behind the last chunk of a multiply command (R216); a drain when the drain path is free (R231); a SPILL or RESUME of a tile
once earlier drains have read it (R241). -/
def Me.canStart (m : Me) (f : FifoCmd) : Bool :=
  m.runs.all (fun r => r.stepped && r.cmd.kind != 2) &&
    (if f.kind == 2 then m.runs.isEmpty
     else if f.doesDrain && f.kind != 0 then m.drainer.isNone
     else if f.kind == 3 || f.kind == 4 then !drainBefore m.runs f
     else true)

/-- The head command of the ME of a kind, when the ME can start it: its wait is taken, or it queues. -/
def State.meHead (s : State) (c : CoreNum) (p : Nat → Bool) : Option FifoCmd × State :=
  let k := s.core c
  match k.me.fifo with
  | f :: rest =>
    if !s.runs c || !p f.kind || !k.me.canStart f then (none, s)
    else
      let start (s : State) : Option FifoCmd × State := (some f, s.updMe c (fun m => { m with fifo := rest }))
      if !f.waitEn || f.taken then start s
      else if f.waiting then (none, s)
      else if s.semCan c f.waitSem 1 then start (s.semSub c f.waitSem 1)
      else
        let s := s.updMe c (fun m => { m with fifo := { f with waiting := true } :: rest })
        (none, s.semQueue c f.waitSem .me 1 [])
  | [] => (none, s)

/-- The drain record of a command that drains, when it is valid and not poisoned; an exception otherwise. What the command's own
output overlaps of it is unpredictable (R226). -/
def State.readRecord (s : State) (c : CoreNum) (f : FifoCmd) : Except State (List Byte × State) :=
  if !f.doesDrain then .ok ([], s)
  else
    let a := drawerBase c + f.paramOff
    let s := s.inject a 32
    match s.mem.firstPoison a 32 with
    | some w => .error (s.meRaise c 6 f (paDetail w))
    | none =>
      let r := (s.mem.blurred s.fresh c (f.dest (s.mem.bytesAt s.fresh a 32))).bytesAt s.fresh a 32
      if f.recordOk r then .ok (r, { s with fresh := s.fresh + 1 }) else .error (s.meRaise c 0x0B f 0)

/-- Rows that a command's drain reads in all: of both tiles in a complex command (R215). -/
def FifoCmd.rowsToRead (f : FifoCmd) : Nat :=
  if f.doesDrain then (if f.kind == 0 && f.cplx != 0 then 2 * f.rows else f.drainRows) else 0

/-- The run of a command that starts. -/
def FifoCmd.toRun (f : FifoCmd) (rec : List Byte) (now : W64) : MeRun :=
  { cmd := f, chunk := 0, chunks := if f.kind == 0 then f.chunks else 0, rows := f.rowsToRead, record := rec, dest := f.dest rec
    since := now }

/-- A command starts: CMD_INVALID, POISON of its record, or its run, the last of those started. -/
def State.meStart (s : State) (c : CoreNum) (f : FifoCmd) (extra : Bool) (go : State → Nat → MeRun → State) : State :=
  if !(f.fieldsOk && extra) then s.meRaise c 0x0B f 0
  else
    match s.readRecord c f with
    | .error s => s
    | .ok (rec, s) =>
      let run := f.toRun rec (s.cyclesOf c)
      go (s.updMe c (fun m => { m with runs := m.runs ++ [run] })) (s.core c).me.runs.length run

/-- MULTIPLY: the command starts, and its first chunk's shadow weights are loaded (R206, R216). -/
def execMultiply (c : CoreNum) (s : State) : Host.Outcome State Fault Refusal :=
  .next (match s.meHead c (fun k => k == 0) with
    | (none, s) => s
    | (some f, s) => s.meStart c f true (fun s i r => s.nextWeights c i r))

/-- WEIGHT_LOAD_DONE: the shadow weights of the next chunk become active behind the last chunk's rows, and its rows take their steps,
once every earlier drain has read the tile's rows (R206, R220). -/
def execWeightLoadDone (c : CoreNum) (s : State) : Host.Outcome State Fault Refusal :=
  let m := (s.core c).me
  .next (match (m.runs.mapIdx (fun i r => (i, r))).find? (fun p => decide (p.2.chunk < p.2.chunks)) with
    | some (i, r) =>
      match r.chunkAt with
      | some p => if s.runs c && !drainBefore (m.runs.take i) r.cmd then (s.runChunk c i r p).pumpDrain c 4 else s
      | none => s
    | none => s)

/-- DRAIN: a tile converted and written (R221). -/
def execDrain (c : CoreNum) (s : State) : Host.Outcome State Fault Refusal :=
  .next (match s.meHead c (fun k => k == 1) with
    | (none, s) => s
    | (some f, s) => s.meStart c f true (fun s _ _ => s.pumpDrain c 4))

/-- FLAGS: ARITH_FLAGS as one word at OUT_OFF, and the masked bits cleared (R224). -/
def execFlags (c : CoreNum) (s : State) : Host.Outcome State Fault Refusal :=
  .next (match s.meHead c (fun k => k == 2) with
    | (none, s) => s
    | (some f, s) => s.meStart c f true (fun s i r =>
        (s.updRun c i (fun _ => { r with writes := [{ col := 0, cols := 32, writes := [(f.outOff, leBytes 8 (s.core c).me.flags.toNat)] }] })).updMe c
          (fun m => { m with flags := m.flags &&& ~~~BitVec.ofNat 8 (fld f.hi 0 8) })))

/-- Rows of a SPILL or RESUME: (tile row, grant row). -/
def FifoCmd.quarterRows (f : FifoCmd) : List (Nat × Nat) :=
  (List.range 32).filterMap (fun i => if 32 * f.quarter + i < f.rows then some (32 * f.quarter + i, i) else none)

/-- Grant values read: a single-bit error is corrected, counted and recorded; an injected double-bit error, or a value poisoned before,
is found (R244). -/
def State.spillPoisoned (s : State) (c : CoreNum) (f : FifoCmd) : Bool × State :=
  let r := regionOf c
  let keys := f.quarterRows.flatMap (fun p => (List.range f.cols).map (fun n => spillKey f.grant p.2 n))
  let log (s : State) (cause : Nat) (injected single : Bool) : State :=
    let (syn, s) := s.syndrome single
    s.logError { cause := cause, loc := dieLoc r, detail := syn, injected := injected, core := some c,
                 niche := (s.owner c).map (·.1), ctx := (s.owner c).map (·.2) }
  let s := keys.foldl (fun s k =>
    if (s.region r).spillBad.contains k then
      log (s.updRegion r (fun x => { x with spillBad := x.spillBad.filter (· != k), spillCe := satAdd x.spillCe 1 })) 0x07 false true
    else s) s
  let s := if s.armed 13 && s.injCore == c then
      log (s.disarm.updRegion r (fun x => { x with spillPoison := insNat x.spillPoison (keys.headD 0), spillUe := satAdd x.spillUe 1 })) 0x27 true false
    else s
  (keys.any (fun k => (s.region r).spillPoison.contains k), s)

/-- Grant values that nothing has written since they became unpredictable may read differently each time (R3, R245). -/
def State.spillReseed (s : State) (r : RegionNum) : State :=
  if (s.region r).spillSeed.isSome then { s.updRegion r (fun x => { x with spillSeed := some s.fresh }) with fresh := s.fresh + 1 } else s

/-- Grant values of a SPILL (R239) and the tile values it leaves at +0. -/
def State.spillRows (s : State) (c : CoreNum) (f : FifoCmd) : State :=
  let r := regionOf c
  f.quarterRows.foldl (fun s p => (List.range f.cols).foldl (fun s n =>
    let k := spillKey f.grant p.2 n
    let t := (s.core c).me.get f.tile (32 * p.1 + n)
    let x := decodeFmt 0xD t.toNat
    let (v, fl) := fusedTo 0xE {} (if f.acc then [[decodeFmt 0xE ((s.region r).spillAt k).toNat], [x]] else [[x]])
    let s := s.updRegion r (fun g => { g with spill := Sparse.put g.spill k (BitVec.ofNat 80 v), spillPoison := g.spillPoison.filter (· != k),
                                                spillBad := g.spillBad.filter (· != k) })
    s.updMe c (fun m => { m.put f.tile (32 * p.1 + n) 0 with flags := m.flags ||| (fl &&& (flNX ||| flNV ||| flIV)) })) s) s

/-- SPILL: tile rows into a grant in X80, and +0 in the tile (R239). -/
def execSpill (c : CoreNum) (s : State) : Host.Outcome State Fault Refusal :=
  .next (match s.meHead c (fun k => k == 3) with
    | (none, s) => s
    | (some f, s) => s.meStart c f (s.grantOk c f) (fun s _ _ =>
        let (bad, s) := if f.acc then (s.spillReseed (regionOf c)).spillPoisoned c f else (false, s)
        if bad then s.meRaise c 6 f 0
        else match s.tileParity c f with | some s => s | none => (s.meSeed c).spillRows c f))

/-- Tile values of a RESUME with DRAIN 0 (R240). -/
def State.resumeRows (s : State) (c : CoreNum) (f : FifoCmd) : State :=
  let x := s.region (regionOf c)
  s.updMe c (fun m => f.quarterRows.foldl (fun m p => (List.range f.cols).foldl (fun m n =>
    let g := decodeFmt 0xE (x.spillAt (spillKey f.grant p.2 n)).toNat
    let t := if f.acc then decodeFmt 0xD (m.get f.tile (32 * p.1 + n)).toNat else .fin false 0 0
    let (v, fl) := fusedTo 0xD {} [[t], [g]]
    { m.put f.tile (32 * p.1 + n) (BitVec.ofNat 40 v) with flags := m.flags ||| (fl &&& (flNX ||| flNV ||| flIV)) }) m) m)

/-- RESUME: a grant into a tile, or drained from the grant (R240). -/
def execResume (c : CoreNum) (s : State) : Host.Outcome State Fault Refusal :=
  .next (match s.meHead c (fun k => k == 4) with
    | (none, s) => s
    | (some f, s) => s.meStart c f (s.grantOk c f) (fun s _ _ =>
        let (bad, s) := (s.spillReseed (regionOf c)).spillPoisoned c f
        if bad then s.meRaise c 6 f 0
        else if f.drains then s.pumpDrain c 4
        else
          match if f.acc then s.tileParity c f else none with
          | some s => s
          | none => (s.meSeed c).resumeRows c f))

/-! ## Writes and completion (R210, R219) -/

/-- Region cycles in which the drain had stopped reading because a column buffer was full (R229): timing, so a free number
(assumption log, 83). -/
def State.drainStalls (s : State) (c : CoreNum) : State :=
  match (s.core c).me.drainer with
  | some (_, r) =>
    if r.stepped && (s.core c).me.full r.cmd then
      ({ s with fresh := s.fresh + 1 } : State).updRegion (regionOf c) (fun x => { x with drainStalls := satAdd x.drainStalls (Config.freeNat s.fresh) })
    else s
  | none => s

/-- The column-group writes that wait for a grant, oldest first: the run and the place in it of each. -/
def Me.waiting (m : Me) : List (Nat × Nat × Granule) :=
  (m.runs.mapIdx (fun i r => (i, r))).flatMap (fun p => p.2.writes.mapIdx (fun j g => (p.1, j, g)))

/-- Two column groups share a column. -/
def Granule.meets (a b : Granule) : Bool := decide (a.col < b.col + b.cols ∧ b.col < a.col + a.cols)

/-- DRAIN_ROW_WRITE: a waiting column-group write is granted and performed, with its row's part of the statistics record; values of
one column leave in row order, column groups in any order (R210). The drain reads on. -/
def execDrainRowWrite (x : GrantAt) (s : State) : Host.Outcome State Fault Refusal :=
  let c := x.core
  let ws := (s.core c).me.waiting
  .next (match ws[x.idx]? with
    | some (i, j, g) =>
      if !s.clocked c || (ws.take x.idx).any (fun w => w.2.2.meets g) then s
      else
        let s := (g.writes.foldl (fun s w => s.homeWrite (drawerBase c + w.1) w.2) s).addStat c g.stat
        ((s.drainStalls c).updRun c i (fun r => { r with writes := r.writes.eraseIdx j })).pumpDrain c 4
    | none => s)

/-- The engine entry of a finished command is complete (R370). -/
def State.cmdDone (s : State) (f : FifoCmd) (e : Eng) : State :=
  match f.issuer with
  | .entry _ _ => s.entryDone f.launch f.node f.rank e
  | .insn _ => s

/-- Every step is taken, every row read and every write performed. -/
def MeRun.finished (r : MeRun) : Bool := r.stepped && decide (r.rows ≤ r.row) && r.writes.isEmpty

/-- ME_COMMAND_COMPLETE: every step is taken and every write performed; SIG_SEM is signalled by 1 (R219). Cycles in which several
commands are in the array count once (R520). -/
def execMeCommandComplete (c : CoreNum) (s : State) : Host.Outcome State Fault Refusal :=
  let m := (s.core c).me
  .next (match (m.runs.mapIdx (fun i r => (i, r))).find? (fun p => p.2.finished) with
    | some (i, r) =>
      if s.clocked c then
        let now := s.cyclesOf c
        let since := match m.runs with | x :: _ => x.since | [] => now
        let s := (s.updMe c (fun m => { m with runs := (m.runs.eraseIdx i).map (fun x => { x with since := now }) })).selfAdd c 5 (now - since)
        let s := if r.cmd.sigEn then s.semSignal c r.cmd.sigSem 1 (2, 0) else s
        s.cmdDone r.cmd .me
      else s
    | none => s)

end Sys2Proof.Machine
end

