-- ==== Sys2Proof/Machine/Armature.lean ====
section
/-! DEFINITION. The armature: partials, additions, results (R233, R236, R247 to R251, R354, R571), and stores made by the
device through the plinth walker (R567). -/

namespace Sys2Proof.Machine

/-! ## Stores through the plinth walker (R567) -/

/-- What a device store to a niche virtual address meets. -/
inductive PStore where
  | done
  /-- PAGE_FAULT 2, ACCESS 3 or POISON 6 of the translation. -/
  | fault (code : Nat)
  | dead (gpa : Nat)
  | wait
deriving DecidableEq, Repr

/-- Bytes stored at a target by the device: at once on this device and on the host, by a WRITE toward another device. -/
def State.storeTgt (s : State) (t : Tgt) (bs : List Byte) (n : NicheNum) (ctx : BitVec 4) (ch : Nat) (use_ : RemoteUse) :
    PStore × State :=
  match t with
  | .dev a =>
    let held := s.linesHeld a bs.length true
    if !held.isEmpty then (.wait, s.recall held)
    else if !s.awake none a then (.wait, s)
    else (.done, s.homeWrite a bs)
  | .host a => (.done, s.hostWrite a bs)
  | .remote d a =>
    if s.isDead d.toNat then (.dead (d.toNat * 2 ^ 48 + a), s)
    else (.done, s.request 1 (accessPacket d a n ctx ch bs.length bs) use_)

/-- A store of at most a page's rest to a niche virtual address by an agent without a core. -/
def State.plinthStore (s : State) (n : NicheNum) (ctx : BitVec 4) (va : Nat) (bs : List Byte) (ch : Nat) (use_ : RemoteUse) :
    PStore × State :=
  match s.translate none n va .store with
  | (.fault code, s) => (.fault (if code = 6 then 2 else code), s)
  | (.wait, s) => (.wait, s)
  | (.ok t _, s) => s.storeTgt t bs n ctx ch use_

/-! ## Additions (R247, R248, R571) -/

/-- Ranks of a reduction. -/
def Reduction.ranks (r : Reduction) : Nat := r.f * r.g * r.c

/-- Reduction blocks that rank r of P covers: the span floor(r × K ÷ P) to floor((r + 1) × K ÷ P) − 1 (R234). -/
def rankSpan (k p r : Nat) : Nat × Nat := (r * k / p, (r + 1) * k / p)

/-- A rank that covers no block: its partial is +0 in every value (R234). -/
def Reduction.emptyRank (r : Reduction) (i : Nat) : Bool := decide (r.k < r.ranks) && (rankSpan r.k r.ranks i).1 == (rankSpan r.k r.ranks i).2

/-- The partials of the ranks that cover no block, there from the start. -/
def Reduction.emptyParts (r : Reduction) : List (Nat × Nat × List (Option X80)) :=
  if r.k < r.ranks then ((List.range r.ranks).filter r.emptyRank).map (fun i => (i, i + 1, List.replicate (r.rows * r.cols) (some 0))) else []

/-- The largest power of two below a length (R247). -/
def splitPow (len : Nat) : Nat := (List.range 14).foldl (fun h _ => if 2 * h < len then 2 * h else h) 1

/-- Where the tree splits a range of flat ranks: within a region rank, over region ranks, or over fabric ranks. -/
def Reduction.split (r : Reduction) (lo hi : Nat) : Nat :=
  let unit_ := if hi - lo ≤ r.c then 1 else if hi - lo ≤ r.g * r.c then r.c else r.g * r.c
  lo + unit_ * splitPow ((hi - lo) / unit_)

/-- Whether a range of flat ranks is one that the tree adds up (R247): the walk from the root's range, at most k levels. -/
def Reduction.isNode (r : Reduction) (lo hi : Nat) : Nat → Nat → Nat → Bool
  | 0, _, _ => false
  | k + 1, a, b =>
    (a == lo && b == hi) || (decide (a + 1 < b) &&
      (if hi ≤ r.split a b then r.isNode lo hi k a (r.split a b)
       else decide (r.split a b ≤ lo) && r.isNode lo hi k (r.split a b) b))

/-- The partial that covers a range. -/
def Reduction.part (r : Reduction) (lo hi : Nat) : Option (List (Option X80)) :=
  (r.parts.find? (fun p => p.1 == lo && p.2.1 == hi)).map (·.2.2)

/-- add(a, b) of one value (R247); a poisoned operand gives a poisoned value and no flags (R571). -/
def addValue (x80 : Bool) (a b : Option X80) : Option X80 × Byte :=
  match a, b with
  | some a, some b =>
    let fmt := if x80 then 0xE else 0xD
    let (v, fl) := fusedTo fmt {} [[decodeFmt fmt a.toNat], [decodeFmt fmt b.toNat]]
    (some (BitVec.ofNat 80 v), fl)
  | _, _ => (none, 0)

/-- One addition: both operands are replaced by their sum. -/
def Reduction.add (r : Reduction) (lo mid hi : Nat) (a b : List (Option X80)) : Reduction :=
  let vs := (a.zip b).map (fun p => addValue r.x80 p.1 p.2)
  { r with parts := r.parts.filter (fun p => !(p.1 == lo && p.2.1 == mid) && !(p.1 == mid && p.2.1 == hi)) ++ [(lo, hi, vs.map (·.1))]
           flags := vs.foldl (fun f v => f ||| v.2) r.flags }

/-- A reduction changed, unless it has gone with its launch. -/
def State.setRed (s : State) (r : Reduction) : State :=
  { s with fe := { s.fe with reds := s.fe.reds.map (fun x => if x.launch == r.launch && x.index == r.index then r else x) } }

/-! ## The result (R250, R251) -/

/-- An exception record of an agent without a core. -/
def State.plinthExc (s : State) (n : NicheNum) (code engine : Nat) (queued : Option (Nat × BitVec 12)) (detail : W64) : State :=
  s.excRecord n s.tl.now 0 { code := code, engine := engine, precise := false, queued := queued, detail := detail }

/-- The result ends at its first refused write: a record, and the launch FAULTED. -/
def State.redFault (s : State) (r : Reduction) (code va : Nat) : State :=
  (s.plinthExc r.niche code 3 none (vaDetail va .store)).endLaunch r.launch 0x0D

/-- The words of the result: each value with its address, and the flag byte; none is a poisoned value. -/
def Reduction.words (r : Reduction) (vs : List (Option X80)) : List (Nat × Option (List Byte)) :=
  let w := if r.x80 then 16 else 8
  vs.mapIdx (fun i v => (r.resultVa + i * w, v.map (fun x => leBytes w x.toNat))) ++
    [(r.resultVa + vs.length * w, some (leBytes 8 r.flags.toNat))]

/-- A poisoned result value stored at its home; POISON when it would go to the host (R571). -/
def State.storePoison (s : State) (r : Reduction) (ctx : BitVec 4) (va : Nat) : PStore × State :=
  let w := if r.x80 then 16 else 8
  match s.translate none r.niche va .store with
  | (.fault code, s) => (.fault (if code = 6 then 2 else code), s)
  | (.wait, s) => (.wait, s)
  | (.ok (.host _) _, s) => (.fault 6, s)
  | (.ok (.dev a) _, s) =>
    match s.storeTgt (.dev a) (List.replicate w 0) r.niche ctx 15 (.armature r.launch r.index va) with
    | (.done, s) => (.done, if (s.classOf a).isMemory then { s with mem := s.mem.addPoison (wordsOf a w) } else s)
    | x => x
  | (.ok (.remote d a) _, s) =>
    if s.isDead d.toNat then (.dead (d.toNat * 2 ^ 48 + a), s)
    else (.done, s.sendBytes d a r.niche ctx 15 (List.replicate w 0) (wordsOf a w) (.armature r.launch r.index va))

/-- The words written one by one until one is refused; how many stay when a write must wait. -/
def State.writeResult (s : State) (r : Reduction) (ctx : BitVec 4) : List (Nat × Option (List Byte)) → State × Nat
  | [] => (s, 0)
  | (va, v) :: ws =>
    let (o, s) := match v with
      | some bs => s.plinthStore r.niche ctx va bs 15 (.armature r.launch r.index va)
      | none => s.storePoison r ctx va
    match o with
    | .done => s.writeResult r ctx ws
    | .wait => (s, ws.length + 1)
    | .fault code => (s.redFault r code va, 0)
    | .dead gpa =>
      ((s.logError { cause := 0x2A, loc := 0, niche := some r.niche, addr := gpa, aspace := 1 }).endLaunch r.launch 0x0D, 0)

/-- The root value is there: the result and the flag byte are written. -/
def State.redFinish (s : State) (i : Nat) : State :=
  match s.fe.reds[i]? with
  | some r =>
    match r.part 0 r.ranks with
    | some vs =>
      if r.done then s
      else
        let ctx := match s.launch? r.launch with | some l => l.ctx | none => 0
        let ws := r.words vs
        let (s, left) := s.writeResult r ctx (ws.drop r.written)
        s.setRed { r with done := left == 0, written := ws.length - left }
    | none => s
  | none => s

/-! ## Contributions (R249, R354) -/

/-- The armature's reduction for a launch and an index of its maquette's table, made when it is first needed. -/
def State.redFor (s : State) (l idx : Nat) : Option Nat × State :=
  match s.fe.reds.findIdx? (fun r => r.launch == l && r.index == idx) with
  | some i => (some i, s)
  | none =>
    match s.launch? l with
    | none => (none, s)
    | some x =>
      match (s.maq? x.niche x.maq).bind (fun m => m.reds[idx]?) with
      | some d =>
        let r : Reduction := { niche := x.niche, launch := l, index := idx, f := d.f, g := d.g, c := d.c, x80 := d.x80,
                               rows := d.rows, cols := d.cols, resultVa := d.resultVa, got := [], parts := [], flags := 0, done := false
                               k := d.k }
        let r := { r with parts := r.emptyParts }
        (some s.fe.reds.length, { s with fe := { s.fe with reds := s.fe.reds ++ [r] } })
      | none => (none, s)

/-- Whether a contribution keeps R249. -/
def Reduction.accepts (r : Reduction) (x80 : Bool) (rows cols f g c : Nat) : Bool :=
  r.x80 == x80 && r.rows == rows && r.cols == cols && decide (f < r.f) && decide (g < r.g) && decide (c < r.c) &&
    !r.got.contains ((f * r.g + g) * r.c + c)

/-- The partial of one rank accepted; that of a rank that covers no block is there already (R234). -/
def State.accept (s : State) (i : Nat) (r : Reduction) (rank : Nat) (vs : List (Option X80)) : State :=
  (s.setRed { r with got := r.got ++ [rank]
                     parts := if r.emptyRank rank then r.parts else r.parts ++ [(rank, rank + 1, vs)] }).redFinish i

/-- ARMATURE_ADD: the addition of a range of flat ranks of the tree, once both its operands have arrived; the root's result is
written, or goes on where a write had to wait. -/
def execArmatureAdd (red lo hi : Nat) (s : State) : Host.Outcome State Fault Refusal :=
  .next (match s.fe.reds[red]? with
    | some r =>
      let again := if lo = 0 ∧ hi = r.ranks then s.redFinish red else s
      if r.done || !r.isNode lo hi 64 0 r.ranks then s
      else if hi ≤ lo + 1 then again
      else
        let mid := r.split lo hi
        match r.part lo mid, r.part mid hi with
        | some a, some b => ((s.setRed (r.add lo mid hi a b)).count 114 1).redFinish red
        | _, _ => again
    | none => s)

end Sys2Proof.Machine
end

