-- ==== Sys2Proof/Machine/Ports.lean ====
section
/-! DEFINITION. Trestle ports: training, HELLO, replay, retrain, credits, TIME and BOOK records, the device's identity and its
routes (R416 to R424, R427, R428, R430 to R435, R441, R443, R447). -/

namespace Sys2Proof.Machine

/-! ## The port as a receiver -/

/-- Body units that arrived on a port (R521). -/
def State.received (s : State) (p : PortNum) (units : Nat) : State := s.count (76 + p.toNat) (32 * units)

/-- Units of a channel and sub-lane go back to the sender once a packet has left the receive buffer (R427). -/
def State.returnUnits (s : State) (p : PortNum) (k : Packet) : State :=
  if (s.port p).state != 2 then s
  else
    s.sendLink p 1 [pack [(8, 6, k.niche.toNat), (14, 8, k.channel.toNat), (22, 1, k.sys.toNat), (23, 1, k.dl.toNat), (24, 16, packetUnits k)]]

/-! ## Identity (R419, R430, R434) -/

/-- A device identifier from coordinates. -/
def fromCoords : List Nat → List Nat → Nat
  | n :: ns, c :: cs => c + n * fromCoords ns cs
  | _, _ => 0

/-- The identifier that the torus coordinates expect on a port; none for a port outside the bundles or a ring of one. -/
def State.neighbour (s : State) (p : Nat) : Option Nat :=
  let (d, sizes, w) := s.torus
  let dir := p / w
  let dim := dir / 2
  let n := sizes.getD dim 1
  let cs := coords sizes s.myDevice
  if 2 * d * w ≤ p ∨ n ≤ 1 then none
  else
    let c := cs.getD dim 0
    some (fromCoords sizes (cs.set dim ((if dir % 2 = 0 then c + 1 else c + n - 1) % n)))

/-- Whether the peer that a HELLO names may stand on a port (R419). -/
def State.peerOk (s : State) (p : PortNum) (h : HelloRec) : Bool :=
  if !(h.idValid && s.disc.idValid) then true
  else if h.device == s.disc.deviceId then false
  else if bit s.tr.control 0 then
    let e := Sparse.getD s.tr.routes h.device.toNat 0
    !bit e 0 || fld e 1 6 == p.toNat
  else
    match s.neighbour p.toNat with
    | some t => t == h.device.toNat
    | none => true

/-! ## Going down (R424) -/

/-- Whether a KIND is a request that its source expects an answer to. -/
def isRequest (kind : BitVec 4) : Bool := [0, 1, 2, 5, 6, 7].contains kind.toNat

/-- An answer UNREACHABLE to the source of a packet that has no way on (R424, R432). -/
def State.answerUnreachable (s : State) (kind : BitVec 4) (k : Packet) : State :=
  let ans : Packet := { Packet.empty with status := 2, src := k.dst, dst := k.src, niche := k.niche, channel := k.channel, sys := k.sys,
                                          addr := k.addr, tag := k.tag }
  if isRequest kind then s.send (if kind = 0 || kind = 2 then 3 else 4) ans none else s

/-- A packet sent on, for this device or for the one it came from: with no way on, the source is answered. -/
def State.forwardPacket (s : State) (kind : BitVec 4) (k : Packet) (from? : Option Nat) : State :=
  let s' := s.send kind k from?
  if (s.route k.dst.toNat k.niche k.channel k.dl from?).isNone && k.src.toNat != s.myDevice then s'.answerUnreachable kind k else s'

/-- The port that takes over the packets of a port that went down. -/
def State.takeover (s : State) (p : Nat) (k : Packet) : Option Nat :=
  if bit s.tr.control 0 then
    let e := Sparse.getD s.tr.routes k.dst.toNat 0
    if bit e 0 && fld e 1 6 != p && s.portUp (fld e 1 6) then some (fld e 1 6) else none
  else
    let w := s.torus.2.2
    ((s.bundle (p / w)).filter (· != p)).head?

/-- A port goes down: its packets move ahead of the later packets of their channels at another port, or are unreachable. -/
def State.portDown (s : State) (p : PortNum) : State :=
  let x := s.port p
  let ks := x.tx.filterMap (fun t => match t.2 with | .pkt kind k => some (kind, k) | .link _ _ => none) ++ x.parked
  let s := s.setPort p { x with state := 0, ver := 0, tx := [], parked := [], links := [], rxReplay := false, rxFails := 0, rxInjected := false, replays := 0, booked := none }
  let s := ks.reverse.foldl (fun s q =>
    match s.takeover p.toNat q.2 with
    | some o => s.updPort (BitVec.ofNat 6 o) (fun y => { y with parked := q :: y.parked })
    | none => s.forwardPacket q.1 q.2 none) s
  s.pumpAll

/-! ## Training and HELLO (R418, R419, R435, R446) -/

/-- The range of versions that this end offers, as HELLO carries it. -/
def Port.maxVer (x : Port) : Nat := fld x.control 1 2

/-- This device's HELLO record. -/
def State.sendHello (s : State) (p : PortNum) : State :=
  s.sendLink p 0 [pack [(8, 14, s.disc.deviceId.toNat), (22, 1, s.disc.idValid.toNat), (23, 2, 1), (27, 2, (s.port p).maxVer),
    (31, 16, s.tr.incarnation.toNat), (47, 6, s.tl.hops.toNat)]]

/-- A dead declaration ends with another INCARNATION (R446). -/
def State.revive (s : State) (d : BitVec 14) (inc : BitVec 16) : State :=
  let old := Sparse.find s.tr.dead d.toNat
  { s with tr := { s.tr with dead := if old.isSome && old != some inc then Sparse.del s.tr.dead d.toNat else s.tr.dead
                             unreachable := s.tr.unreachable.filter (· != d.toNat) } }

/-- The source of firmware's timeline in memory-donor mode while no TPPS edge arrives: the port whose peer has the fewest hops
(R536). -/
def State.donorSource (s : State) : State :=
  let ps := s.tr.ports.filter (fun p => p.2.state == 2)
  if s.disc.mode != 1 || s.tlSource == 1 then s
  else
    match ps with
    | [] => s
    | p :: rest =>
      let b := rest.foldl (fun b q => if q.2.peerHops.toNat < b.2.peerHops.toNat then q else b) p
      (s.writeTlControl 0xFF (pack [(0, 2, 2), (2, 6, b.1)])).hopsFrom b.2.peerHops.toNat

/-- HELLO: the version, the identities, the peer's INCARNATION and hops; the port goes UP or stays down. -/
def execHello (p : PortNum) (h : HelloRec) (s : State) : Host.Outcome State Fault Refusal :=
  let x := s.port p
  let ver := min h.maxVer.toNat x.maxVer
  .next (if x.state == 0 || !bit x.control 0 then s
    else
      let s := s.received p 1
      if ver < max 1 h.minVer.toNat then
        (s.portDown p).patinaEvent 0x01 (17 + p.toNat / 9) (1 + 256 * p.toNat) (1 + 256 * x.maxVer) (h.minVer.toNat + 256 * h.maxVer.toNat)
      else if !s.peerOk p h then (s.portDown p).patinaEvent 0x06 (17 + p.toNat / 9) p.toNat h.device.toNat 0
      else
        let s := s.revive h.device h.incarnation
        let s := s.updPort p (fun x =>
          { x with ver := BitVec.ofNat 2 ver, peerId := h.device, peerInc := h.incarnation, peerHops := h.hops })
        let s := if x.state == 1 then
            (s.updPort p (fun x => { x with state := 2, txNext := 0, rxNext := 0, tx := [], links := [], credits := [], shares := [], shareUse := [], peerBook := [] })).sendHello p
          else s
        let s := if s.tlSource == 2 && fld s.tl.control 2 6 == p.toNat then s.hopsFrom h.hops.toNat else s
        s.donorSource.pumpAll)

/-! ## TR_PORT_CONTROL -/

/-- A retrain begins (R423): nothing is sent until it ends. -/
def State.startRetrain (s : State) (p : PortNum) : State :=
  s.updPort p (fun x => { x with state := 3, retrains := satAdd x.retrains 1 })

/-- A write to TR_PORT_CONTROL: ENABLE trains the port, RETRAIN retrains it, a reserved MAX_VER keeps the old one. -/
def State.writePortControl (s : State) (p : PortNum) (m v : W64) : State :=
  let x := s.port p
  let w := masked (m &&& 7) x.control v
  let w := if fld w 1 2 = 0 ∨ fld w 1 2 = 3 then setFld w 1 2 x.maxVer else w
  let s := s.updPort p (fun x => { x with control := w })
  let s := if bit w 0 && !bit x.control 0 then s.updPort p (fun x => { x with state := 1 })
    else if !bit w 0 && bit x.control 0 then s.portDown p
    else s
  if bit (m &&& v) 3 && (s.port p).state == 2 then s.startRetrain p else s

/-- PORT_ENABLE: a write of TR_PORT_CONTROL by firmware or the supervisor. -/
def execPortEnable (a : Actor) (p : PortNum) (v : W64) (s : State) : Host.Outcome State Fault Refusal :=
  .next (if isFwOrSup a then s.writePortControl p (BitVec.allOnes 64) v else s)

/-- PORT_RETRAIN: RETRAIN written to 1. -/
def execPortRetrain (a : Actor) (p : PortNum) (s : State) : Host.Outcome State Fault Refusal :=
  .next (if isFwOrSup a then s.writePortControl p 8 8 else s)

/-- RETRAIN_DONE: TRESTLE_RETRAIN, and the port sends again from the oldest unacknowledged flit; a failed retrain takes it down
(R423, R424). -/
def execRetrainDone (p : PortNum) (ok : Bool) (s : State) : Host.Outcome State Fault Refusal :=
  .next (if (s.port p).state != 3 then s
    else if ok then
      ((s.updPort p (fun x => { x with state := 2, replays := 0, rxFails := 0 })).logError
        { cause := 0x0C, loc := 17 + p.toNat / 9, aux := p.toNat }).pump p.toNat
    else (s.logError { cause := 0x2C, loc := 17 + p.toNat / 9, aux := p.toNat }).portDown p)

/-! ## Replay (R421 to R423) -/

/-- The flit awaited is rejected: it and every later one is discarded until the expected SEQ arrives, and a REPLAY names it; the
eighth failed replay retrains the port. -/
def State.rejectFlit (s : State) (p : PortNum) (injected : Bool) : State :=
  let x := s.port p
  let fails := if x.rxReplay then x.rxFails + 1 else 0
  let s := s.setPort p { x with rejected := satAdd x.rejected 1, rxReplay := true, rxFails := fails, rxInjected := x.rxInjected || injected }
  if 8 ≤ fails then s.startRetrain p else s.sendLink p 2 [pack [(8, 10, x.rxNext.toNat)]]

/-- FLIT_REJECT. -/
def execFlitReject (p : PortNum) (s : State) : Host.Outcome State Fault Refusal :=
  .next (if (s.port p).state != 2 then s else s.rejectFlit p false)

/-- Flits up to an acknowledged SEQ leave the replay buffer. -/
def Port.acked (x : Port) (ack : BitVec 10) : Port :=
  if x.tx.any (fun t => t.1 == ack) then { x with tx := (x.tx.dropWhile (fun t => t.1 != ack)).drop 1 } else x

/-- FLIT_ACCEPT: the expected flit arrives; after a replay, or where the decoder corrected symbols, that is a CORRECTED event
(R422). Another SEQ is rejected, and discarded while a replay is awaited (R421). An injected error corrupts the flit awaited (R486,
target 10). -/
def execFlitAccept (p : PortNum) (seq : BitVec 10) (f : FlitIn) (s : State) : Host.Outcome State Fault Refusal :=
  let x := s.port p
  let err : ErrInfo := { cause := 0x0B, loc := 17 + p.toNat / 9, aux := p.toNat }
  let fec (s : State) : State :=
    if f.corrected then (s.updPort p (fun x => { x with fecWords := x.fecWords + 1 })).logError err else s
  .next (if x.state != 2 then s
    else
      let s := fec s
      if seq != x.rxNext then
        (if x.rxReplay then s.updPort p (fun x => { x with rejected := satAdd x.rejected 1 }) else s.rejectFlit p false)
      else if s.armed 10 && fld s.err.inject 18 6 == p.toNat then s.disarm.rejectFlit p true
      else
        let s := s.updPort p (fun x => { x.acked f.ack with rxNext := x.rxNext + 1, rxReplay := false, rxFails := 0, rxInjected := false })
        let s := if x.rxReplay then s.logError { err with injected := x.rxInjected } else s
        s.pump p.toNat)

/-- REPLAY: every flit from the expected SEQ on is sent again; when eight replays of one SEQ have failed, the port retrains. -/
def execReplay (p : PortNum) (seq : BitVec 10) (s : State) : Host.Outcome State Fault Refusal :=
  let x := s.port p
  .next (if x.state != 2 then s
    else
      let n := if 0 < x.replays ∧ x.replaySeq = seq then x.replays + 1 else 1
      let again := ((x.tx.dropWhile (fun t => t.1 != seq)).map (fun t => t.2.units)).sum
      let s := (s.setPort p { x with replaySeq := seq, replays := n }).received p 1
      if 8 < n then s.startRetrain p else s.count (40 + p.toNat) (32 * again))

/-! ## Credits (R427, R428) -/

/-- CREDIT: units come back to a channel and sub-lane, and its packets go on. -/
def execCredit (p : PortNum) (n : NicheNum) (channel : BitVec 8) (sys dl : Bool) (units : BitVec 16) (s : State) :
    Host.Outcome State Fault Refusal :=
  let key := creditKey { Packet.empty with niche := n, channel := channel, sys := sys, dl := dl }
  let full := fullShare sys
  .next (if (s.port p).state != 2 then s
    else
      let s := s.received p 1
      (s.updPort p (fun x => { x with
        credits := Sparse.put x.credits key (min full (Sparse.getD x.credits key full + units.toNat)),
        shareUse := if sys then x.shareUse else Sparse.put x.shareUse (n.toNat * 256 + channel.toNat) s.ns })).pump p.toNat)

/-- CHANNEL_RECLAIM: the share of a job channel that has been idle for 1 ms, with every credit returned, becomes free. -/
def execChannelReclaim (p : PortNum) (n : NicheNum) (channel : BitVec 8) (s : State) : Host.Outcome State Fault Refusal :=
  let x := s.port p
  let ch := n.toNat * 256 + channel.toNat
  let whole (dl : Bool) : Bool :=
    Sparse.getD x.credits (creditKey { Packet.empty with niche := n, channel := channel, dl := dl }) (fullShare false) == fullShare false
  let busy := x.parked.any (fun q => !q.2.sys && q.2.niche == n && q.2.channel == channel)
  .next (if x.shares.contains ch && whole false && whole true && !busy && decide (Sparse.getD x.shareUse ch 0 + 1000000 ≤ s.ns) then
      (s.updPort p (fun x => { x with shares := x.shares.filter (· != ch), shareUse := Sparse.del x.shareUse ch })).pump p.toNat
    else s)

/-! ## TIME and BOOK records (R441, R443) -/

/-- TIME: the one-way delay; a device that takes its time from the port measures its phase against T1 plus that delay. Before
it is LOCKED it takes a value that lies further off than 8 ticks, as R45 takes a load (DEDUCED from table Timeline sources: the
neighbour gives the time of day; log entry 81). -/
def execTime (p : PortNum) (t1 t2 t3 t4 : W64) (s : State) : Host.Outcome State Fault Refusal :=
  .next (if (s.port p).state != 2 then s
    else
      let twice : Int := (t4 - t3).toInt - (t1 - t2).toInt
      let error : Int := (t4 - t1).toInt - twice / 2
      let s := s.received p 1
      let s := s.updPort p (fun x => { x with delay := BitVec.ofInt 16 (8 * twice), lastT1 := t1, lastRx := t4 })
      if s.tlSource == 2 && fld s.tl.control 2 6 == p.toNat then
        let far := decide (s.tl.state.toNat ≤ 1) && decide (8 < error.natAbs) && s.tl.slew == 0
        let s := if far then s.takeTime (s.tl.now - BitVec.ofInt 64 error) else s
        s.measure error 64 (!far)
      else s)

/-- BOOK: the peer's placement unit writes this port's entry of a slot index. An entry to send in tells of the peer's own entry to
receive in (DEDUCED; log entry 81). -/
def execBook (p : PortNum) (idx : BitVec 10) (dir : Bool) (n : NicheNum) (channel : BitVec 8) (valid : Bool) (s : State) :
    Host.Outcome State Fault Refusal :=
  .next (if (s.port p).state != 2 then s
    else
      let e : W32 := BitVec.ofNat 32 (pack [(0, 1, valid.toNat), (2, 6, n.toNat), (8, 8, channel.toNat), (16, 1, dir.toNat)]).toNat
      let s := (s.received p 1).bookPut false (p.toNat * 1024 + idx.toNat) e
      if dir then s else s.updPort p (fun x => { x with peerBook := Sparse.put x.peerBook idx.toNat (setBit e 16 true) }))

/-! ## TR_ID, TR_CONTROL, TR_TORUS, TR_ROUTE (R31, R434, R447) -/

/-- Every port is disabled. -/
def State.portsOff (s : State) : Bool := s.tr.ports.all (fun p => !bit p.2.control 0)

/-- The identifier and ID_VALID change together (R31). -/
def State.setDevice (s : State) (d : BitVec 14) : State := { s with disc := { s.disc with deviceId := d, idValid := true } }

/-- A write to TR_ID. -/
def State.writeTrId (s : State) (m v : W64) : State :=
  if s.portsOff && fld m 0 14 != 0 then s.setDevice (BitVec.ofNat 14 (fld (masked m (BitVec.ofNat 64 s.disc.deviceId.toNat) v) 0 14)) else s

/-- TR_ID_WRITE. -/
def execTrIdWrite (a : Actor) (v : W64) (s : State) : Host.Outcome State Fault Refusal :=
  .next (if isFwOrSup a then s.writeTrId (BitVec.allOnes 64) v else s)

/-- A write to TR_CONTROL: ROUTE_MODE only while every port is disabled. -/
def State.writeTrControl (s : State) (m v : W64) : State :=
  { s with tr := { s.tr with control := masked (m &&& (if s.portsOff then 3 else 2)) s.tr.control v } }

/-- A write to TR_TORUS: reserved encodings of DIMS and PORTS_PER_DIR keep the old field. -/
def State.writeTrTorus (s : State) (m v : W64) : State :=
  let old := s.tr.torus
  let w := masked (m &&& mask 0 28) old v
  let w := if fld w 0 2 = 0 then setFld w 0 2 (fld old 0 2) else w
  let bad := fld w 23 5 = 0 ∨ 36 < 2 * fld w 0 2 * fld w 23 5
  let w := if bad then setFld w 23 5 (fld old 23 5) else w
  if s.portsOff then { s with tr := { s.tr with torus := w } } else s

/-- A write to a TR_ROUTE entry. -/
def State.writeTrRoute (s : State) (t : Nat) (m v : W64) : State :=
  let old := Sparse.getD s.tr.routes t 0
  let w := masked (m &&& mask 0 7) old v
  let w := if 36 ≤ fld w 1 6 then setFld w 1 6 (fld old 1 6) else w
  if s.portsOff then { s with tr := { s.tr with routes := Sparse.put s.tr.routes t w } } else s

/-- ROUTE_CONFIG_WRITE: TR_CONTROL (0), TR_TORUS (1), TR_ROUTE of a device (2). -/
def execRouteConfigWrite (a : Actor) (which : BitVec 2) (dev : BitVec 14) (v : W64) (s : State) : Host.Outcome State Fault Refusal :=
  .next (if !isFwOrSup a then s
    else
      match which.toNat with
      | 0 => s.writeTrControl (BitVec.allOnes 64) v
      | 1 => s.writeTrTorus (BitVec.allOnes 64) v
      | 2 => s.writeTrRoute dev.toNat (BitVec.allOnes 64) v
      | _ => s)

/-- ASSIGN: while the device has no identifier it takes the one that the packet is destined for (R434; assumption log). -/
def execAssign (p : PortNum) (k : Packet) (s : State) : Host.Outcome State Fault Refusal :=
  .next (if (s.port p).state != 2 then s
    else
      let s := (s.received p (packetUnits k)).returnUnits p k
      if !s.disc.idValid && bit s.tr.control 1 then s.setDevice k.dst else s)

end Sys2Proof.Machine
end

