-- ==== Sys2Proof/Machine/Qcl.lean ====
section
/-! DEFINITION. The Quingal Coherent Link: training, retrain, host-coherent windows and their directory, interrupt messages,
the SPDM transport (17_host_link.md, R533, R534). -/

namespace Sys2Proof.Machine

/-! ## Training (R450, R452) -/

/-- Versions that QCL_CONTROL.MAX_VER admits, highest first. -/
def qclVersions (maxVer : Nat) : List Nat :=
  match maxVer with | 0 => [0x10] | 1 => [0x11, 0x10] | _ => [0x20, 0x11, 0x10]

/-- The port after training against a host's range: UP at the highest common version, or down with VERSION_MISMATCH. -/
def State.trainQcl (s : State) (lo hi : Byte) : State :=
  let vs := qclVersions (fld s.qcl.control 1 2)
  let s : State := { s with qcl := { s.qcl with peerMin := lo, peerMax := hi } }
  match vs.find? (fun v => decide (lo.toNat ≤ v) && decide (v ≤ hi.toNat)) with
  | some v => { s with qcl := { s.qcl with state := 2, ver := BitVec.ofNat 8 v } }
  | none =>
    ({ s with qcl := { s.qcl with state := 0, ver := 0 } } : State).patinaEvent 0x01 0 0 (0x10 + 256 * vs.headD 0) (lo.toNat + 256 * hi.toNat)

/-- QCL_TRAINING. -/
def execQclTraining (peerMin peerMax : Byte) (s : State) : Host.Outcome State Fault Refusal :=
  .next (if s.qcl.state == 1 then s.trainQcl peerMin peerMax else s)

/-- QCL_REPLAY: a CORRECTED event. Whether the flit is the one whose replay came before, which then failed, is a free bit (DESIGN
CHOICE: the row carries no flit; assumption log 91). After eight that failed the port retrains. -/
def execQclReplay (s : State) : Host.Outcome State Fault Refusal :=
  .next (if s.qcl.state == 2 then
      let n := if Config.freeBit s.fresh then s.qcl.fails + 1 else 0
      let s := ({ s with qcl := { s.qcl with replays := satAdd s.qcl.replays 1, fails := n }, fresh := s.fresh + 1 } : State).logError { cause := 0x0D }
      if 8 ≤ n then { s with qcl := { s.qcl with state := 3 } } else s
    else s)

/-- QCL_RETRAIN: a retrain, or one that the host requested of a port that is up, ends; it is a CORRECTED event, and a failed one
while hosted is DEVICE_FATAL. -/
def execQclRetrain (requested ok : Bool) (s : State) : Host.Outcome State Fault Refusal :=
  .next (if s.qcl.state != 3 && !(requested && s.qcl.state == 2) then s
    else
      let s : State := { s with qcl := { s.qcl with retrains := satAdd s.qcl.retrains 1, fails := 0 } }
      if ok then ({ s with qcl := { s.qcl with state := 2 } } : State).logError { cause := 0x0E }
      else
        let s : State := { s with qcl := { s.qcl with state := 0, ver := 0 } }
        if s.disc.mode == 2 then s.fatal { cause := 0x43 } else s)

/-- A write to QCL_CONTROL. -/
def State.writeQclControl (s : State) (m v : W64) : State :=
  let old := s.qcl.control
  let w := masked (m &&& 7) old v
  let w := if fld w 1 2 = 3 then setFld w 1 2 (fld old 1 2) else w
  let q : Qcl := { s.qcl with control := w }
  let q : Qcl := if bit w 0 && !bit old 0 then { q with state := 1 } else if !bit w 0 then { q with state := 0, ver := 0 } else q
  let q : Qcl := if bit (m &&& v) 3 && q.state == 2 then { q with state := 3 } else q
  { s with qcl := q }

/-! ## Windows and the directory (R460 to R464, R470, R537) -/

/-- The range of a window register: base and bytes. -/
def winRange (w : W64) : Nat × Nat := (fld w 21 27 * 2 ^ 21, fld w 1 20 * 2 ^ 21)

/-- A write to QCL_WINw: ignored while the directory holds a line of the window, and refused over the firmware region. -/
def State.writeWin (s : State) (w : Nat) (m v : W64) : State :=
  let old := Sparse.getD s.qcl.wins w 0
  let (b, n) := winRange old
  let new := masked (m &&& mask 0 48) old v
  if bit old 0 && s.qcl.dir.any (fun d => overlaps d.1 64 b n) then s
  else if inFirmware (winRange new).1 (winRange new).2 then s.writeRefused (0x700_1000 + 8 * w) 0 v
  else { s with qcl := { s.qcl with wins := Sparse.put s.qcl.wins w new } }

/-- QCL_WIN_WRITE. -/
def execQclWinWrite (a : Actor) (w : BitVec 4) (v : W64) (s : State) : Host.Outcome State Fault Refusal :=
  .next (if isFwOrSup a then s.writeWin w.toNat (BitVec.allOnes 64) v else s)

/-- The directory without a line. -/
def State.dropLine (s : State) (l : Nat) : State :=
  { s with qcl := { s.qcl with
      dir := s.qcl.dir.filter (fun d => d.1 != l), recalling := s.qcl.recalling.filter (· != l)
      recallAt := Sparse.del s.qcl.recallAt l } }

/-- A line request of the host: it takes a window line, shared or exclusive; a full directory first recalls the line granted least
recently (R462). It waits while a recall that it depends on is open. -/
def State.takeLine (s : State) (l : Nat) (excl : Bool) : State :=
  let wait (s : State) : State := { s with qcl := { s.qcl with lineWait := s.qcl.lineWait ++ [(l, excl)] } }
  if !s.inWindow l then s
  else if s.qcl.recalling.contains l then wait s
  else if decide (2 ^ 20 ≤ s.qcl.dir.length) && !s.qcl.dir.any (fun d => d.1 == l) then
    wait (s.recall ((s.qcl.dir.head?.map (·.1)).toList))
  else
    let ((_, _), s) := s.homeRead l 64
    { s.count 112 64 with qcl := { s.qcl with dir := s.qcl.dir.filter (fun d => d.1 != l) ++ [(l, excl)] } }

/-- HOST_LINE_REQUEST. -/
def execHostLineRequest (line : BitVec 48) (excl : Bool) (s : State) : Host.Outcome State Fault Refusal :=
  .next (if s.hostUp then s.takeLine line.toNat excl else s)

/-- The line requests that wait, tried again in order. -/
def State.serveLines (s : State) : State :=
  if s.qcl.lineWait.isEmpty then s
  else s.qcl.lineWait.foldl (fun s x => s.takeLine x.1 x.2) { s with qcl := { s.qcl with lineWait := [] } }

/-- HOST_WRITEBACK: the host gives an exclusive line back with its data; a recall of it is answered (R464). -/
def execHostWriteback (line : BitVec 48) (data : List Byte) (s : State) : Host.Outcome State Fault Refusal :=
  .next (if s.qcl.dir.contains (line.toNat, true) then ((s.count 113 64).homeWrite line.toNat data).dropLine line.toNat else s)

/-- HOST_RECALL_ANSWER: the host gives up a line that it held shared. -/
def execHostRecallAnswer (line : BitVec 48) (s : State) : Host.Outcome State Fault Refusal :=
  .next (if s.qcl.recalling.contains line.toNat && s.qcl.dir.contains (line.toNat, false) then s.dropLine line.toNat else s)

/-- RECALL_TIMEOUT: a line recalled 100 µs ago is written as poisoned, counted and recorded. -/
def execRecallTimeout (line : BitVec 48) (s : State) : Host.Outcome State Fault Refusal :=
  let l := line.toNat
  .next (if s.qcl.recalling.contains l && decide (Sparse.getD s.qcl.recallAt l 0 + 100000 ≤ s.ns) then
      let s : State := { s.dropLine l with mem := s.mem.addPoison (wordsOf l 64) }
      ({ s with qcl := { s.qcl with recallTimeouts := satAdd s.qcl.recallTimeouts 1 } } : State).logError
        { cause := 0x29, loc := s.locOf l, addr := s.globalPa l, aspace := 1 }
    else s)

/-! ## Interrupt messages (R465) -/

/-- A write to word i of a QCL_MSG entry; clearing MASK while PENDING sends one message. -/
def State.writeMsg (s : State) (k i : Nat) (m v : W64) : State :=
  let e := Sparse.getD s.qcl.msgs k {}
  let put (s : State) (e : Msg) : State := { s with qcl := { s.qcl with msgs := Sparse.put s.qcl.msgs k e } }
  if i = 0 then put s { e with addr := masked (m &&& mask 2 50) e.addr v }
  else
    let f := fld (masked m (BitVec.ofNat 64 (e.func.toNat * 2 ^ 34)) v) 34 7
    let e' : Msg := { e with
      data := BitVec.ofNat 32 (fld (masked m (BitVec.ofNat 64 e.data.toNat) v) 0 32)
      mask := if bit m 32 then bit v 32 else e.mask
      func := if 65 ≤ f then e.func else BitVec.ofNat 7 f }
    if e'.pending && !e'.mask then (put s { e' with pending := false }).trigger k else put s e'

/-- MSG_UNMASK: a write of word 1 of a message's entry. -/
def execMsgUnmask (a : Actor) (m : BitVec 12) (v : W64) (s : State) : Host.Outcome State Fault Refusal :=
  .next (if isFwOrSup a then s.writeMsg m.toNat 1 (BitVec.allOnes 64) v else s)

/-! ## SPDM (R469, R533, R534) -/

/-- REQ_LEN bytes of the request. -/
def Qcl.request (q : Qcl) : List Byte := (List.range (min 4096 (fld q.spdmCtrl 0 13))).map (fun i => Sparse.getD q.spdmReq i 0)

/-- The code of a request: byte 1 of an SPDM message. -/
def Qcl.spdmCode (q : Qcl) : Nat := (Sparse.getD q.spdmReq 1 0).toNat

/-- Codes of the requests that the responder supports. -/
def spdmCodes : List Nat := [0x81, 0x82, 0x83, 0x84, 0xE0, 0xE1, 0xE3]

/-- Firmware answers the request: GO cleared, the response and its length written, DONE set, the message triggered. -/
def State.serveSpdm (s : State) : State :=
  let q := s.qcl
  let req := q.request
  let rsp := (Config.spdmResponse q.spdmCode req q.spdmLog s.boot.measured).take 4096
  let ctrl := setBit (setBit (setFld q.spdmCtrl 13 13 rsp.length) 26 false) 27 true
  ({ s with qcl := { q with spdmCtrl := ctrl, spdmRsp := (rsp.mapIdx (fun i b => (i, b))), spdmLog := q.spdmLog ++ [req] } } : State).trigger (fld ctrl 28 12)

/-- A request of one code that waits is answered. -/
def State.spdm (s : State) (code : Nat) : State :=
  if bit s.qcl.spdmCtrl 26 && s.qcl.spdmCode == code && s.disc.fwReady then s.serveSpdm else s

/-- GET_VERSION. -/
def execGetVersion (s : State) : Host.Outcome State Fault Refusal := .next (s.spdm 0x84)
/-- GET_CAPABILITIES. -/
def execGetCapabilities (s : State) : Host.Outcome State Fault Refusal := .next (s.spdm 0xE1)
/-- NEGOTIATE_ALGORITHMS: Ed448 and SHA3-512 only. -/
def execNegotiateAlgorithms (s : State) : Host.Outcome State Fault Refusal := .next (s.spdm 0xE3)
/-- GET_DIGESTS. -/
def execGetDigests (s : State) : Host.Outcome State Fault Refusal := .next (s.spdm 0x81)
/-- GET_CERTIFICATE. -/
def execGetCertificate (s : State) : Host.Outcome State Fault Refusal := .next (s.spdm 0x82)
/-- CHALLENGE, signed with the alias key. -/
def execChallenge (s : State) : Host.Outcome State Fault Refusal := .next (s.spdm 0x83)
/-- GET_MEASUREMENTS. -/
def execGetMeasurements (s : State) : Host.Outcome State Fault Refusal := .next (s.spdm 0xE0)

/-- A write to QCL_SPDM_CTRL: a GO while a request is in progress is ignored, any other is taken, with DONE 0 too: R469 has
such a GO ignored, yet DONE resets to 0 and no request could begin (DESIGN CHOICE, assumption log 90). A request of no code above
is answered as SPDM 1.2 prescribes. -/
def State.writeSpdmCtrl (s : State) (m v : W64) : State :=
  let old := s.qcl.spdmCtrl
  let w := masked (m &&& (mask 0 13 ||| mask 28 12)) old v
  let w := if bit (m &&& v) 27 then setBit w 27 false else w
  let go := bit (m &&& v) 26 && !bit old 26
  let w := if go then setBit w 26 true else w
  let s : State := { s with qcl := { s.qcl with spdmCtrl := w } }
  if go && !spdmCodes.contains s.qcl.spdmCode && s.disc.fwReady then s.serveSpdm else s

/-- A write into QCL_SPDM_REQ: bytes from an offset. -/
def State.writeSpdmReq (s : State) (off : Nat) (bs : List Byte) : State :=
  { s with qcl := { s.qcl with spdmReq := (bs.mapIdx (fun i b => (off + i, b))).foldl (fun q p => Sparse.put q p.1 p.2) s.qcl.spdmReq } }

end Sys2Proof.Machine
end

