-- ==== Sys2Proof/Machine/Patina.lean ====
section
/-! DEFINITION. Patina: histograms, the error ledger, margin probes, signed records, the journal and its readout
(19_patina.md), and HBM repair. -/

namespace Sys2Proof.Machine

/-! ## Keys and signed records (R497, R498, R531) -/

/-- ASCII bytes of a label. -/
def ascii (t : String) : List Byte := t.toList.map (fun c => BitVec.ofNat 8 c.toNat)

/-- The first n bytes of the SHAKE256 hash of a byte string (FIPS 202). -/
def hash (bs : List Byte) (n : Nat) : List Byte := fitBytes n (Config.shake256 bs n)

/-- The private key with which records of a location were signed under a value of MIN_SVN (R531). -/
def patinaSeedAt (svn : Byte) (loc : Nat) : List Byte :=
  let die := if loc ≤ 24 then loc else 0
  hash (ascii "PATINA" ++ Config.uds ++ leBytes 8 (Config.serial die).toNat ++ [svn]) 57

/-- The private key with which records of a location are signed: the die's, a stack's by the plinth (R497, R531). -/
def State.patinaSeed (s : State) (loc : Nat) : List Byte :=
  patinaSeedAt (BitVec.ofNat 8 s.boot.keySvn) loc

/-- KEY_ID of a location's signer. -/
def State.keyId (s : State) (loc : Nat) : List Byte := hash (Config.ed448Public (s.patinaSeed loc)) 8

/-- A record of a location signed: the next SEQ, PREV of the record before it. -/
def State.sign (s : State) (type loc : Nat) (body : List Byte) : PatRec × State :=
  let seq := Sparse.getD s.pat.seqs loc 0 + 1
  let w0 := pack [(0, 8, 1), (8, 8, type), (16, 6, loc), (32, 32, body.length)]
  let w3 := pack [(0, 14, s.disc.deviceId.toNat), (14, 1, s.disc.idValid.toNat), (16, 16, s.tr.incarnation.toNat)]
  let head := leBytes 8 w0.toNat ++ leBytes 8 seq ++ leBytes 8 s.tl.now.toNat ++ leBytes 8 w3.toNat ++ s.keyId loc ++
    fitBytes 24 (if seq = 1 then [] else Sparse.getD s.pat.prev loc [])
  let bytes := head ++ body ++ fitBytes 128 (fitBytes 114 (Config.ed448phSign (s.patinaSeed loc) "PATINA1" (head ++ body)))
  ({ loc := loc, type := type, seq := seq, bytes := bytes },
   { s with pat := { s.pat with seqs := Sparse.put s.pat.seqs loc seq, prev := Sparse.put s.pat.prev loc (hash bytes 24),
                                firstTime := if seq = 1 then Sparse.put s.pat.firstTime loc s.tl.now else s.pat.firstTime } })

/-! ## The journal (R499, R502) -/

/-- Bytes of the journal: the rest of a 64 MiB part. -/
def journalBytes : Nat := 0x200_0000

/-- Whether a record is the latest LIFETIME record of its location among a journal. -/
def latestLife (j : List PatRec) (r : PatRec) : Bool :=
  r.type == 1 && !j.any (fun q => q.type == 1 && q.loc == r.loc && decide (r.seq < q.seq))

/-- A record appended: a sector about to be written again is erased, after its latest LIFETIME records were copied to the head. -/
def Patina.append (p : Patina) (r : PatRec) : Nat → Patina
  | 0 => p
  | fuel + 1 =>
    let last := (p.head + r.bytes.length - 1) / 0x1_0000
    let gone := p.journal.filter (fun q => decide (q.place / 0x1_0000 + journalBytes / 0x1_0000 ≤ last))
    if gone.isEmpty then { p with journal := p.journal ++ [{ r with place := p.head }], head := p.head + r.bytes.length }
    else
      let keep := gone.filter (latestLife p.journal)
      let p := { p with journal := p.journal.filter (fun q => !gone.contains q) }
      Patina.append (keep.foldl (fun p q => Patina.append p q fuel) p) r fuel

/-- Whether an ERRORS record holds only CORRECTED records. -/
def onlyCorrected (r : PatRec) : Bool :=
  let body := (r.bytes.drop 64).take (r.bytes.length - 192)
  r.type == 3 && (List.range (body.length / 32)).all (fun i => leNat ((body.drop (32 * i + 9)).take 1) % 4 == 1)

/-- The records kept in the 256 KiB buffer: while it overflows, the oldest ERRORS records of CORRECTED errors go first, then the
oldest LIFETIME records; with the count of those dropped. -/
def trimBuffer : Nat → List PatRec → List PatRec × Nat
  | 0, b => (b, 0)
  | fuel + 1, b =>
    if (b.map (fun r => r.bytes.length)).sum ≤ 0x4_0000 then (b, 0)
    else
      match (b.findIdx? onlyCorrected).orElse (fun _ => b.findIdx? (fun r => r.type == 1)) with
      | some i => let (b', n) := trimBuffer fuel (b.eraseIdx i); (b', n + 1)
      | none => (b, 0)

/-- A signed record journalled, or kept while flash does not work; nothing after SHUTDOWN_DONE (R501). -/
def State.journal (s : State) (r : PatRec) : State :=
  if s.pat.shutdownDone then s
  else if s.pat.journalFault then
    let (b, n) := trimBuffer (s.pat.buffered.length + 1) (s.pat.buffered ++ [r])
    { s with pat := { s.pat with buffered := b, recordsDropped := satAdd s.pat.recordsDropped n } }
  else { s with pat := s.pat.append r 64 }

/-- A record signed and journalled. -/
def State.signJournal (s : State) (type loc : Nat) (body : List Byte) : State :=
  let (r, s) := s.sign type loc body
  s.journal r

/-- The 32 bytes of an error-log record. -/
def ErrRec.bytes (r : ErrRec) : List Byte := [r.w0, r.w1, r.w2, r.w3].flatMap (fun w => leBytes 8 w.toNat)

/-- Error-log records journalled in ERRORS records of at most 64. -/
def State.journalErrors (s : State) (rs : List ErrRec) : State :=
  (List.range (ceilDiv rs.length 64)).foldl (fun s i => s.signJournal 3 0 (((rs.drop (64 * i)).take 64).flatMap (·.bytes))) s

/-- Event records and the errors that are not CORRECTED are journalled (R500); `all` adds the CORRECTED ones. -/
def State.journalWaiting (s : State) (all : Bool) : State :=
  let now := s.pat.errorsWait.filter (fun e => all || !e.1)
  let events := s.pat.events
  let s : State := { s with pat := { s.pat with events := [], errorsWait := s.pat.errorsWait.filter (fun e => !(all || !e.1)) } }
  let s := s.journalErrors (now.map (·.2))
  events.foldl (fun s e => s.signJournal 2 0 ([e.1, e.2.1, e.2.2.1, e.2.2.2].flatMap (fun w => leBytes 8 w.toNat))) s

/-! ## LIFETIME bodies (table LIFETIME sections) -/

/-- KIND of a location: 0 plinth, 1 compute, 2 link, 3 bulk, 4 stack; none for a reserved index. -/
def kindOf (loc : Nat) : Option Nat :=
  if loc = 0 then some 0 else if loc ≤ 16 then some 1 else if loc ≤ 20 then some 2 else if loc ≤ 24 then some 3
  else if 32 ≤ loc ∧ loc ≤ 43 then some 4 else none

/-- The 37 locations. -/
def allLocs : List Nat := (List.range 44).filter (fun l => (kindOf l).isSome)

/-- The region at a position of a compute die (R19). -/
def regionAt (loc pos : Nat) : Nat := 8 * (2 * ((loc - 1) / 4) + pos / 2) + (2 * ((loc - 1) % 4) + pos % 2)

/-- A section with its header. -/
def section_ (id : Nat) (body : List Byte) : List Byte := leBytes 4 id ++ leBytes 4 (body.length + 8) ++ body

/-- Keys of lifetime totals: a region's counters and a port's (R496). -/
def regionKey (r k : Nat) : Nat := 1000 + r * 8 + k
def portKey (p k : Nat) : Nat := 2000 + p * 4 + k

/-- Aging monitors of a KIND. -/
def monitors (kind : Nat) : Nat := if kind = 1 then 16 else if kind = 0 then 8 else if kind ≤ 3 then 2 else 0

def sat32 (n : Nat) : List Byte := leBytes 4 (min n (2 ^ 32 - 1))

/-- The 8 bytes of a core in CORES. -/
def State.coreWord (s : State) (c : Nat) : List Byte :=
  leBytes 8 (pack [(0, 24, min 0xFF_FFFF (Sparse.getD s.pat.coreCorr c 0)), (24, 16, min 0xFFFF (Sparse.getD s.pat.coreUe c 0)),
    (40, 16, min 0xFFFF (Sparse.getD s.pat.coreOwned c 0)), (56, 1, (s.core (BitVec.ofNat 13 c)).failed.toNat)]).toNat

/-- The body of a LIFETIME record of a location, with its flags. -/
def State.lifeBody (s : State) (loc kind flags : Nat) : List Byte :=
  let p := s.pat
  let tot (k : Nat) : Nat := Sparse.getD p.totals k 0
  let stepping : Byte := if loc = 0 then Config.stepping else Config.dieStepping loc
  let ident := leBytes 8 (Config.serial loc).toNat ++ leBytes 2 0x2516 ++ [stepping, BitVec.ofNat 8 kind] ++ leBytes 4 0 ++
    leBytes 8 (Sparse.getD p.firstTime loc s.tl.now).toNat ++ leBytes 8 0
  let life := leBytes 4 p.powerOnS.toNat ++ leBytes 4 p.powerCycles.toNat ++ leBytes 4 p.orderly.toNat ++ leBytes 4 p.abrupt.toNat ++
    leBytes 4 p.fatalRecoveries.toNat ++ leBytes 4 0 ++ leBytes 8 flags
  let regions := (List.range 4).map (regionAt loc)
  let hist (m : Sparse W32) (k : Nat) : List Byte := (List.range 16).flatMap (fun b => leBytes 4 (Sparse.getD m (k * 16 + b) 0).toNat)
  section_ 1 ident ++ section_ 2 life ++ section_ 3 (hist p.temps loc) ++
    (if kind = 1 then section_ 4 (regions.flatMap (hist p.volts)) else []) ++
    section_ 5 ((List.range 72).flatMap (fun c => leBytes 4 (Sparse.getD p.ledger (loc * 128 + c) 0).toNat)) ++
    (if kind = 1 then
      section_ 6 (regions.flatMap (fun r => (List.range 128).flatMap (fun i => s.coreWord (128 * r + i)))) ++
      section_ 7 (regions.flatMap (fun r => leBytes 8 (tot (regionKey r 0)) ++ sat32 (tot (regionKey r 1)) ++ sat32 (tot (regionKey r 2)) ++
        sat32 (tot (regionKey r 3)) ++ leBytes 4 0 ++ leBytes 8 (tot (regionKey r 4)))) ++
      section_ 8 (regions.flatMap (fun r => fitBytes 128 ((Sparse.getD p.margins r []).flatMap (fun m => leBytes 8 m.time.toNat ++ leBytes 8 m.word1.toNat))))
     else []) ++
    (if kind ≤ 3 then
      section_ 9 ((List.range (monitors kind)).flatMap (fun i =>
        let a := Sparse.getD p.aging (loc * 16 + i) (0, 0, 0)
        leBytes 4 a.1.toNat ++ leBytes 4 a.2.1.toNat ++ leBytes 8 a.2.2.toNat)) else []) ++
    (if kind = 0 || kind = 2 then
      section_ 0xA ((List.range (if kind = 2 then 72 else 32)).flatMap (fun l => leBytes 6 (Config.eyeMargin loc l p.powerOnS.toNat).toNat ++ leBytes 2 0))
     else []) ++
    (if kind = 2 then
      section_ 0xB ((List.range 9).flatMap (fun i =>
        let k := 9 * (loc - 17) + i
        leBytes 8 (tot (portKey k 0)) ++ sat32 (tot (portKey k 1)) ++ leBytes 2 (min 0xFFFF (tot (portKey k 2))) ++ leBytes 2 0)) else []) ++
    (if kind = 3 then
      section_ 0xB ((List.range 4).flatMap (fun i =>
        let ch := 4 * (loc - 21) + i
        leBytes 8 (tot (channelKey ch false)) ++ sat32 (tot (channelKey ch true)) ++ leBytes 2 0 ++ leBytes 2 (Sparse.getD p.channelGib ch 0))) else []) ++
    (if kind = 4 then section_ 0xC (leBytes 4 (Sparse.getD p.repairs (loc - 32) 0).toNat ++ leBytes 4 (Config.repairLeft loc p.powerOnS.toNat).toNat) else [])

/-- A LIFETIME record of a location signed. -/
def State.signLife (s : State) (loc flags : Nat) : PatRec × State :=
  s.sign 1 loc (s.lifeBody loc ((kindOf loc).getD 0) (flags + 4 * s.pat.resumed.toNat))

/-- A LIFETIME set: every error and event that waits, then one record for each location (R500). -/
def State.lifeSet (s : State) (flags : Nat) : State :=
  let s := allLocs.foldl (fun s l => let (r, s) := s.signLife l flags; s.journal r) (s.journalWaiting true)
  { s with pat := { s.pat with resumed := false } }

/-! ## Every second (R488, R496) -/

/-- The temperature bin of quarter degrees. -/
def tempBin (q : Int) : Nat := if q < 100 then 0 else if 380 ≤ q then 15 else ((q - 100) / 20).toNat + 1

/-- The voltage bin. -/
def voltBin (mv : Nat) : Nat := if mv < 600 then 0 else if 950 ≤ mv then 15 else (mv - 600) / 25 + 1

/-- The increase of a hardware counter since its last reading added to its total. -/
def Patina.take (p : Patina) (k v : Nat) : Patina :=
  let old := Sparse.getD p.lastRead k 0
  { p with lastRead := Sparse.put p.lastRead k v, totals := Sparse.put p.totals k (Sparse.getD p.totals k 0 + (v - old)) }

/-- The lifetime counts of a core: corrected events, and drawer words poisoned. -/
def Patina.takeCore (p : Patina) (c : Nat) (k : Core) : Patina :=
  let corr := k.drawerCe.toNat + k.cacheRefetch.toNat + k.regReplay.toNat
  let oldC := Sparse.getD p.lastRead (10000 + 2 * c) 0
  let oldU := Sparse.getD p.lastRead (10001 + 2 * c) 0
  { p with lastRead := Sparse.put (Sparse.put p.lastRead (10000 + 2 * c) corr) (10001 + 2 * c) k.drawerUe.toNat
           coreCorr := Sparse.put p.coreCorr c (Sparse.getD p.coreCorr c 0 + (corr - oldC))
           coreUe := Sparse.put p.coreUe c (Sparse.getD p.coreUe c 0 + (k.drawerUe.toNat - oldU)) }

/-- Every hardware counter of R496 read. -/
def State.readCounters (s : State) : State :=
  let p := s.cores.foldl (fun p c => p.takeCore c.1 c.2) s.pat
  let p := s.regions.foldl (fun (p : Patina) r =>
    [r.2.auditChecks.toNat, r.2.auditMismatches.toNat, r.2.spillCe.toNat, r.2.spillUe.toNat, r.2.droop.toNat].zipIdx.foldl
      (fun p x => p.take (regionKey r.1 x.2) x.1) p) p
  let p := s.tr.ports.foldl (fun (p : Patina) r =>
    [r.2.fec, r.2.rejected.toNat, r.2.retrains.toNat].zipIdx.foldl (fun p x => p.take (portKey r.1 x.2) x.1) p) p
  { s with pat := p }

/-- Whether firmware runs. -/
def State.fwRuns (s : State) : Bool := s.boot.runSlot.isSome && !s.pins.perst

/-- An aging monitor measured (R494). -/
def Patina.measure (p : Patina) (key khz : Nat) (t : W64) : Patina :=
  let k : W32 := BitVec.ofNat 32 khz
  let base := match Sparse.find p.aging key with | some a => a.1 | none => k
  { p with aging := Sparse.put p.aging key (base, k, t) }

/-- The aging monitors of the plinth, link dies and bulk-memory dies measured, once every PROBE_INTERVAL (R494). -/
def State.measureOthers (s : State) (ms : List (BitVec 6 × List Nat)) : State :=
  let p := s.pat
  if p.powerOnS.toNat < p.agedAt + 3600 * fld p.control 1 8 then s
  else
    let others := ms.filter (fun m => match kindOf m.1.toNat with | some k => k != 1 | none => false)
    let p := others.foldl (fun p m => (m.2.take (monitors ((kindOf m.1.toNat).getD 4))).zipIdx.foldl
      (fun (p : Patina) a => p.measure (m.1.toNat * 16 + a.2) a.1 s.tl.now) p) p
    { s with pat := { p with agedAt := p.powerOnS.toNat } }

/-- PATINA_SECOND: histogram bins, counter increases, and the records that are due within a second. -/
def execPatinaSecond (d : PatSample) (s : State) : Host.Outcome State Fault Refusal :=
  .next (if !s.fwRuns then s
    else
      let p := s.pat
      let temps := d.temps.foldl (fun m t => bump32 m (t.1.toNat * 16 + tempBin t.2) 1) p.temps
      let volts := d.volts.foldl (fun m v => bump32 m (v.1.toNat * 16 + voltBin v.2) 1) p.volts
      let s : State := { s with pat := { p with temps := temps, volts := volts, powerOnS := p.powerOnS + 1 } }
      let s := d.volts.foldl (fun (s : State) v => s.updRegion v.1 (fun x => { x with voltMv := BitVec.ofNat 12 v.2, current := Config.regCurrent v.1.toNat p.powerOnS.toNat })) s
      (s.measureOthers d.aging).readCounters.journalWaiting false)

/-- LIFETIME_SET: every 600 s of power-on time a set falls due; none is started after SHUTDOWN_REQ. -/
def execLifetimeSet (s : State) : Host.Outcome State Fault Refusal :=
  .next (if s.fwRuns && !bit s.pat.control 17 && decide (s.pat.setAt + 600 ≤ s.pat.powerOnS.toNat) then
      ({ s with pat := { s.pat with setAt := s.pat.powerOnS.toNat } } : State).lifeSet 0
    else s)

/-- The orderly shutdown of R501. -/
def State.shutdown (s : State) : State :=
  if bit s.pat.control 17 then s
  else
    let s : State := { s with pat := { s.pat with control := setBit s.pat.control 17 true, orderly := satAdd s.pat.orderly 1 } }
    let s := s.lifeSet 1
    { s with pat := { s.pat with shutdownDone := true } }

/-- SHUTDOWN_REQ. -/
def execShutdownReq (a : Actor) (s : State) : Host.Outcome State Fault Refusal := .next (if isFwOrSup a then s.shutdown else s)

/-- JOURNAL_FAULT: a write or an erase of the flash failed. -/
def execJournalFault (status : W64) (s : State) : Host.Outcome State Fault Refusal :=
  .next { s with pat := { s.pat with journalFault := true, flashStatus := status } }

/-- JOURNAL_FAULT_CLEARED: the buffer is written out in signing order, then a JOURNAL_FAULT event. -/
def execJournalFaultCleared (s : State) : Host.Outcome State Fault Refusal :=
  .next (if !s.pat.journalFault then s
    else
      let rs := s.pat.buffered
      let s : State := { s with pat := { s.pat with journalFault := false, buffered := [] } }
      let s := rs.foldl (fun s r => s.journal r) s
      s.signJournal 2 0 ([0x0A, s.pat.flashStatus.toNat, 0, 0].flatMap (leBytes 8)))

/-! ## Margin probes (R489 to R494) -/

/-- No core of a region has a resident group or an engine entry in progress (R490). -/
def State.regionIdle (s : State) (r : RegionNum) : Bool :=
  s.cores.all (fun p => p.1 / 128 != r.toNat || (p.2.ve.groups.isEmpty && p.2.ve.entry.isNone && p.2.se.entry.isNone &&
    p.2.me.fifo.isEmpty && p.2.me.runs.isEmpty && p.2.de.fifo.isEmpty && p.2.de.run.isNone))

/-- A MARGIN entry of a region, the newest of at most eight. -/
def State.addMargin (s : State) (r : RegionNum) (m : Margin) : State :=
  let s := s.updRegion r (fun x => { x with lastMargin := BitVec.ofNat 16 (fld m.word1 0 16), probeSkips := 0 })
  { s with pat := { s.pat with margins := Sparse.put s.pat.margins r.toNat ((m :: Sparse.getD s.pat.margins r.toNat []).take 8) } }

/-- Slot indices of a probe's reservation (R489). -/
def probeSlots : Nat := 64

/-- The reservation of a region's probe written into its booking table, or cleared. -/
def State.bookProbe (s : State) (r : RegionNum) (first : Nat) (on : Bool) : State :=
  (List.range probeSlots).foldl (fun s i => s.writeBook true r (first + i) (BitVec.ofNat 32 on.toNat)) s

/-- A probe is due: PROBE_INTERVAL hours of power-on time have passed since the region's last (R489). The first comes one interval
after the count of power-on seconds began (DESIGN CHOICE, assumption log 88). -/
def State.probeDue (s : State) (r : RegionNum) : Bool :=
  bit s.pat.control 0 && decide ((s.region r).probedS + 3600 * fld s.pat.control 1 8 ≤ s.pat.powerOnS.toNat)

/-- Regions whose probe was started or skipped in the present frame. -/
def State.probedNow (s : State) : Nat :=
  ((List.range 64).filter (fun i => (s.region (BitVec.ofNat 6 i)).probeFrame == some (frameOf s.tl.now))).length

/-- Whether the first of a region's reserved slots has come, in force (R58), with at most three other regions probed in its frame. -/
def State.probeSlot (s : State) (r : RegionNum) : Bool :=
  match (s.region r).probeBook with
  | some (first, frame) =>
    decide (s.tl.now.toNat / 1024 % 1024 = first) && decide (frame < frameOf s.tl.now) && decide (s.probedNow < 4) &&
      (s.region r).probeFrame != some (frameOf s.tl.now)
  | none => false

/-- In memory-donor mode firmware takes a region out of OFF for its probe, and back after it (R536). -/
def State.donorClock (s : State) (r : RegionNum) (run : Bool) : State :=
  if s.disc.mode != 1 then s else if run then s.writeRegClock r 7 0 else (s.writeRegClock r 7 2).writeRegClock r 7 3

/-- A probe ends with its MARGIN entry: the reservation is cleared, and the next interval begins. -/
def State.endProbe (s : State) (r : RegionNum) (m : Margin) : State :=
  let s := match (s.region r).probeBook with | some (first, _) => s.bookProbe r first false | none => s
  let t := s.pat.powerOnS.toNat
  ((s.updRegion r (fun x => { x with probeBook := none, probe := none, probedS := t })).addMargin r m).donorClock r false

/-- MARGIN_PROBE: firmware's next act for a region's probe. It books the slots of one that is due, which free run of them is open;
it starts the probe in the first of them, with the aging monitors measured, or skips the frame (R490); it ends a probe under way with
what the monitors found (R491 to R493). -/
def execMarginProbe (r : RegionNum) (d : ProbeRun) (s : State) : Host.Outcome State Fault Refusal :=
  let x := s.region r
  let word (vop mv flag : Nat) : W64 := pack [(0, 16, mv), (16, 16, vop), (32, 8, wrapN 8 d.temp), (40, 3, flag)]
  .next (if !s.fwRuns then s
    else
      match x.probe with
      | some (t, vop, gone) =>
        if gone || d.disturbed then s.endProbe r { time := t, word1 := word vop 0xFFFF 2 }
        else
          let (mv, none_) := match d.firstWarn with
            | some k => if 1 ≤ k ∧ k ≤ 30 then (5 * (k - 1), 0) else (150, 1)
            | none => (150, 1)
          let s := s.endProbe r { time := t, word1 := word vop mv none_ }
          if mv ≤ fld s.pat.control 9 8 then s.patinaEvent 0x08 (dieLoc r) r.toNat mv 0 else s
      | none =>
        if !s.probeDue r then s
        else if x.probeBook.isNone then
          let first := Config.freeNat s.fresh % (1024 - probeSlots + 1)
          ((({ s with fresh := s.fresh + 1 } : State).bookProbe r first true).updRegion r
            (fun x => { x with probeBook := some (first, frameOf s.tl.now) })).donorClock r true
        else if !s.probeSlot r then s
        else
          let s := s.updRegion r (fun x => { x with probeFrame := some (frameOf s.tl.now) })
          if x.state == 0 && s.regionIdle r && decide (d.temp < 85) then
            let pat := (d.aging.take 4).zipIdx.foldl (fun (p : Patina) a => p.measure (dieLoc r * 16 + 4 * diePos r + a.2) a.1 s.tl.now) s.pat
            ({ s with pat := pat } : State).updRegion r (fun x => { x with probe := some (s.tl.now, d.vop, false), probeSkips := 0 })
          else if x.probeSkips + 1 < 16 then s.updRegion r (fun x => { x with probeSkips := x.probeSkips + 1 })
          else s.endProbe r { time := s.tl.now, word1 := word d.vop 0xFFFF 4 })

/-- HBM_REPAIR: a row repaired inside a stack (R26). -/
def execHbmRepair (stack : BitVec 4) (row : W64) (s : State) : Host.Outcome State Fault Refusal :=
  .next (({ s with pat := { s.pat with repairs := bump32 s.pat.repairs stack.toNat 1 } } : State).patinaEvent 0x07 (32 + stack.toNat) row.toNat 0 0)

/-! ## Readout (R505, R507, R551) -/

/-- A live record signed now. -/
def State.newLive (s : State) (loc : Nat) : Option PatRec × State :=
  let (r, s) := s.signLife loc 2
  let s := s.journal r
  (some r, { s with pat := { s.pat with live := Sparse.put s.pat.live loc (s.pat.powerOnS.toNat, r) } })

/-- The record that a read selects by MODE: 0 latest LIFETIME, 1 by SEQ, 2 live. -/
def State.selectRecord (s : State) (loc mode seq : Nat) : Option PatRec × State :=
  match mode with
  | 0 => (s.pat.journal.find? (fun r => r.loc == loc && latestLife s.pat.journal r), s)
  | 1 => (s.pat.journal.find? (fun r => r.loc == loc && r.seq == seq), s)
  | _ =>
    if (kindOf loc).isNone then (none, s)
    else
      match Sparse.find s.pat.live loc with
      | some (t, r) => if s.pat.powerOnS.toNat < t + 10 then (some r, s) else s.newLive loc
      | none => s.newLive loc

/-- A pending read of a channel with a MODE is done. -/
def State.patRead (s : State) (smb : Bool) (mode : Nat) : State :=
  if !s.fwRuns then s
  else if smb then
    if !s.pat.smbGo || fld s.pat.smbSel 6 2 != mode then s
    else
      let (r, s) := s.selectRecord (fld s.pat.smbSel 0 6) mode s.pat.smbSeq.toNat
      { s with pat := { s.pat with smbGo := false, smbDone := true, smbNotFound := r.isNone, smbBuf := (r.map (·.bytes)).getD [] }
               pins := { s.pins with smbAlert := true } }
  else
    let c := s.pat.readCtrl
    if !bit c 8 || fld c 6 2 != mode then s
    else
      let (r, s) := s.selectRecord (fld c 0 6) mode s.pat.readSeq.toNat
      let bs := (r.map (·.bytes)).getD []
      let c := setFld (setBit (setBit (setBit c 8 false) 9 true) 10 r.isNone) 16 15 bs.length
      { s with pat := { s.pat with readCtrl := c, readBuf := bs } }

/-- PATINA_READ_LATEST. -/
def execPatinaReadLatest (smb : Bool) (s : State) : Host.Outcome State Fault Refusal := .next (s.patRead smb 0)
/-- PATINA_READ_BY_SEQ. -/
def execPatinaReadBySeq (smb : Bool) (s : State) : Host.Outcome State Fault Refusal := .next (s.patRead smb 1)
/-- PATINA_READ_LIVE. -/
def execPatinaReadLive (smb : Bool) (s : State) : Host.Outcome State Fault Refusal := .next (s.patRead smb 2)

/-- Whether the device answers its SMBus address (R551). -/
def State.smbusUp (s : State) : Bool := s.fwRuns && !s.err.recovering

/-- SMBUS_SELECT: a select while the previous one is in progress is ignored. -/
def execSmbusSelect (d : Byte) (seq : W64) (s : State) : Host.Outcome State Fault Refusal :=
  .next (if s.smbusUp && !s.pat.smbGo && fld d 6 2 != 3 then
      { s with pat := { s.pat with smbSel := d, smbSeq := seq, smbGo := true, smbDone := false, smbNotFound := false } }
    else s)

/-- SMBUS_STATUS: DONE, NOT_FOUND and the length; SMB_ALERT_N is released. -/
def execSmbusStatus (s : State) : Host.Outcome State Fault Refusal :=
  .next (if s.smbusUp then
      { s with pat := { s.pat with smbOut := leBytes 8 (pack [(0, 1, s.pat.smbDone.toNat), (1, 1, s.pat.smbNotFound.toNat), (16, 16, s.pat.smbBuf.length)]).toNat }
               pins := { s.pins with smbAlert := false } }
    else s)

/-- SMBUS_READ_CHUNK: at most 240 bytes of the record from an offset. -/
def execSmbusReadChunk (off : BitVec 16) (s : State) : Host.Outcome State Fault Refusal :=
  .next (if s.smbusUp then { s with pat := { s.pat with smbOut := (s.pat.smbBuf.drop off.toNat).take 240 } } else s)

/-- SMBUS_ALERT_RESPONSE: SMB_ALERT_N is released. -/
def execSmbusAlertResponse (s : State) : Host.Outcome State Fault Refusal :=
  .next (if s.smbusUp then { s with pins := { s.pins with smbAlert := false } } else s)

/-- A write to PAT_CONTROL. -/
def State.writePatControl (s : State) (m v : W64) : State :=
  let old := s.pat.control
  let w := masked (m &&& mask 0 17) old v
  let w := if fld w 1 8 = 0 then setFld w 1 8 (fld old 1 8) else w
  let s : State := { s with pat := { s.pat with control := w } }
  if bit (m &&& v) 17 then s.shutdown else s

/-- A write to PAT_READ_CTRL: a GO while a read is in progress is ignored, any other is taken, with DONE 0 too: R507 has such a
GO ignored, yet DONE resets to 0 and no read could begin (DESIGN CHOICE, assumption log 90). -/
def State.writePatRead (s : State) (m v : W64) : State :=
  let old := s.pat.readCtrl
  let w := masked (m &&& mask 0 8) old v
  let w := if fld w 6 2 = 3 then setFld w 6 2 (fld old 6 2) else w
  let w := if bit (m &&& v) 9 then setBit w 9 false else w
  let w := if bit (m &&& v) 8 && !bit old 8 then setBit w 8 true else w
  { s with pat := { s.pat with readCtrl := w } }

/-! ## Verification (R506) -/

/-- The sections of a LIFETIME body of a KIND, in order, with the bytes of their entries (table LIFETIME sections). -/
def sectionsOf (kind : Nat) : List (Nat × Nat) :=
  [(1, 32), (2, 32), (3, 64)] ++ (if kind = 1 then [(4, 256)] else []) ++ [(5, 288)] ++
    (if kind = 1 then [(6, 4096), (7, 128), (8, 512)] else []) ++ (if kind ≤ 3 then [(9, 16 * monitors kind)] else []) ++
    (if kind = 0 then [(0xA, 256)] else if kind = 2 then [(0xA, 576)] else []) ++
    (if kind = 2 then [(0xB, 144)] else if kind = 3 then [(0xB, 64)] else []) ++ (if kind = 4 then [(0xC, 8)] else [])

/-- Whether a body is exactly some sections, each with its header. -/
def sectionsFill : List (Nat × Nat) → List Byte → Bool
  | [], body => body.isEmpty
  | (id, n) :: ss, body =>
    leNat (body.take 4) == id && leNat ((body.drop 4).take 4) == n + 8 && decide (n + 8 ≤ body.length) && sectionsFill ss (body.drop (n + 8))

/-- sections_well_formed of R506; only a LIFETIME body has sections (DEDUCED, assumption log 89). -/
def sectionsWellFormed (r : List Byte) (b : Nat) : Bool :=
  match leNat ((r.drop 1).take 1) with
  | 1 => (match kindOf (leNat ((r.drop 2).take 1) % 64) with
    | some k => sectionsFill (sectionsOf k) ((r.drop 64).take b)
    | none => false)
  | 2 | 3 => true
  | _ => false

/-- verify of R506: a record against a public key, and against the previous record of its location where there is one; `ed` is
ed448ph_verify under the key and PATINA1, of a message and a signature. -/
def verify (ed : List Byte → List Byte → Bool) (r pub : List Byte) (p : Option (List Byte)) : Bool :=
  let at_ (x : List Byte) (o n : Nat) : List Byte := (x.drop o).take n
  let b := leNat (at_ r 4 4)
  if leNat (at_ r 0 1) != 1 || b % 8 != 0 || decide (16192 < b) then false
  else if r.length != 64 + b + 128 then false
  else if at_ r 32 8 != hash pub 8 then false
  else if at_ r (64 + b + 114) 14 != List.replicate 14 0 then false
  else if !ed (at_ r 0 (64 + b)) (at_ r (64 + b) 114) then false
  else if (match p with
      | some q => leNat (at_ r 8 8) != leNat (at_ q 8 8) + 1 || at_ r 40 24 != hash q 24
      | none => false) then false
  else sectionsWellFormed r b

/-- ed448ph_verify under the public key of a private key: what that key signs verifies (RFC 8032), and of any other signature the
model knows nothing. -/
def edVerify (seed msg sig : List Byte) : Bool :=
  sig == fitBytes 114 (Config.ed448phSign seed "PATINA1" msg) || Config.ed448phVerify (Config.ed448Public seed) "PATINA1" msg sig

/-- Whether firmware finds a record of the journal valid: against the key of its location under some MIN_SVN up to the present one, and
against the record before it that the journal holds (R503, R506; DEDUCED, assumption log 89). -/
def State.recordValid (s : State) (j : List PatRec) (r : PatRec) : Bool :=
  let p := (j.find? (fun q => q.loc == r.loc && q.seq + 1 == r.seq)).map (·.bytes)
  (List.range (s.boot.minSvn + 1)).any (fun v =>
    let seed := patinaSeedAt (BitVec.ofNat 8 v) r.loc
    verify (edVerify seed) r.bytes (Config.ed448Public seed) p)

/-- The journal up to its first record that fails (R503). -/
def State.verifyJournal (s : State) : State :=
  { s with pat := { s.pat with journal := s.pat.journal.takeWhile (s.recordValid s.pat.journal) } }

/-! ## Power-on (R503, R504) -/

/-- The bytes of a section of a LIFETIME record's body. -/
def sectionOf (body : List Byte) (id : Nat) : Nat → List Byte
  | 0 => []
  | fuel + 1 =>
    if body.length < 8 then []
    else
      let n := leNat ((body.drop 4).take 4)
      if leNat (body.take 4) = id then (body.drop 8).take (n - 8) else if n < 8 then [] else sectionOf (body.drop n) id fuel

/-- n bytes of a list from an offset as a number. -/
def numAt (bs : List Byte) (off n : Nat) : Nat := leNat ((bs.drop off).take n)

/-- 32-bit entries from the bytes of a section, by key. -/
def fill32 (m : Sparse W32) (bs : List Byte) (off key n : Nat) : Sparse W32 :=
  (List.range n).foldl (fun m i => Sparse.put m (key + i) (BitVec.ofNat 32 (numAt bs (off + 4 * i) 4))) m

/-- Every accumulator of a location as its latest LIFETIME record holds it. -/
def Patina.resumeLoc (p : Patina) (loc kind : Nat) (r : PatRec) : Patina :=
  let body := (r.bytes.drop 64).take (r.bytes.length - 192)
  let sec (id : Nat) : List Byte := sectionOf body id 13
  let regions := (List.range 4).map (regionAt loc)
  let p := { p with temps := fill32 p.temps (sec 3) 0 (loc * 16) 16, ledger := fill32 p.ledger (sec 5) 0 (loc * 128) 72 }
  let tot (p : Patina) (k v : Nat) : Patina := { p with totals := Sparse.put p.totals k v }
  let p := if kind = 1 then
      regions.zipIdx.foldl (fun (p : Patina) x =>
        let (g, i) := x
        let p := { p with volts := fill32 p.volts (sec 4) (64 * i) (g * 16) 16 }
        let p := (List.range 128).foldl (fun (p : Patina) j =>
          let w : W64 := BitVec.ofNat 64 (numAt (sec 6) (8 * (128 * i + j)) 8)
          let c := 128 * g + j
          { p with coreCorr := Sparse.put p.coreCorr c (fld w 0 24), coreUe := Sparse.put p.coreUe c (fld w 24 16), coreOwned := Sparse.put p.coreOwned c (fld w 40 16) }) p
        let r0 := 32 * i
        let p := tot (tot (tot (tot (tot p (regionKey g 0) (numAt (sec 7) r0 8)) (regionKey g 1) (numAt (sec 7) (r0 + 8) 4))
          (regionKey g 2) (numAt (sec 7) (r0 + 12) 4)) (regionKey g 3) (numAt (sec 7) (r0 + 16) 4)) (regionKey g 4) (numAt (sec 7) (r0 + 24) 8)
        let ms : List Margin := (List.range 8).map (fun j =>
          { time := BitVec.ofNat 64 (numAt (sec 8) (128 * i + 16 * j) 8), word1 := BitVec.ofNat 64 (numAt (sec 8) (128 * i + 16 * j + 8) 8) })
        { p with margins := Sparse.put p.margins g (ms.filter (fun m => m.time != 0 || m.word1 != 0)) }) p
    else p
  let p := { p with aging := (List.range (monitors kind)).foldl (fun m i =>
    Sparse.put m (loc * 16 + i) (BitVec.ofNat 32 (numAt (sec 9) (16 * i) 4), BitVec.ofNat 32 (numAt (sec 9) (16 * i + 4) 4),
      BitVec.ofNat 64 (numAt (sec 9) (16 * i + 8) 8))) p.aging }
  let p := if kind = 2 then (List.range 9).foldl (fun p i =>
      let k := 9 * (loc - 17) + i
      tot (tot (tot p (portKey k 0) (numAt (sec 0xB) (16 * i) 8)) (portKey k 1) (numAt (sec 0xB) (16 * i + 8) 4)) (portKey k 2) (numAt (sec 0xB) (16 * i + 12) 2)) p
    else if kind = 3 then (List.range 4).foldl (fun p i =>
      let ch := 4 * (loc - 21) + i
      tot (tot p (channelKey ch false) (numAt (sec 0xB) (16 * i) 8)) (channelKey ch true) (numAt (sec 0xB) (16 * i + 8) 4)) p
    else p
  let p := if kind = 4 then { p with repairs := fill32 p.repairs (sec 0xC) 0 (loc - 32) 1 } else p
  let life := sec 2
  { p with powerOnS := BitVec.ofNat 32 (numAt life 0 4), powerCycles := BitVec.ofNat 32 (numAt life 4 4), orderly := BitVec.ofNat 32 (numAt life 8 4)
           abrupt := BitVec.ofNat 32 (numAt life 12 4), fatalRecoveries := BitVec.ofNat 32 (numAt life 16 4) }

/-- The latest journalled LIFETIME record of a location. -/
def Patina.latest (p : Patina) (loc : Nat) : Option PatRec := p.journal.find? (fun r => r.loc == loc && latestLife p.journal r)

/-- Every accumulator resumed from the journal. -/
def Patina.resume (p : Patina) : Patina :=
  let clean := { p with temps := [], volts := [], ledger := [], coreCorr := [], coreUe := [], coreOwned := [], totals := [], lastRead := [],
                        margins := [], aging := [], repairs := [], powerOnS := 0, powerCycles := 0, orderly := 0, abrupt := 0, fatalRecoveries := 0 }
  (allLocs.reverse).foldl (fun q l => match p.latest l with | some r => q.resumeLoc l ((kindOf l).getD 0) r | none => q) clean

/-- The flags of a LIFETIME record (section LIFE). -/
def lifeFlags (r : PatRec) : Nat := numAt (sectionOf ((r.bytes.drop 64).take (r.bytes.length - 192)) 2 13) 24 8

/-- TIME of the last journalled LIFETIME set, by the plinth's record of it: a LIFETIME record that is not LIVE. -/
def Patina.setTime (p : Patina) : Nat :=
  ((p.journal.reverse.find? (fun r => r.type == 1 && r.loc == 0 && !(BitVec.ofNat 64 (lifeFlags r)).getLsbD 1)).map (fun r => numAt r.bytes 16 8)).getD 0

/-- The Patina state after a power-on reset: registers at reset, the journal and the sequence numbers kept, the accumulators
resumed, and an abrupt loss counted where the latest record lacks SHUTDOWN (R503). -/
def Patina.powerOn (p : Patina) : Patina × Option Nat :=
  let kept : Patina := { seqs := p.seqs, prev := p.prev, journal := p.journal, head := p.head, firstTime := p.firstTime }
  let q := kept.resume
  let q := { q with powerCycles := satAdd q.powerCycles 1, setAt := q.powerOnS.toNat }
  match p.latest 0 with
  | some r =>
    if lifeFlags r % 2 = 1 then (q, none) else ({ q with abrupt := satAdd q.abrupt 1 }, some p.setTime)
  | none => (q, none)

end Sys2Proof.Machine
end

