-- ==== Sys2Proof/Machine/Boot.lean ====
section
/-! DEFINITION. The boot ROM, power-up, reset types, device-fatal recovery, the mailbox, and the control of power and heat
(18_errors.md R477 to R482, 21_boot_security.md, 22_electrical.md). -/

namespace Sys2Proof.Machine

/-! ## Control copies and images (R527 to R529) -/

/-- A control copy: GEN, PREF, TRIAL, TRIES. -/
structure Control where
  gen : Nat := 0
  pref : Bool := false
  trial : Bool := false
  tries : Nat := 0
deriving DecidableEq, Repr

/-- The copy at an offset of the flash, when its CHECK matches. -/
def Boot.copyAt (b : Boot) (off : Nat) : Option Control :=
  let w := b.flash.word off
  if b.flash.bytes (off + 8) 56 = hash (leBytes 8 w.toNat) 56 then
    some { gen := fld w 0 32, pref := bit w 32, trial := bit w 33, tries := fld w 34 2 }
  else none

/-- Whether copy 1 is the one with the higher GEN, or the only valid one. -/
def Boot.second (b : Boot) : Bool :=
  match b.copyAt 0, b.copyAt 0x1_0000 with
  | some x, some y => decide (x.gen < y.gen)
  | none, some _ => true
  | _, none => false

/-- The copy in force. -/
def Boot.inForce (b : Boot) : Control := ((if b.second then b.copyAt 0x1_0000 else b.copyAt 0)).getD {}

/-- The other copy written, with the higher GEN plus 1. -/
def Boot.writeControl (b : Boot) (pref trial : Bool) (tries : Nat) : Boot :=
  let w := pack [(0, 32, b.inForce.gen + 1), (32, 1, pref.toNat), (33, 1, trial.toNat), (34, 2, tries)]
  let bs := leBytes 8 w.toNat
  let valid := (b.copyAt 0).isSome || (b.copyAt 0x1_0000).isSome
  let off := if b.second || !valid then 0 else 0x1_0000
  { b with flash := b.flash.setBytes off (bs ++ hash bs 56) }

/-- The first byte of an image slot (table Quad SPI flash layout). -/
def slotBase (slotB : Bool) : Nat := if slotB then 0x100_0000 else 0x10_0000

/-- Bytes of an image slot: 15 MiB. -/
def slotBytes : Nat := 0xF0_0000

/-- SVN of the image of a slot. -/
def Boot.svn (b : Boot) (slotB : Bool) : Nat := (b.flash.byte (slotBase slotB + 6)).toNat

/-- Whether an image is valid but for its SVN (R528). -/
def Boot.authentic (b : Boot) (slotB : Bool) : Bool :=
  let a := slotBase slotB
  let w0 := b.flash.word a
  let len := b.flash.le (a + 16) 4
  fld w0 0 32 == 0x3157_4655 && fld w0 32 8 == 1 && fld w0 42 6 == 0 && fld w0 56 8 == 0 && b.flash.le (a + 88) 40 == 0 &&
    b.flash.le (a + 242) 14 == 0 && !bit b.keyRevoke (fld w0 40 2) && decide (1 ≤ len) && decide (len ≤ 15728384) &&
    Config.ed448Verify (fld w0 40 2) "UMPFW1" (b.flash.bytes a 128) (b.flash.bytes (a + 128) 114) &&
    b.flash.bytes (a + 24) 64 == hash (b.flash.bytes (a + 256) len) 64

/-- Whether the image of a slot is valid (R528). -/
def Boot.imageValid (b : Boot) (slotB : Bool) : Bool :=
  b.authentic slotB && decide (b.minSvn ≤ b.svn slotB) && decide (b.svn slotB ≤ 64)

/-- choose_slot of R529: the slot, and the flash after the control copy it may write. -/
def Boot.chooseSlot (b : Boot) : Option Bool × Boot :=
  let c := b.inForce
  let (p, b) : Bool × Boot :=
    if c.trial && decide (2 ≤ c.tries) then (!c.pref, b.writeControl (!c.pref) false 0)
    else (c.pref, if c.trial then b.writeControl c.pref true (c.tries + 1) else b)
  (if b.imageValid p then some p else if b.imageValid (!p) then some (!p) else none, b)

/-- fw_meas of the running image (R531). -/
def Boot.fwMeas (b : Boot) (slotB : Bool) : List Byte := hash (b.flash.bytes (slotBase slotB) 256) 64

/-- The four measurement blocks (R534). -/
def State.measurements (s : State) (slotB : Bool) : List Byte :=
  hash Config.romBytes 64 ++ s.boot.fwMeas slotB ++
    [BitVec.ofNat 8 s.boot.minSvn, s.boot.keyRevoke.setWidth 8, BitVec.ofNat 8 s.boot.debugLock.toNat, BitVec.ofNat 8 slotB.toNat, BitVec.ofNat 8 s.boot.inForce.trial.toNat] ++
    (List.range 25).flatMap (fun l => s.keyId l)

/-! ## The debug UART and JTAG (R526, R553, R554) -/

/-- A status line on UART_TX. -/
def State.uartLine (s : State) : State := { s with pins := { s.pins with uartLines := s.pins.uartLines + 1 } }

/-- IDCODE of the die at a location index; its stepping is the low four bits of IDENT's stepping byte. -/
def idcode (loc : Nat) : W32 :=
  let part := if loc = 0 then 0x2516 else if loc ≤ 16 then 0x2517 else if loc ≤ 20 then 0x2518 else 0x2519
  (1 : W32) ||| (Config.manufacturer.setWidth 32 <<< 1) ||| (BitVec.ofNat 32 part <<< 12) ||| (((Config.dieStepping loc).setWidth 4).setWidth 32 <<< 28)

/-- The IDCODEs of the chain's 25 TAPs, from TDI to TDO: the plinth, then up to BD3. -/
def tapChain : List W32 := (List.range 25).map idcode

/-- The bits that leave TDO when every TAP shifts its IDCODE: BD3's first, each from bit 0. -/
def tdoBits : List Bool := tapChain.reverse.flatMap (fun w => (List.range 32).map w.getLsbD)

/-- The classes of JTAG instruction. -/
inductive JtagInstr where
  | boundaryScan | idcode | wrapper | other
deriving DecidableEq, Repr

/-- The JTAG instructions that reach the device (R526). -/
def State.jtagReaches (s : State) (i : JtagInstr) : Bool :=
  !s.boot.debugLock || i == .boundaryScan || i == .idcode

/-- Whether UART_RX is heard (R554). -/
def State.uartHeard (s : State) : Bool := !s.boot.debugLock

/-- The ROM runs firmware from a slot, or none when no image is valid (R529 to R532): seeds, measurements, INCARNATION (R435). With
none it releases the SPI pins and reports on the debug UART (R530). -/
def State.bootRom (s : State) : State × Bool :=
  let (slot, b) := s.boot.chooseSlot
  let s : State := { s with pins := { s.pins with spiDriven := slot.isSome } }
  match slot with
  | none => (({ s with boot := { b with runSlot := none } } : State).uartLine, false)
  | some p =>
    let s : State := { s with boot := { b with runSlot := some p, runSvn := b.svn p, keySvn := b.minSvn, incarnation := b.incarnation + 1, mbxVersion := false, mbxSeq := 0 } }
    let s : State := { s with boot := { s.boot with measured := s.measurements p } }
    ({ s with tr := { s.tr with incarnation := s.boot.incarnation } }, true)

/-! ## The bulk tier (R257, R32) -/

/-- The capacity of which most channels report the same, the larger on a tie. -/
def bulkCapacity (dimms : List Nat) : Nat :=
  dimms.foldl (fun best d =>
    let n (x : Nat) : Nat := (dimms.filter (· == x)).length
    if d = 0 then best else if best = 0 || decide (n best < n d) || (n best == n d && decide (best < d)) then d else best) 0

/-- The bulk tier trained: its channels, BULK_GIB (at most 4,096), and a record for each channel left out. -/
def State.trainBulk (s : State) (dimms : List Nat) : State :=
  let cap := bulkCapacity dimms
  let ds := dimms.zipIdx
  let used := if cap = 0 then [] else (ds.filter (fun d => d.1 == cap)).map (·.2)
  let s : State := { s with
    disc := { s.disc with bulkGib := BitVec.ofNat 16 (min 4096 (used.length * cap)), bulkChannels := used }
    pat := { s.pat with channelGib := ds.map (fun d => (d.2, d.1)) } }
  ((List.range 16).filter (fun c => !used.contains c)).foldl (fun s c => s.patinaEvent 0x05 (21 + c / 4) c (dimms.getD c 0) 0) s

/-- Where a bulk address lies after the channels changed: the local address of the same DRAM location, if it is still used. -/
def moveBulk (old new : List Nat) (bytes a : Nat) : Option Nat :=
  let off := a - 0x1000_0000_0000
  let q := off / 4096
  match new.findIdx? (· == old.getD (q % old.length) 16) with
  | some i =>
    let b := (q / old.length * new.length + i) * 4096 + off % 4096
    if b < bytes then some (0x1000_0000_0000 + b) else none
  | none => none

/-- The bulk tier's contents after training built it from other channels (R480). -/
def State.remapBulk (s : State) (oldCh : List Nat) (oldGib : BitVec 16) : State :=
  if s.disc.bulkChannels = oldCh ∧ s.disc.bulkGib = oldGib then s
  else
    let inBulk (a : Nat) : Bool := decide (0x1000_0000_0000 ≤ a) && decide (a < 0x1400_0000_0000)
    let place (a : Nat) : Option Nat := moveBulk oldCh s.disc.bulkChannels (s.disc.bulkGib.toNat * 2 ^ 30) a
    let held := s.mem.cells.filter (fun c => inBulk c.1)
    let bad := s.mem.poison.filter inBulk
    let m := ({ s.mem with poison := s.mem.poison.filter (fun w => !inBulk w) } : Memory).scramble 0x1000_0000_0000 0x400_0000_0000 s.fresh
    let m := held.foldl (fun m c => match place c.1 with | some a => m.setByte a c.2 | none => m) m
    { s with mem := m.addPoison (bad.filterMap place), fresh := s.fresh + 1 }

/-! ## Modes (R440, R536, table Device modes) -/

/-- The two donor entries of R440. -/
def State.donorEntries (s : State) : State :=
  let w0 : W64 := pack [(0, 1, 1), (1, 1, 1), (17, 1, 1), (24, 1, 1)]
  let e := Sparse.put (Sparse.put s.tr.exports 0 w0) 1 (pack [(0, 21, 575 * 512)])
  let e := if s.disc.bulkGib = 0 then e
    else Sparse.put (Sparse.put e 2 w0) 3 (pack [(0, 21, s.disc.bulkGib.toNat * 512), (21, 27, 0x1000_0000_0000 / 2 ^ 21)])
  { s with tr := { s.tr with exports := e } }

/-- What firmware sets up in memory-donor mode: every port enabled with MAX_VER 2, the donor entries, every region to OFF. -/
def State.enterDonor (s : State) : State :=
  let s := (List.range 36).foldl (fun s p => s.writePortControl (BitVec.ofNat 6 p) 7 5) s.donorEntries
  let s := (List.range 64).foldl (fun s i =>
    let r : RegionNum := BitVec.ofNat 6 i
    if fld (s.region r).clockReg 0 3 == 3 then s else (s.writeRegClock r 7 2).writeRegClock r 7 3) s
  ({ s with disc := { s.disc with mode := 1, claimed := false } } : State).donorSource

/-- FW_READY: the mailbox pages are written (R538). -/
def State.mailboxReady (s : State) : State :=
  { s with mem := (s.mem.setWord 0x8F_C000_0000 0).setWord 0x8F_C000_1000 0, disc := { s.disc with fwReady := true } }

/-! ## Power-on reset and power-up (R503, R545, R546) -/

/-- Power-on reset: every die and register at its reset value, HBM4 and the bulk tier lost; the flash, the fuses and the journal
stay. -/
def State.powerOff (s : State) : State :=
  { pending := s.pending, fresh := s.fresh + 65, hostMem := s.hostMem
    mem := { havoc := [(0, 0x4000_0000_0000, s.fresh)] }
    regions := (List.range 64).map (fun i => (i, ({ spillSeed := some (s.fresh + 1 + i) } : Region)))
    boot := { flash := s.boot.flash, minSvn := s.boot.minSvn, keyRevoke := s.boot.keyRevoke, debugLock := s.boot.debugLock, incarnation := s.boot.incarnation }
    pat := { seqs := s.pat.seqs, prev := s.pat.prev, journal := s.pat.journal, head := s.pat.head, firstTime := s.pat.firstTime } }

/-- PERST_N_ASSERT: power-on reset at once. -/
def execPerstNAssert (s : State) : Host.Outcome State Fault Refusal := .next s.powerOff

/-- Nominal voltage, window in parts per thousand and absolute maximum of a rail in mV, in the order of the table Supply rails;
none where the manual refers to JESD270-4. -/
def railOf (rail : Nat) : Option (Nat × Nat × Nat) :=
  match rail with
  | 0 => some (800, 30, 950)
  | 1 => some (1800, 50, 2000)
  | 2 => some (1800, 30, 2000)
  | 6 => some (1100, 30, 1350)
  | 7 => some (750, 20, 950)
  | 8 => some (1200, 30, 1350)
  | 9 => some (750, 20, 950)
  | 10 => some (1200, 30, 1350)
  | _ => none

/-- SUPPLY_FAULT: a rail outside its window for more than 1 µs is a power-on reset; beyond its absolute maximum no rule holds. -/
def execSupplyFault (rail : BitVec 4) (mv ns : Nat) (s : State) : Host.Outcome State Fault Refusal :=
  match railOf rail.toNat with
  | some (nom, ppt, top) =>
    if top < mv then .fault (.beyondAbsoluteMaximum rail)
    else if 1000 < ns ∧ (1000 * mv < nom * (1000 - ppt) ∨ nom * (1000 + ppt) < 1000 * mv) then .next s.powerOff
    else .next s
  | none => .next (if rail.toNat ≤ 5 ∧ 1000 < ns then s.powerOff else s)

/-- An error that the self-test finds is recorded under its cause, with no owner; the third of R477 on a core declares it failed
(R535). -/
def State.selfTestError (s : State) (e : BitVec 6 × Byte × Option CoreNum) : State :=
  let i : ErrInfo := { cause := e.2.1.toNat, loc := e.1.toNat, core := e.2.2 }
  if errClass i.cause == 3 then s.fatal i else s.logError i

/-- PERST_N_DEASSERT: the power-up sequence, to memory-donor mode; it ends after step 2 when no image is valid (R530). -/
def execPerstNDeassert (p : PowerUp) (s : State) : Host.Outcome State Fault Refusal :=
  .next (if !s.pins.perst then s
    else
      let s := s.powerOff
      let s : State := { s with pins := { s.pins with perst := false, smbAddr := BitVec.ofNat 7 (0x4C + 2 * p.strap1.toNat + p.strap0.toNat) } }
      let (s, ok) := s.bootRom
      if !ok then s
      else
        let s := s.verifyJournal
        let (pat, lost) := s.pat.powerOn
        let s : State := { s with pat := pat }
        let s := match lost with | some t => s.patinaEvent 0x09 0 t 0 0 | none => s
        let s := (s.trainQcl p.hostMin p.hostMax).mailboxReady
        let s := p.selfTest.foldl (fun s e => s.selfTestError e) (s.trainBulk p.dimms)
        let s := if p.tpps then s.writeTlControl 3 1 else s
        s.enterDonor)

/-! ## Recovery reset (R388, R411, R480, R523) -/

/-- What a core keeps over a recovery reset. -/
def Core.recovered (seed n : Nat) (k : Core) : Core :=
  { Core.initial n with failed := k.failed, drawerCe := k.drawerCe, cacheRefetch := k.cacheRefetch, regReplay := k.regReplay,
                        drawerUe := k.drawerUe, me := { seed := some seed } }

/-- What a region keeps. -/
def Region.recovered (seed : Nat) (x : Region) : Region :=
  { spillSeed := some seed, probe := x.probe, probeBook := x.probeBook, probeFrame := x.probeFrame, probedS := x.probedS
    probeSkips := x.probeSkips, droop := x.droop, auditMismatches := x.auditMismatches, auditChecks := x.auditChecks, feedStalls := x.feedStalls
    drainStalls := x.drainStalls, spillCe := x.spillCe, spillUe := x.spillUe, late := x.late, lateStretched := x.lateStretched
    lastMargin := x.lastMargin, temp := x.temp, voltMv := x.voltMv, current := x.current }

/-- What a niche keeps: its registers, with a grant-clear or an invalidation that they show in progress; its contexts read EMPTY,
its fences are queue registers and go. -/
def Niche.recovered (x : Niche) : Niche :=
  { x with ctxs := x.ctxs.mapVals (fun _ c => { c with state := 0, resumed := false }), zeroSent := false, hints := []
           nsems := x.nsems.mapVals (fun _ k => { k with queue := [], takes := [] }), fences := [] }

/-- What a port keeps: its counts and, for step 7, its control. -/
def Port.recovered (x : Port) : Port :=
  { control := x.control, fecWords := x.fecWords, rejected := x.rejected, retrains := x.retrains, bookMismatch := x.bookMismatch }

/-- What the stores of a core under way were to write: of its buffers, past its mesh port, and the lines that are being written back. -/
def Core.underWay (k : Core) (own : Nat) : List (Nat × List Byte) :=
  let lines := (match k.dc.wb with | some l => [l] | none => []) ++ (if k.dc.flush.isEmpty then [] else k.dc.dirtyOnes)
  ((k.se.buffer ++ k.ve.buffer ++ k.storesOut).flatMap (·.lanes)).filterMap (fun x => match x.tgt with | .dev a => some (a, x.bytes) | _ => none) ++
    lines.filterMap (fun l => if l.addr / 2 ^ 48 = own then some (l.addr % 2 ^ 48, l.data) else none)

/-- The stores in flight at a recovery reset have each reached HBM4 or the bulk tier or not, in any order (R480): of n stores, as many
rounds, in each of which every store may be performed. The blocks that the DMA engines had not performed leave either value. -/
def State.landStores (s : State) : State :=
  let own (a : Nat) : Bool := s.classOf a == .hbm || s.classOf a == .bulk
  let ws := (s.cores.flatMap (fun p => p.2.underWay s.myDevice)).filter (fun w => own w.1)
  let n := ws.length
  let (seed, s) := s.takeSeed
  let s := (List.range n).foldl (fun s i =>
    ws.zipIdx.foldl (fun s w => if Config.freeBit (seed + n * i + w.2) then { s with mem := s.mem.store w.1.1 w.1.2 } else s) s) s
  let s : State := { s with fresh := s.fresh + n * n }
  let des := s.cores.flatMap (fun p => match p.2.de.run with
    | some r => r.blocks.flatMap (fun b => if b.performed then [] else b.pieces.map (fun x => (x.dst, x.len)))
    | none => [])
  des.foldl (fun s d => match d.1 with | .dev a => if own a then s.scrambleTgt d.1 d.2 else s | _ => s) s

/-- Steps 3 and 8 of the table Device-fatal recovery as far as registers go: everything at reset but what R523 keeps. -/
def State.recoverRegs (s : State) : State :=
  let m := (s.mem.scramble 0x2000_0000_0000 0x8000_0000 s.fresh).scramble 0x2100_0000_0000 0x4000_0000 (s.fresh + 1)
  let m := { m with poison := m.poison.filter (fun w => decide (w < 0x2000_0000_0000)) }
  let f := s.fresh + 2
  { pending := s.pending, fresh := f + 130, order := s.order, ns := s.ns, tl := s.tl, mem := m, hostMem := s.hostMem, err := s.err, pat := s.pat, boot := s.boot
    pins := s.pins, counters := s.counters
    disc := { deviceId := s.disc.deviceId, idValid := s.disc.idValid, mode := s.disc.mode, claimed := s.disc.claimed
              bulkGib := s.disc.bulkGib, bulkChannels := s.disc.bulkChannels }
    cores := s.cores.mapVals (fun n k => k.recovered (f + n / 128) n)
    regions := (List.range 64).map (fun i => (i, (s.region (BitVec.ofNat 6 i)).recovered (f + 65 + i)))
    niches := s.niches.mapVals (fun _ x => x.recovered)
    place := { s.place with migs := [], fills := [], refused := [], frames := s.place.frames.filter (fun x => !s.place.fills.any (fun g => g.frame == x.2.1)) }
    fe := { queues := s.fe.queues.mapVals (fun _ q => { ctx := q.ctx }) }
    tr := { control := s.tr.control, torus := s.tr.torus, routes := s.tr.routes, exports := s.tr.exports
            ports := s.tr.ports.mapVals (fun _ x => x.recovered), nextTag := s.tr.nextTag }
    qcl := { control := s.qcl.control, wins := s.qcl.wins, msgs := s.qcl.msgs, peerMin := s.qcl.peerMin, peerMax := s.qcl.peerMax
             replays := s.qcl.replays, retrains := s.qcl.retrains, recallTimeouts := s.qcl.recallTimeouts, recalls := s.qcl.recalls } }

/-- A recovery reset: firmware restarted, the bulk tier trained again, QCL and the ports retrained, the mode as R479 states. -/
def State.recoveryReset (s : State) (dimms : List Nat) : State :=
  let s := s.landStores.recoverRegs
  let (s, ok) := s.bootRom
  if !ok then { s with disc := { s.disc with mode := 3 } }
  else
    let ch := s.disc.bulkChannels
    let gib := s.disc.bulkGib
    let s := (s.trainBulk dimms).remapBulk ch gib
    let s := if bit s.qcl.control 0 then s.trainQcl s.qcl.peerMin s.qcl.peerMax else s
    let s := s.mapPorts (fun _ x => { x with state := if bit x.control 0 then 1 else 0 })
    let s := s.mailboxReady
    let s : State := { s with err := { s.err with recovering := false } }
    if s.disc.claimed then { s with disc := { s.disc with mode := 2 } } else s.enterDonor

/-- The steps that follow step 1 of a device-fatal error: the record journalled, and, unless the device is held or too hot, the
recovery reset and what R504 adds. -/
def State.recover (s : State) (dimms : List Nat) : State :=
  let s := s.journalWaiting false
  if s.err.held || s.pins.thermTrip then s
  else
    let s : State := { s with pat := { s.pat with fatalRecoveries := satAdd s.pat.fatalRecoveries 1 } }
    let lost := s.err.lastCause == 0x42 || s.err.lastCause == 0x46
    let s : State := if lost then { s.verifyJournal with pat := { s.verifyJournal.pat.resume with resumed := true, lastRead := s.pat.lastRead } } else s
    s.recoveryReset dimms

/-- A junction or a stack too hot (R560): the DEVICE_FATAL error, its record journalled, every region in OFF with its dirty lines
lost, THERMTRIP_N low. Which die or stack it is, no row of the table carries: LOC is a free one of the 37 (DESIGN CHOICE, assumption
log 91). -/
def State.thermalTrip (s : State) : State :=
  let loc := allLocs.getD (Config.freeNat s.fresh % 37) 0
  let s := (({ s with fresh := s.fresh + 1 } : State).fatal { cause := 0x45, loc := loc }).journalWaiting false
  let s := (List.range 64).foldl (fun s i =>
    let r : RegionNum := BitVec.ofNat 6 i
    s.setClock r (setFld (s.region r).clock 0 3 3)) s
  { s with pins := { s.pins with thermTrip := true } }

/-- DEV_FATAL_N is low while MODE is 0b011. -/
def State.devFatal (s : State) : Bool := s.disc.mode == 3

/-- DEVICE_FATAL_RECOVERY: the sequence that a device-fatal error began goes on; one that has not begun is begun. -/
def execDeviceFatalRecovery (cause : Byte) (dimms : List Nat) (s : State) : Host.Outcome State Fault Refusal :=
  .next (if !s.fwRuns then s
    else if s.err.recovering then s.recover dimms
    else if cause = 0x45 then s.thermalTrip
    else if 0x40 ≤ cause.toNat ∧ cause.toNat ≤ 0x46 then (s.fatal { cause := cause.toNat }).recover dimms
    else s)

/-- FIRMWARE_WATCHDOG: a management core missed its watchdog. -/
def execFirmwareWatchdog (s : State) : Host.Outcome State Fault Refusal :=
  .next (if s.fwRuns then s.fatal { cause := 0x46 } else s)

/-- REGULATOR_FAULT: a region's regulator tripped. LOC is the region's compute die; the manual puts the regulators on the plinth die
and does not say which index the record carries (DESIGN CHOICE, assumption log 90). -/
def execRegulatorFault (r : RegionNum) (s : State) : Host.Outcome State Fault Refusal :=
  .next (if s.fwRuns then s.fatal { cause := 0x44, loc := dieLoc r } else s)

/-- THERMAL_TRIP: steps 1 and 2, and no further (R50, R560). -/
def execThermalTrip (s : State) : Host.Outcome State Fault Refusal := .next (if s.fwRuns then s.thermalTrip else s)

/-! ## Errors of R472 that a row brings, and the error-log registers -/

/-- MESH_FLIT_REJECT: a flit of a mesh link is replayed; the eighth failed replay is MESH_UE. -/
def execMeshFlitReject (link : BitVec 8) (again : Bool) (s : State) : Host.Outcome State Fault Refusal :=
  let n := if again then Sparse.getD s.err.mesh link.toNat 0 + 1 else 0
  let s' : State := { s with err := { s.err with mesh := Sparse.put s.err.mesh link.toNat n } }
  .next (if !s.fwRuns then s else if 8 ≤ n then s'.fatal { cause := 0x41 } else s'.logError { cause := 0x0A })

/-- MEMORY_PATROL_SCRUB: a word of the shelf, HBM4 or the bulk tier; none in a device-fatal sequence (R482). -/
def execMemoryPatrolScrub (pa : BitVec 48) (f : EccFind) (s : State) : Host.Outcome State Fault Refusal :=
  let a := pa.toNat
  let k := s.classOf a
  .next (if (k = .shelf ∨ k = .hbm ∨ k = .bulk) ∧ s.err.recovering = false then
      match f with
      | .clean => s
      | .single => s.correctWord a true false
      | .double => s.poisonWord a true false
    else s)

/-- A write to ERR_RELEASE: GO makes a FAULTED context EMPTY (R478). -/
def State.writeErrRelease (s : State) (m v : W64) : State :=
  let w := m &&& v
  let n : NicheNum := BitVec.ofNat 6 (fld w 0 6)
  let c : BitVec 4 := BitVec.ofNat 4 (fld w 6 4)
  if bit w 10 && (s.ctx n c).state == 3 then s.updCtx n c (fun x => { x with state := 0 }) else s

/-- ERR_RELEASE. -/
def execErrRelease (a : Actor) (v : W64) (s : State) : Host.Outcome State Fault Refusal :=
  .next (if isFwOrSup a then s.writeErrRelease (BitVec.allOnes 64) v else s)

/-- Whether the place of an injection belongs to INJ_NICHE, or its target is not restricted (R487). -/
def State.injectionOk (s : State) (w : W64) : Bool :=
  let t := fld w 1 4
  let n : NicheNum := BitVec.ofNat 6 (fld w 24 6)
  let g := (s.niche n).grant
  let a := fld s.err.injectAddr 0 48
  let core := decide (t ≤ 5) || t == 12 || t == 13 || t == 14
  let fatal := t == 4
  (!fatal || bit s.err.control 27) &&
    (if core then g.getLsbD (fld w 5 13 / 128)
     else if t == 8 then s.classOf a == .shelf && g.getLsbD ((a - 0x2000_0000_0000) / 0x200_0000)
     else if t == 10 || t == 11 then true
     else (List.range 4).any (fun k => match s.pool n k with | some (_, b, len) => decide (b ≤ a) && decide (a < b + len) | none => false))

/-- A write to ERR_INJECT: ARM takes effect while INJECT_EN is 1, at a place of INJ_NICHE, and not toward a DEVICE_FATAL target
unless ALLOW_FATAL is 1 (R486, R487). A write of the other fields while ARM is 1 already must name such a place too, else it is
ignored: R487 speaks only of a write that arms (DESIGN CHOICE, assumption log 90). -/
def State.writeInject (s : State) (m v : W64) : State :=
  let old := s.err.inject
  let w := masked (m &&& mask 1 29) old v
  let w := if fld w 1 4 = 15 then setFld w 1 4 (fld old 1 4) else w
  let arm := bit (m &&& v) 0
  let put (w : W64) : State := { s with err := { s.err with inject := w } }
  if arm && bit s.err.control 26 then (if s.injectionOk w then put (setBit w 0 true) else s)
  else if bit old 0 then (if s.injectionOk w then put w else s)
  else put w

/-- ERROR_INJECT. -/
def execErrorInject (a : Actor) (v : W64) (s : State) : Host.Outcome State Fault Refusal :=
  .next (if isFwOrSup a then s.writeInject (BitVec.allOnes 64) v else s)

/-! ## The mailbox (R538 to R540) -/

/-- A command of the mailbox: what firmware does with its payload, its STATUS and its answer. -/
def State.mailbox (s : State) (op : Nat) (run : List Byte → State → (Nat × List Byte) × State) : State :=
  let w := s.mem.word 0x8F_C000_0000
  let seq : BitVec 16 := BitVec.ofNat 16 (fld w 0 16)
  if !s.disc.fwReady || seq != s.boot.mbxSeq + 1 || fld w 16 8 != op then s
  else
    let ((st, out), s) : (Nat × List Byte) × State :=
      if op != 1 && !s.boot.mbxVersion then ((3, []), s) else run (s.mem.bytes 0x8F_C000_0008 (min 4088 (fld w 24 12))) s
    let out := out.take 4088
    let s : State := { s with mem := (s.mem.store 0x8F_C000_1008 out).setWord 0x8F_C000_1000 (pack [(0, 16, seq.toNat), (16, 8, st), (24, 12, out.length)])
                              boot := { s.boot with mbxSeq := seq } }
    if bit w 48 then s.trigger (fld w 36 12) else s

/-- VERSION: mailbox version 1 is the only one (R15, R539). -/
def execVersion (s : State) : Host.Outcome State Fault Refusal :=
  .next (s.mailbox 1 (fun p s =>
    let lo := numAt p 0 1
    let hi := numAt p 1 1
    if lo ≤ 1 ∧ 1 ≤ hi then ((0, [1]), { s with boot := { s.boot with mbxVersion := true } })
    else ((1, []), s.patinaEvent 0x01 0 2 (1 + 256) (lo + 256 * hi))))

/-- CLAIM. -/
def execClaim (s : State) : Host.Outcome State Fault Refusal :=
  .next (s.mailbox 2 (fun _ s =>
    if s.disc.mode == 0 then ((4, []), s)
    else ((0, []), { s with disc := { s.disc with mode := 2, claimed := true } })))

/-- RELEASE. -/
def execRelease (s : State) : Host.Outcome State Fault Refusal :=
  .next (s.mailbox 3 (fun _ s =>
    if s.niches.any (fun n => n.2.grant != 0) then ((4, []), s)
    else ((0, []), if s.disc.mode == 2 then s.enterDonor else s)))

/-- RESET: the response, then a recovery reset that counts as no error. -/
def execReset (dimms : List Nat) (s : State) : Host.Outcome State Fault Refusal :=
  let s' := s.mailbox 4 (fun _ s => ((0, []), s))
  let taken := s'.boot.mbxSeq != s.boot.mbxSeq && s.boot.mbxVersion
  .next (if taken then ({ s' with disc := { s'.disc with mode := 3 } } : State).recoveryReset dimms else s')

/-- Flash bytes written, after the sector at whose start they begin was erased. -/
def Boot.program (b : Boot) (a : Nat) (bs : List Byte) : Boot :=
  let f := if a % 0x1_0000 = 0 then b.flash.setBytes a (List.replicate 0x1_0000 0xFF) else b.flash
  { b with flash := f.setBytes a bs }

/-- FLASH_WRITE: bit 0 of payload byte 0 the slot, bytes 1 to 4 the offset, then the data. -/
def execFlashWrite (s : State) : Host.Outcome State Fault Refusal :=
  .next (s.mailbox 5 (fun p s =>
    let slot := numAt p 0 1 % 2 == 1
    let off := numAt p 1 4
    let data := p.drop 5
    if s.boot.runSlot = some slot then ((5, []), s)
    else if slotBytes < off + data.length then ((2, []), s)
    else ((0, []), { s with boot := s.boot.program (slotBase slot + off) data })))

/-- SET_BOOT: PREF and TRIAL for a valid slot, in bits 0 and 1 of the payload (worked example of the chapter). -/
def execSetBoot (s : State) : Host.Outcome State Fault Refusal :=
  .next (s.mailbox 6 (fun p s =>
    let w : W64 := BitVec.ofNat 64 (numAt p 0 1)
    let b := bit w 0
    if s.boot.imageValid b then ((0, []), { s with boot := s.boot.writeControl b (bit w 1) 0 })
    else if s.boot.authentic b && decide (s.boot.svn b < s.boot.minSvn) then ((7, []), s)
    else ((6, []), s)))

/-- CONFIRM: TRIAL and TRIES cleared when the running slot is PREF. -/
def execConfirm (s : State) : Host.Outcome State Fault Refusal :=
  .next (s.mailbox 7 (fun _ s =>
    let c := s.boot.inForce
    ((0, []), if s.boot.runSlot = some c.pref then { s with boot := s.boot.writeControl c.pref false 0 } else s)))

/-- COMMIT_SVN: MIN_SVN blown up to the running image's SVN. -/
def execCommitSvn (s : State) : Host.Outcome State Fault Refusal :=
  .next (s.mailbox 8 (fun _ s =>
    if s.boot.inForce.trial then ((5, []), s)
    else
      let n := max s.boot.minSvn s.boot.runSvn
      ((0, [BitVec.ofNat 8 n]), { s with boot := { s.boot with minSvn := n } })))

/-- POWER_CAP. -/
def execPowerCap (s : State) : Host.Outcome State Fault Refusal :=
  .next (s.mailbox 9 (fun p s =>
    let w := numAt p 0 2
    if w = 0 then ((0, []), { s with boot := { s.boot with capWatts := 3000 } })
    else if w < 1500 ∨ 3000 < w then ((2, []), s)
    else ((0, []), { s with boot := { s.boot with capWatts := w } })))

/-- GET_CERT. -/
def execGetCert (s : State) : Host.Outcome State Fault Refusal :=
  .next (s.mailbox 0xA (fun p s =>
    let loc := numAt p 0 1 % 64
    if 25 ≤ loc then ((2, []), s) else ((0, Config.patinaCert loc s.boot.keySvn), s)))

/-! ## Power and heat (R558, R559) -/

/-- A region's clock brought to the lower of its cap step and its thermal step: 600, 525, 450, 300, 150 MHz. -/
def State.applySteps (s : State) (r : RegionNum) : State :=
  let x := s.region r
  let st := fld x.clockReg 0 3
  let k := max x.capStep x.thermStep
  if 2 ≤ st then s else s.writeRegClock r 0x3F (if k = 0 then 0 else pack [(0, 3, 1), (3, 3, k)])

/-- Every region in RUN or STRETCH changed, its clock applied. -/
def State.stepRegions (s : State) (f : Region → Region) : State :=
  (List.range 64).foldl (fun s i =>
    let r : RegionNum := BitVec.ofNat 6 i
    if 2 ≤ fld (s.region r).clockReg 0 3 then s else (s.updRegion r f).applySteps r) s

/-- POWER_CAP_CONTROL: the average of the last 10 ms against the cap. -/
def execPowerCapControl (watts : Nat) (s : State) : Host.Outcome State Fault Refusal :=
  let cap := s.boot.capWatts
  .next (if !s.fwRuns then s
    else
      let count (s : State) (n : Nat) : State := { s with boot := { s.boot with capBelow := n } }
      if cap < watts then (count s 0).stepRegions (fun x => { x with capStep := min 4 (x.capStep + 1) })
      else if 97 * cap ≤ 100 * watts then count s 0
      else if s.boot.capBelow + 1 < 10 then count s (s.boot.capBelow + 1)
      else (count s 0).stepRegions (fun x => { x with capStep := x.capStep - 1 }))

/-- THERMAL_CONTROL: one sample of a region's highest junction temperature, in quarter degrees. -/
def execThermalControl (r : RegionNum) (temp : BitVec 12) (s : State) : Host.Outcome State Fault Refusal :=
  let t := temp.toInt
  .next (if !s.fwRuns then s
    else
      (s.updRegion r (fun x =>
        let x := { x with temp := temp }
        if 380 ≤ t ∨ (x.hot = true ∧ 368 ≤ t) then { x with hot := true, cool := 0, thermStep := min 4 (x.thermStep + 1) }
        else if 10 ≤ x.cool + 1 then { x with hot := false, cool := 0, thermStep := x.thermStep - 1 }
        else { x with hot := false, cool := x.cool + 1 })).applySteps r)

end Sys2Proof.Machine
end

