-- ==== Sys2Proof/Machine/Frieze.lean ====
section
/-! DEFINITION. The registers of Frieze, its triggers by software and by tick, and the copy to the sink (20_frieze.md). -/

namespace Sys2Proof.Machine

def State.updFrz (s : State) (r : RegionNum) (f : FrzRegion → FrzRegion) : State :=
  s.updRegion r (fun x => { x with frz := f x.frz })

/-! ## FRZ_CONTROL, FRZ_TRIG_TICK, FRZ_SINK, FRZ_SINK_PTRS (R517, R522) -/

/-- A buffer armed anew: emptied, its trigger, freeze, wrap and losses forgotten (R517). -/
def FrzRegion.rearm (f : FrzRegion) : FrzRegion :=
  { f with fill := 0, next := 0, triggered := false, frozen := false, wrapped := false, dropped := 0, pendingLoss := 0,
           afterTrig := 0, lastSync := none, staged := [] }

/-- FRZ_CONTROL after a write: MODE and RESERVE only while ARM reads 0, a reserved RESERVE not at all (R11, R517). -/
def FrzRegion.writeControl (f : FrzRegion) (m v : W64) : FrzRegion :=
  let m := m &&& mask 0 50
  let m := if f.armed then m &&& ~~~(7 : W64) else if fld (masked m f.control v) 1 2 = 3 then m &&& ~~~(6 : W64) else m
  let g := { f with control := masked m f.control v }
  if !f.armed && g.armed then g.rearm else g

/-- A write to FRZ_CONTROL. -/
def State.writeFrzControl (s : State) (r : RegionNum) (m v : W64) : State := s.updFrz r (·.writeControl m v)

/-- FRIEZE_ARM: FRZ_CONTROL written by firmware or the supervisor. -/
def execFriezeArm (a : Actor) (r : RegionNum) (v : W64) (s : State) : Host.Outcome State Fault Refusal :=
  .next (if isFwOrSup a then s.writeFrzControl r (BitVec.allOnes 64) v else s)

/-- A write to FRZ_TRIG_TICK. -/
def State.writeTrigTick (s : State) (r : RegionNum) (m v : W64) : State :=
  s.updFrz r (fun f => { f with trigTick := masked m f.trigTick v })

/-- The fields of FRZ_SINK that are neither reserved nor read-only. -/
def sinkMask : W64 := mask 0 7 ||| mask 12 50

/-- FRZ_SINK after a write: nothing while ARM is 1 (R517); SIZE_LOG2 from 10 to 24 (R11). -/
def FrzRegion.writeSink (f : FrzRegion) (m v : W64) : FrzRegion :=
  let w := masked (m &&& sinkMask) f.sink v
  let w := if 10 ≤ fld w 1 5 ∧ fld w 1 5 ≤ 24 then w else setFld w 1 5 (fld f.sink 1 5)
  if f.armed then f else { f with sink := w }

/-- A write to FRZ_SINK; one that would put the ring over the firmware region is refused (R537). -/
def State.writeSink (s : State) (r : RegionNum) (off : Nat) (m v : W64) : State :=
  let g := (s.region r).frz.writeSink m v
  let base := fld g.sink 12 50 * 2 ^ 12
  if !bit g.sink 6 && s.isLocal base && inFirmware (base % 2 ^ 48) (16 * 2 ^ fld g.sink 1 5) then s.writeRefused off 0 v
  else s.updFrz r (·.writeSink m v)

/-- A write to FRZ_SINK_PTRS: SINK_READ. -/
def State.writeSinkPtrs (s : State) (r : RegionNum) (m v : W64) : State :=
  s.updFrz r (fun f => { f with sinkRead := BitVec.ofNat 32 (fld (masked m (pack [(32, 32, f.sinkRead.toNat)]) v) 32 32) })

/-! ## Triggers (R513, R514) -/

/-- A write to FRZ_TRIGGER: the selected regions by software, then those that share a global trigger with the first of them. -/
def State.writeFrzTrigger (s : State) (v : W64) : State :=
  let hit := (ones 64 v.toNat).filter (fun i =>
    let f := (s.region (BitVec.ofNat 6 i)).frz
    f.armed && !f.triggered)
  let s := hit.foldl (fun t i => t.frzTrigger1 (BitVec.ofNat 6 i) 4 0 i) s
  match hit.find? (fun i => bit (s.region (BitVec.ofNat 6 i)).frz.control 17) with
  | some g => (List.range 64).foldl (fun t i =>
      if bit (t.region (BitVec.ofNat 6 i)).frz.control 17 then t.frzTrigger1 (BitVec.ofNat 6 i) 16 0 g else t) s
  | none => s

/-- FRZ_TRIGGER_WRITE. -/
def execFrzTriggerWrite (a : Actor) (v : W64) (s : State) : Host.Outcome State Fault Refusal :=
  .next (if isFwOrSup a then s.writeFrzTrigger v else s)

/-- TRIG_TICK: the region copy has reached a nonzero TRIG_TICK. -/
def execTrigTick (r : RegionNum) (s : State) : Host.Outcome State Fault Refusal :=
  let x := s.region r
  .next (if x.frz.trigTick != 0 && x.running && decide (x.frz.trigTick.toNat ≤ x.tl.toNat) then s.frzTrigger r 2 0 else s)

/-- TIME_SYNC: 2^34 ticks have passed since the region's last TIME_SYNC record (R511). -/
def execTimeSync (r : RegionNum) (s : State) : Host.Outcome State Fault Refusal :=
  .next (match (s.region r).frz.lastSync with
    | some t => if t.toNat + 2 ^ 34 ≤ (s.stamp r).toNat then s.frzResync r else s
    | none => s)

/-! ## The sink (R512) -/

/-- The record at the head of a STREAM buffer has been copied: it leaves, and SINK_WRITE advances. -/
def State.sinkCopied (s : State) (r : RegionNum) : State :=
  s.updFrz r (fun f => { f with fill := f.fill - 1, sinkWrite := f.sinkWrite + 1 })

/-- Whether the copy of a record to a ring on another device is under way. -/
def State.sinkBusy (s : State) (r : RegionNum) : Bool := s.tr.ops.any (fun o => o.purpose == .sink r)

/-- SINK_COPY: the oldest record of a STREAM buffer is copied to the ring, which must have room; on another device it leaves
the buffer when its WRITE is acknowledged. -/
def execSinkCopy (r : RegionNum) (s : State) : Host.Outcome State Fault Refusal :=
  let f := (s.region r).frz
  let room := decide ((f.sinkWrite - f.sinkRead).toNat ≠ 2 ^ fld f.sink 1 5)
  let at_ := fld f.sink 12 50 * 2 ^ 12 + 16 * (f.sinkWrite.toNat % 2 ^ fld f.sink 1 5)
  .next (if !f.stream || !bit f.sink 0 || f.fill = 0 || !room || s.sinkBusy r || !s.frzBudget r 1 then s
    else
      let s := s.frzMove r
      let rec_ := s.mem.bytes (frzSlot r (f.next + 16384 - f.fill)) 16
      if bit f.sink 6 then (s.hostWrite (at_ % 2 ^ 52) rec_).sinkCopied r
      else if s.isLocal at_ then (s.homeWrite (at_ % 2 ^ 48) rec_).sinkCopied r
      else if !s.disc.idValid then s
      else
        let d := BitVec.ofNat 14 (at_ / 2 ^ 48)
        if s.isDead d.toNat then s
        else s.request 1 (accessPacket d at_ ((s.grantee r).getD 0) 0 0 16 rec_) (.sink r))

end Sys2Proof.Machine
end

