-- ==== Sys2Proof/Machine/Dma.lean ====
section
/-! DEFINITION. The DMA engine: LIST and CONTRIB commands, block-list entries, late data (R334 to R345, R350 to R352,
R354, R571). -/

namespace Sys2Proof.Machine

def State.updDe (s : State) (c : CoreNum) (f : De → De) : State := s.updCore c (fun k => { k with de := f k.de })

/-! ## Fields of a DMA command -/

def FifoCmd.deWaitSem (f : FifoCmd) : Nat := fld f.hi 16 6
def FifoCmd.deWaitEn (f : FifoCmd) : Bool := bit f.hi 22
def FifoCmd.deSigSem (f : FifoCmd) : Nat := fld f.hi 23 6
def FifoCmd.deSigEn (f : FifoCmd) : Bool := bit f.hi 29

/-- The head command of the DE of a kind, when the DE can start it (R334). -/
def State.deHead (s : State) (c : CoreNum) (p : Nat → Bool) : Option FifoCmd × State :=
  let k := s.core c
  match k.de.run, k.de.fifo with
  | none, f :: rest =>
    if !s.runs c || !p f.kind then (none, s)
    else
      let start (s : State) : Option FifoCmd × State := (some f, s.updDe c (fun m => { m with fifo := rest }))
      if !f.deWaitEn || f.taken then start s
      else if f.waiting then (none, s)
      else if s.semCan c f.deWaitSem 1 then start (s.semSub c f.deWaitSem 1)
      else
        let s := s.updDe c (fun m => { m with fifo := { f with waiting := true } :: rest })
        (none, s.semQueue c f.deWaitSem .de 1 [])
  | _, _ => (none, s)

/-- The command ended: its signal, and its engine entry. -/
def State.deEnd (s : State) (c : CoreNum) (f : FifoCmd) : State :=
  let s := if f.deSigEn then s.semSignal c f.deSigSem 1 (3, 0) else s
  s.cmdDone f .de

/-! ## LIST (R335) -/

/-- Whether a LIST's fields are valid. -/
def FifoCmd.listOk (f : FifoCmd) : Bool :=
  let addr := fld f.lo 5 52 * 32
  fld f.lo 57 7 == 0 && fld f.hi 30 34 == 0 && f.count != 0 && (!bit f.lo 4 || decide (addr + 32 * f.count ≤ 0x2_0000))

/-! ## Block-list entries (R336, R337) -/

/-- The four words of an entry. -/
structure BlockWords where
  w0 : W64
  w1 : W64
  w2 : W64
  w3 : W64
deriving DecidableEq, Repr

def BlockWords.rows (e : BlockWords) : Nat := fld e.w2 20 12 + 1
def BlockWords.len (e : BlockWords) : Nat := fld e.w2 0 20 + 1
def BlockWords.fill (e : BlockWords) : Bool := bit e.w2 54
def BlockWords.srcSpace (e : BlockWords) : Nat := fld e.w0 62 2
def BlockWords.dstSpace (e : BlockWords) : Nat := fld e.w1 62 2

/-- The address of a row at one end: signed pitches; none below zero in a drawer. An address beside the 62 bits of its field wraps
(DESIGN CHOICE, assumption log 82): one that is no niche virtual address then faults. -/
def rowAddr (drawer : Bool) (base : Nat) (pitch : Int) (r : Nat) : Option Nat :=
  let a := (base : Int) + r * pitch
  if drawer && decide (a < 0) then none else some (wrapN 62 a)

/-- The rows of one end. -/
def BlockWords.ends (e : BlockWords) (isSrc : Bool) : List (Option Nat) :=
  let base := if isSrc then fld e.w0 0 62 else fld e.w1 0 62
  let pitch := sextI 24 (if isSrc then fld e.w3 0 24 else fld e.w3 24 24)
  (List.range e.rows).map (rowAddr ((if isSrc then e.srcSpace else e.dstSpace) == 1) base pitch)

/-- Whether an end's addresses keep R337 in its space. -/
def BlockWords.endOk (e : BlockWords) (isSrc : Bool) : Bool :=
  match if isSrc then e.srcSpace else e.dstSpace with
  | 0 => fld (if isSrc then e.w0 else e.w1) 57 5 == 0
  | 1 => (e.ends isSrc).all (fun a => match a with | some a => decide (a + e.len ≤ 0x2_0000) | none => false)
  | 2 => true
  | _ => false

/-- Whether an entry is valid (R337). -/
def BlockWords.ok (e : BlockWords) : Bool :=
  fld e.w2 56 8 == 0 && fld e.w3 60 4 == 0 && e.endOk false && (if e.fill then e.w0 == 0 else e.endOk true)

/-- The address of entry i, with its space: a drawer offset's address, or a niche virtual address. -/
def DeRun.entryAt (r : DeRun) (i : Nat) : Nat := r.addr + 32 * i

/-- What reading an entry gives. -/
inductive EntryRead where
  | words (e : BlockWords)
  | fault (code : Nat) (detail : W64)
  | wait
deriving DecidableEq, Repr

def blockWords (bs : List Byte) : BlockWords := ⟨recWord bs 0, recWord bs 1, recWord bs 2, recWord bs 3⟩

/-- Entry i of a list as the DE reads it now: the entry, or its fault; one on another device is asked for. -/
def State.fetchEntry (s : State) (c : CoreNum) (r : DeRun) (i : Nat) : EntryRead × State :=
  let a := r.entryAt i
  if r.space then
    let pa := drawerBase c + a
    let ((bs, p), s) := s.homeRead pa 32
    (match p with | some w => .fault 6 (paDetail w) | none => .words (blockWords bs), s)
  else
    match s.translate (some c) (s.ownerNiche c) a .load with
    | (.fault code, s) => (.fault code (vaDetail a .load), s)
    | (.wait, s) => (.wait, s)
    | (.ok (.dev pa) _, s) =>
      let held := s.linesHeld pa 32 false
      if !held.isEmpty then (.wait, s.recall held)
      else if !s.reaches c (.dev pa) then (.wait, s)
      else
        let ((bs, p), s) := s.homeRead pa 32
        (match p with | some w => .fault 6 (vaDetail (a + (w - pa)) .load) | none => .words (blockWords bs), s)
    | (.ok (.host pa) _, s) =>
      let (bs, s) := s.hostRead pa 32
      (.words (blockWords bs), s)
    | (.ok (.remote d pa) _, s) =>
      let use_ : RemoteUse := .listEntry c r.cmd.launch i
      if s.isDead d.toNat then (.fault 6 (vaDetail a .load), s)
      else if s.tr.ops.any (fun o => o.purpose == use_) then (.wait, s)
      else (.wait, s.request 0 (accessPacket d pa (s.ownerNiche c) (s.ownerCtx c) 0 32 []) use_)

/-- Entry i of a list as the DE uses it: what it read ahead (R341), or what it reads now. -/
def State.readEntry (s : State) (c : CoreNum) (r : DeRun) (i : Nat) : EntryRead × State :=
  match r.ahead.find? (fun e => e.1 == i) with
  | some (_, some bs) => (.words (blockWords bs), s)
  | some (_, none) => (.fault 6 (vaDetail (r.entryAt i) .load), s)
  | none => s.fetchEntry c r i

/-! ## Starting a block (R340, R342 to R344) -/

/-- A row cut where either end crosses a 64 KiB boundary, or after 4 KiB (R343): offsets and lengths. -/
def cutRow (src dst len : Nat) : Nat → Nat → List (Nat × Nat)
  | 0, _ => []
  | fuel + 1, off =>
    if len ≤ off then []
    else
      let n := min (min (len - off) 4096) (min (0x1_0000 - (src + off) % 0x1_0000) (0x1_0000 - (dst + off) % 0x1_0000))
      (off, n) :: cutRow src dst len fuel (off + n)

/-- What an end's address becomes. -/
inductive EndTgt where
  | ok (t : Tgt)
  | fault (code : Nat) (detail : W64)
  | wait
deriving DecidableEq, Repr

/-- The target of an address in a space (R337): a global physical address only in a supervisor's list. -/
def State.endTgt (s : State) (c : CoreNum) (super : Bool) (space a : Nat) (k : AccKind) : EndTgt × State :=
  match space with
  | 0 =>
    match s.translate (some c) (s.ownerNiche c) a k with
    | (.fault code, s) => (.fault code (vaDetail a k), s)
    | (.wait, s) => (.wait, s)
    | (.ok t _, s) => (.ok t, s)
  | 1 => (.ok (.dev (drawerBase c + a)), s)
  | _ =>
    if !super then (.fault 3 (paDetail a), s)
    else if s.isLocal a then (.ok (.dev (a % 2 ^ 48)), s)
    else if !s.disc.idValid then (.fault 2 (paDetail a), s)
    else (.ok (.remote (BitVec.ofNat 14 (a / 2 ^ 48)) (a % 2 ^ 48)), s)

/-- The parts of a block, translated in order until one faults. -/
def State.blockPieces (s : State) (c : CoreNum) (super : Bool) (e : BlockWords) :
    (Except EndTgt (List Piece)) × State :=
  let rows := (e.ends true).zip (e.ends false)
  let cuts := rows.flatMap (fun p =>
    let a := if e.fill then p.2.getD 0 else p.1.getD 0
    (cutRow a (p.2.getD 0) e.len (e.len + 1) 0).map (fun q => (a + q.1, p.2.getD 0 + q.1, q.2)))
  cuts.foldl (fun (r : (Except EndTgt (List Piece)) × State) q =>
    match r with
    | (.error x, s) => (.error x, s)
    | (.ok ps, s) =>
      let (src, s) : (Option EndTgt) × State :=
        if e.fill then (none, s) else let (t, s) := s.endTgt c super e.srcSpace q.1 .load; (some t, s)
      match src with
      | some (.fault code d) => (.error (.fault code d), s)
      | some .wait => (.error .wait, s)
      | _ =>
        match s.endTgt c super e.dstSpace q.2.1 .store with
        | (.ok dst, s) =>
          (.ok (ps ++ [{ src := match src with | some (.ok t) => some t | _ => none, dst := dst, len := q.2.2,
                         srcVa := if e.srcSpace = 0 then some q.1 else none
                         dstVa := if e.dstSpace = 0 then some q.2.1 else none }]), s)
        | (x, s) => (.error x, s)) (.ok [], s)

/-- Where a block writes, as far as its rows have a translation. -/
def State.blockDest (s : State) (c : CoreNum) (super : Bool) (e : BlockWords) : List (Tgt × Nat) :=
  (e.ends false).flatMap (fun a =>
    let a := a.getD 0
    (cutRow a a e.len (e.len + 1) 0).filterMap (fun q =>
      match (s.endTgt c super e.dstSpace (a + q.1) .store).1 with | .ok t => some (t, q.2) | _ => none))

/-- A LIST as it starts, its anchor the slot of the region's copy (R350). -/
def State.listRun (s : State) (c : CoreNum) (f : FifoCmd) : DeRun :=
  let x := s.region (regionOf c)
  { cmd := f, isList := true, space := bit f.lo 4, addr := fld f.lo 5 52 * 32, count := f.count, next := 0,
    anchor := x.tl.toNat / 1024, blocks := [], leftRun := x.state != 0 }

/-- The bytes that a faulting LIST was to write hold unpredictable values, those of blocks performed and not yet started among them
(R143). -/
def State.scrambleList (s : State) (c : CoreNum) (f : FifoCmd) : State :=
  if f.kind != 0 then s
  else
    let r := (s.core c).de.run.getD (s.listRun c f)
    let rest := (List.range (r.count - r.next)).flatMap (fun j =>
      match (s.readEntry c r (r.next + j)).1 with
      | .words e => if e.ok then s.blockDest c f.super e else []
      | _ => [])
    (r.wrote ++ rest).foldl (fun s d => s.scrambleTgt d.1 d.2) s

def State.deRaise (s : State) (c : CoreNum) (code : Nat) (f : FifoCmd) (detail : W64) : State :=
  (s.scrambleList c f).raise c f.launch (cmdExc 3 code f detail)

/-! ## CONTRIB (R249, R354, R571) -/

def FifoCmd.conRows (f : FifoCmd) : Nat := fld f.lo 5 7 + 1
def FifoCmd.conCols (f : FifoCmd) : Nat := fld f.lo 12 5 + 1
def FifoCmd.conSrc (f : FifoCmd) : Nat := fld f.lo 17 17
def FifoCmd.conPitch (f : FifoCmd) : Nat := fld f.lo 34 17

/-- Whether a CONTRIB's fields are valid. -/
def FifoCmd.contribOk (f : FifoCmd) : Bool :=
  let w := if bit f.lo 4 then 16 else 8
  fld f.lo 51 13 == 0 && fld f.hi 57 7 == 0 && f.conSrc % w == 0 && f.conPitch % w == 0 && decide (f.conCols * w ≤ f.conPitch) &&
    decide (f.conSrc + (f.conRows - 1) * f.conPitch + f.conCols * w ≤ 0x2_0000)

/-- The values of a partial in the drawer; none marks a poisoned one. -/
def State.partial_ (s : State) (c : CoreNum) (f : FifoCmd) : List (Option X80) :=
  let w := if bit f.lo 4 then 16 else 8
  (List.range f.conRows).flatMap (fun m => (List.range f.conCols).map (fun n =>
    let a := drawerBase c + f.conSrc + m * f.conPitch + n * w
    if s.mem.poisoned a w then none else some (BitVec.ofNat 80 (s.mem.le a (if bit f.lo 4 then 10 else 5)))))

/-- CONTRIB: the partial is sent and accepted by the armature; a mismatch raises CMD_INVALID. -/
def execContrib (c : CoreNum) (s : State) : Host.Outcome State Fault Refusal :=
  .next (match s.deHead c (fun k => k == 1) with
    | (none, s) => s
    | (some f, s) =>
      if !f.contribOk then s.deRaise c 0x0B f 0
      else
        let s := s.inject (drawerBase c + f.conSrc) 8
        match s.redFor f.launch (fld f.hi 0 16) with
        | (some i, s) =>
          match s.fe.reds[i]? with
          | some r =>
            let rf := fld f.hi 30 14
            let rg := fld f.hi 44 6
            let rc := fld f.hi 50 7
            if !r.accepts (bit f.lo 4) f.conRows f.conCols rf rg rc then s.deRaise c 0x0B f 0
            else
              let flat := (rf * r.g + rg) * r.c + rc
              (s.accept i r flat (s.partial_ c f)).deEnd c f
          | none => s
        | (none, s) => s.deRaise c 0x0B f 0)

/-- RESERVED_COMMAND_KIND: a command with a reserved KIND is invalid when its engine starts it (R217, R335). -/
def execReservedCommandKind (c : CoreNum) (de : Bool) (s : State) : Host.Outcome State Fault Refusal :=
  .next (if de then
      match s.deHead c (fun k => decide (2 ≤ k)) with
      | (none, s) => s
      | (some f, s) => s.deRaise c 0x0B f 0
    else
      match s.meHead c (fun k => decide (5 ≤ k)) with
      | (none, s) => s
      | (some f, s) => s.meRaise c 0x0B f 0)

/-- The bytes that the four words of an entry are. -/
def BlockWords.bytes (e : BlockWords) : List Byte := [e.w0, e.w1, e.w2, e.w3].flatMap (fun w => leBytes 8 w.toNat)

/-- The DE may read entries ahead, at most 8 beyond the oldest block not yet performed; how many it has read is open, so an
entry that changes while its list runs is used old or new (R341). -/
def State.readAhead (s : State) (c : CoreNum) : State :=
  match (s.core c).de.run with
  | some r =>
    let oldest := match r.blocks.find? (fun b => !b.performed) with | some b => b.index | none => r.next
    let last := min r.count (oldest + Config.freeNat s.fresh % 9)
    let s := { s with fresh := s.fresh + 1 }
    (List.range (last - r.next)).foldl (fun s j =>
      match (s.core c).de.run with
      | some r =>
        if r.ahead.any (fun e => e.1 == r.next + j) then s
        else
          match s.fetchEntry c r (r.next + j) with
          | (.words e, s) => s.updDe c (fun m => { m with run := some { r with ahead := r.ahead ++ [(r.next + j, some e.bytes)] } })
          | _ => s
      | none => s) s
  | none => s

/-- LIST: the command starts, its anchor the slot of the region's copy (R350). -/
def execList (c : CoreNum) (s : State) : Host.Outcome State Fault Refusal :=
  .next (match s.deHead c (fun k => k == 0) with
    | (none, s) => s
    | (some f, s) =>
      if !f.listOk then s.deRaise c 0x0B f 0
      else
        (s.updDe c (fun m => { m with run := some (s.listRun c f) })).readAhead c)

/-- Whether a block meets bytes that an earlier block, not yet performed, reads or writes (R280, R338). -/
def clash (a b : List Piece) : Bool :=
  a.any (fun x => b.any (fun y => tgtOverlap x.dst x.len y.dst y.len ||
    (match x.src with | some t => tgtOverlap t x.len y.dst y.len | none => false) ||
    (match y.src with | some t => tgtOverlap x.dst x.len t y.len | none => false)))

/-- Whether any end of a block lies on another device. -/
def farBlock (ps : List Piece) : Bool :=
  ps.any (fun p => (match p.dst with | .remote _ _ => true | _ => false) || (match p.src with | some (.remote _ _) => true | _ => false))

/-- The words of a destination that receive a byte of a poisoned source word (R344). -/
def poisonedDst (src dst len : Nat) (poison : List Nat) : List Nat :=
  (poison.filter (fun w => overlaps w 8 src len)).foldl (fun ws w =>
    let lo := max w src
    let hi := min (w + 8) (src + len)
    (wordsOf (dst + (lo - src)) (hi - lo)).foldl insNat ws) []

/-! ## Late data (R351, R352) -/

/-- The entries of a running list that the DE knows: started blocks, and those it may have read ahead (R341). -/
def State.knownEntries (s : State) (c : CoreNum) (r : DeRun) : List (Nat × W64 × W64 × Bool) :=
  let toFar (ps : List Piece) : Bool := ps.any (fun p => match p.dst with | .remote _ _ => true | _ => false)
  let started := (r.blocks.filter (fun b => !b.performed)).map (fun b => (b.index, b.w2, b.w3, toFar b.pieces))
  let oldest := match started with | x :: _ => x.1 | [] => r.next
  started ++ ((List.range (min r.count (oldest + 8) - r.next)).filterMap (fun j =>
    match s.readEntry c r (r.next + j) with
    | (.words e, _) =>
      let far := match s.endTgt c r.cmd.super e.dstSpace (fld e.w1 0 62) .store with
        | (.ok (.remote _ _), _) => true
        | _ => false
      some (r.next + j, e.w2, e.w3, far)
    | _ => none))

/-- The first entry that is late now, at the first tick after its due slot, and not yet counted. -/
def State.lateEntry (s : State) (c : CoreNum) (r : DeRun) : Option (Nat × Nat) :=
  let now := (s.region (regionOf c)).tl.toNat
  (s.knownEntries c r).findSome? (fun e =>
    let due := fld e.2.2.1 48 12
    let waits := bit e.2.1 45 && !((s.core c).sem (fld e.2.1 39 6)).queue.isEmpty
    if due ≠ 0 ∧ now = 1024 * (r.anchor + due + 1) ∧ (waits || e.2.2.2) ∧ !r.late.contains e.1 then some (e.1, r.anchor + due) else none)

/-- LATE_DATA: an entry not performed at the first tick after its due slot is counted and recorded. -/
def execLateData (c : CoreNum) (s : State) : Host.Outcome State Fault Refusal :=
  .next (match (s.core c).de.run with
    | some r =>
      match s.lateEntry c r with
      | some (i, due) =>
        let g := regionOf c
        let s := s.updDe c (fun m => { m with run := some { r with late := r.late ++ [i] } })
        let s := s.updRegion g (fun x => { x with late := satAdd x.late 1, lateStretched := satAdd x.lateStretched r.leftRun.toNat })
        let s := s.selfAdd c 12 1
        s.frieze g 0x20
          [{ w0 := frzHead 0x20 c.toNat 3 0 (s.stamp g), w1 := pack [(0, 54, due), (54, 1, r.leftRun.toNat)] },
           { w0 := pack [(0, 8, 0x7F), (8, 16, i), (24, 1, r.space.toNat)], w1 := BitVec.ofNat 64 (r.entryAt i) }]
      | none => s
    | none => s)

/-! ## The end of a block (R339, R344, R345) -/

/-- Signals of performed blocks given in entry order, and the end of the command (R334, R339). -/
def State.deSignals (s : State) (c : CoreNum) : Nat → State
  | 0 => s
  | fuel + 1 =>
    match (s.core c).de.run with
    | some r =>
      match r.blocks with
      | b :: bs =>
        if b.performed then
          let s := s.updDe c (fun m => { m with run := some { r with blocks := bs } })
          let s := if bit b.w2 45 then s.semSignal c (fld b.w2 39 6) 1 (3, 0) else s
          s.deSignals c fuel
        else s
      | [] => if r.isList && r.next == r.count then (s.updDe c (fun m => { m with run := none })).deEnd c r.cmd else s
    | none => s

/-- Whether parts of a block are on their way to or from another device. -/
def State.blockBusy (s : State) (c : CoreNum) (l index : Nat) : Bool :=
  s.tr.ops.any (fun o => match o.purpose with | .block c' l' i _ _ => c' == c && l' == l && i == index | _ => false)

end Sys2Proof.Machine
end

