-- ==== Sys2Proof/Machine/Placement.lean ====
section
/-! DEFINITION. The placement unit: walks that end, backing, tallies and epochs, migrations, hints, invalidations, and the
registers of R275 whose writes are commands (R259, R264 to R273, R276, R332). -/

namespace Sys2Proof.Machine

/-- Whether a context of a niche is resident on the device (R276, R332, R391, R415). -/
def State.resident (s : State) (n : NicheNum) : Bool :=
  (s.niche n).ctxs.any (fun c => c.2.state == 1) || s.regions.any (fun r => r.2.holder.map (·.1) == some n)

/-- The cores of the regions that a niche holds. -/
def State.coresOf (s : State) (n : NicheNum) : List CoreNum :=
  (s.cores.map (fun p => BitVec.ofNat 13 p.1)).filter (fun c => (s.owner c).map (·.1) == some n)

/-! ## Walks (R259 to R261, R566) -/

/-- The lanes in which the next instruction of a stream acts, when its word is fetched and legal and the stream does not wait. -/
def State.nextLanes (s : State) (t : Strm) (w : W64) : List Nat :=
  match t with
  | .se c => if s.seReady c && legal false 0 w && seTest (s.core c).se.preds w then [0] else []
  | .ve g =>
    match s.veReady g with
    | some x => match x.choose with
      | some (y, _, lanes) => if legal true y.regs w then lanes.filter (y.test w) else []
      | none => []
    | none => []

/-- The kind of access of a load, store or atomic. -/
def wKind (w : W64) : Option AccKind :=
  match wOp w with
  | 0x20 | 0x22 => some .load
  | 0x21 | 0x23 => some .store
  | 0x24 => some .atomic
  | _ => none

/-- The exception that the next load, store or atomic of a stream meets at its first lane that faults (R141), once its
operands are there and nothing holds it back: that lane, the code, DETAIL. -/
def State.nextFault (s : State) (t : Strm) (w : W64) (k : AccKind) : Option (Nat × Nat × W64) :=
  let c := strmCore t
  let slot := strmSlot t
  let f := wM w
  let z := f.size.toNat
  let ls := s.nextLanes t w
  let data := if k = .load then [] else dataReads t z f.src2.toNat
  let regs := ((addrReads t f ++ data).filter (fun r => r.1 == fileOf t)).map (·.2) ++ (if k = .store then [] else dataRegs t z f.dst.toNat)
  if wKind w != some k || s.awaits c slot regs || (wOp w != 0x20 && s.loadsPending c slot) || s.heldBack c slot ||
      (wOp w == 0x23 && !s.released c slot f.scope.toNat) then none
  else firstFault (s.resolveAll t (s.bases t f ls) f.off f.space (2 ^ z) k).1

/-- The exception that the next block of the DE's list meets, or the entry that names it (R341, R343): code and DETAIL. -/
def State.blockFault (s : State) (c : CoreNum) : Option (FifoCmd × Nat × W64) :=
  match (s.core c).de.run with
  | some r =>
    let open_ := r.blocks.filter (fun b => !b.performed)
    if !r.isList || r.count ≤ r.next || r.waiting || 6 ≤ open_.length || open_.any (fun b => bit b.w2 55) then none
    else
      match (s.readEntry c r r.next).1 with
      | .fault code d => some (r.cmd, code, d)
      | .words e =>
        if !e.ok || (bit e.w2 38 && !r.taken && !s.semCan c (fld e.w2 32 6) 1) then none
        else
          match (s.blockPieces c r.cmd.super e).1 with
          | .error (.fault code d) => some (r.cmd, code, d)
          | _ => none
      | .wait => none
  | none => none

/-- The exception raised by a walk of an access of a stream that ended in a fault: at a fetch, or at the next instruction
when that access is its own; `u` is the state after the walk. -/
def State.walkFault (s : State) (t : Strm) (va : Nat) (k : AccKind) (code : Nat) (u : State) : Option State :=
  match s.fetchAt t with
  | some (pc, lane) =>
    if k = .fetch then
      if pc = va ∧ (s.core (strmCore t)).ic.ready = true ∧ windowOff (s.entryOn t) pc = none then u.strmFault t lane pc code (vaDetail va k)
      else none
    else
      match s.iword t pc with
      | some w =>
        match s.nextFault t w k with
        | some (lane, code, d) => if d = vaDetail va k then u.strmFault t lane pc code d else none
        | none => none
      | none => none
  | none => none

/-- TRANSLATION_WALK: the walk for an access of an engine ends; the leaf is kept, or the access that caused the walk raises
its exception (R260, R566): the next fetch, load, store or atomic of a stream, the next entry or block of the DE. An access
of another instruction raises its own when it is made. -/
def execTranslationWalk (c : CoreNum) (e : Eng) (slot : BitVec 5) (va : BitVec 57) (k : AccKind) (s : State) :
    Host.Outcome State Fault Refusal :=
  .next (if !s.runs c then s else
    match s.translate (some c) (s.ownerNiche c) va.toNat k with
    | (.fault code, u) =>
      match e with
      | .se => (s.walkFault (.se c) va.toNat k code u).getD u
      | .ve => (s.walkFault (.ve ⟨c, slot⟩) va.toNat k code u).getD u
      | .me => u
      | .de =>
        match s.blockFault c with
        | some (f, code, d) => if d = vaDetail va.toNat k then u.deRaise c code f d else u
        | none => u
    | (_, u) => u)

/-! ## Leaves (R262) -/

/-- A leaf of the placement unit's written back. -/
def State.setLeaf (s : State) (a : Nat) (e : W64) : State := { s with mem := s.mem.setWord a e }

/-- A leaf with the frame and the tier it was given, BACKED, not MIGRATING. -/
def leafWith (e : W64) (tier frame : Nat) : W64 :=
  setFld (setFld (setFld (setFld e 8 2 tier) 10 1 0) 11 1 1) 16 46 (frame / 2 ^ 16)

/-- A placed leaf of an address: its level, local address and value. -/
def State.placedLeaf (s : State) (n : NicheNum) (va : Nat) : Option (Nat × Nat × W64) :=
  match s.walk n va with
  | .leaf l a e => if bit e 5 then some (l, a, e) else none
  | _ => none

/-- The page of a niche changed. -/
def State.updPage (s : State) (n : NicheNum) (base : Nat) (f : PageInfo → PageInfo) : State :=
  s.updNiche n (fun x => { x with pages := Sparse.put x.pages base (f (Sparse.getD x.pages base {})) })

/-! ## Backing (R268) -/

/-- A frame asked of a peer, one request at a time (R439); which peer is asked is open. -/
def State.askLease (s : State) (n : NicheNum) : State :=
  let ps := s.peers
  if s.tr.ops.any (fun o => o.purpose == .lease n) then s
  else
    let d := ps.getD (Config.freeNat s.fresh % ps.length) 0
    ({ s with fresh := s.fresh + 1 } : State).request 7 (leasePacket (BitVec.ofNat 14 d) 0 n 0 1) (.lease n)

/-- A backing that waits for its zero fill. -/
def State.fillOf (s : State) (n : NicheNum) (base : Nat) : Option Fill := s.place.fills.find? (fun f => f.niche == n && f.va == base)

/-- The zero fill of a frame: at once on this device; a leased frame comes zeroed, but one that a page has used is filled by WRITEs, and
the backing waits for their acknowledgements (R268, R568). True when the frame is zero. -/
def State.zeroFrame (s : State) (n : NicheNum) (base leafAddr tier f size : Nat) : Bool × State :=
  if tier != 3 then (true, { s with mem := s.mem.zero (f % 2 ^ 48) size })
  else
    let used := s.place.usedSlots.any (fun u => overlaps u 0x1_0000 f size)
    let slots := (List.range (size / 0x1_0000)).map (fun i => f + i * 0x1_0000)
    let s : State := { s with place := { s.place with usedSlots := slots.foldl insNat s.place.usedSlots } }
    if !used then (true, s)
    else
      let s : State := { s with place := { s.place with fills := s.place.fills ++ [{ niche := n, va := base, leafAddr := leafAddr, frame := f }] } }
      (false, (List.range (size / 4096)).foldl (fun s i =>
        s.sendBytes (BitVec.ofNat 14 (f / 2 ^ 48)) (f % 2 ^ 48 + 4096 * i) n 0 0 (List.replicate 4096 0) [] (.page n base (4096 * i) false)) s)

/-- A page backed: a frame of the first tier that has one, zero-filled, then the leaf. A backing that waits for a zero fill goes on once
it is acknowledged; one that a peer is to serve asks for a frame. None when nothing changes. -/
def State.backPage (s : State) (n : NicheNum) (va : Nat) : Option State :=
  match s.placedLeaf n va with
  | some (l, a, e) =>
    let base := pageBase l va
    if bit e 11 || bit e 10 then none
    else
      match s.fillOf n base with
      | some g =>
        if s.tr.ops.any (fun o => match o.purpose with | .page n' v _ false => n' == n && v == base | _ => false) then none
        else some (({ s with place := { s.place with fills := s.place.fills.filter (· != g) } } : State).setLeaf a (leafWith e 3 g.frame))
      | none =>
        match s.chooseFrame n base (pageSize l) with
        | .frame tier f =>
          let s : State := { s with place := { s.place with frames := s.place.frames ++ [(n, f, pageSize l)] } }
          let (ok, s) := s.zeroFrame n base a tier f (pageSize l)
          let s := s.updPage n base id
          some (if ok then s.setLeaf a (leafWith e tier f) else s)
        | .ask => some (s.askLease n)
        | .none => none
  | none => none

/-- PAGE_BACKING: an unbacked page that an access has reached is backed; where the tiers call for a frame of a peer and none is
held, one is asked for. -/
def execPageBacking (n : NicheNum) (va : BitVec 57) (s : State) : Host.Outcome State Fault Refusal :=
  .next ((s.backPage n va.toNat).getD s)

/-! ## Invalidation (R264, R265) -/

/-- Translations of a niche that meet a virtual range leave every translation cache and pointer cache. -/
def State.dropTranslations (s : State) (n : NicheNum) (va len : Nat) : State :=
  let keep (l : List TcEntry) : List TcEntry := l.filter (fun e => !(e.niche == n && overlaps e.va (pageSize e.level) va len))
  let keepP (l : List PtrEntry) : List PtrEntry := l.filter (fun e => !(e.niche == n && overlaps e.va (spanOf e.level) va len))
  { s with cores := s.cores.map (fun p => (p.1, { p.2 with tc := keep p.2.tc }))
           regions := s.regions.map (fun p => (p.1, { p.2 with ptrs := keepP p.2.ptrs }))
           fe := { s.fe with tc := keep s.fe.tc, ptrs := keepP s.fe.ptrs } }

/-- The accesses of a core that have not completed and that a test on (virtual address, target, length) selects. -/
def Core.hasAccess (k : Core) (p : Nat → Tgt → Nat → Bool) : Bool :=
  k.loads.any (fun e => e.lanes.any (fun x => p x.va x.tgt e.size)) ||
    (k.se.buffer ++ k.ve.buffer ++ k.storesOut).any (fun e => e.lanes.any (fun x => p x.va x.tgt x.bytes.length))

/-- Whether a DMA engine has a block in progress. -/
def Core.blockOpen (k : Core) : Bool :=
  match k.de.run with
  | some r => r.blocks.any (fun b => !b.performed)
  | none => false

/-- The niche of a queue (FE_SQ_CONFIG). -/
def Queue.niche (q : Queue) : NicheNum := BitVec.ofNat 6 (fld q.config 7 6)

/-- Whether an access of the plinth walker for a niche is under way: of the dispatcher, whose addresses all count, or the armature's
(R567). -/
def State.plinthIn (s : State) (n : NicheNum) (va len : Nat) : Bool :=
  s.tr.ops.any (fun o => match o.purpose with
    | .ring q | .completion q _ | .entry q _ | .source q _ _ => (s.queue q).niche == n
    | .castList n' => n' == n
    | .armature l _ v => (match s.launch? l with | some x => x.niche == n | none => false) && decide (va ≤ v + 15) && decide (v < va + len)
    | _ => false)

/-- Whether an access of the niche translated through a virtual range is still under way; the blocks of a DMA engine count. -/
def State.accessesIn (s : State) (n : NicheNum) (va len : Nat) : Bool :=
  s.plinthIn n va len || (s.coresOf n).any (fun c =>
    let k := s.core c
    k.hasAccess (fun v _ b => overlaps v b va len) || k.blockOpen ||
      s.tr.ops.any (fun o => match o.purpose with
        | .store c' _ _ _ _ v _ _ => c' == c && decide (va ≤ v) && decide (v < va + len)
        | .fill c' _ | .fetch c' _ | .writeback c' _ _ _ | .listEntry c' _ _ => c' == c
        | _ => false))

/-- A write of NPL_SHOOT: START begins the invalidation of R264; one that is in progress ignores a further START (R265). -/
def State.writeShoot (s : State) (n : NicheNum) (m v : W64) : State :=
  let x := s.niche n
  let w := masked (m &&& (mask 2 1 ||| mask 16 41)) x.shoot v
  let start := bit (m &&& v) 0
  if !start then s.updNiche n (fun x => { x with shoot := w })
  else if !bit x.shoot 1 then s
  else
    let va := if bit w 2 then 0 else fld w 16 41 * 2 ^ 16
    let len := if bit w 2 then 2 ^ 57 else fld x.shootCount 0 32 * 2 ^ 16
    (s.updNiche n (fun x => { x with shoot := setFld w 0 2 1, shooting := some (va, len) })).dropTranslations n va len

/-- Firmware and the supervisor write the placement registers (R275). -/
def execNplShoot (a : Actor) (n : NicheNum) (v : W64) (s : State) : Host.Outcome State Fault Refusal :=
  .next (if isFwOrSup a then s.writeShoot n (BitVec.allOnes 64) v else s)

/-- SHOOTDOWN_DONE: every access translated through an invalidated entry has completed; DONE is set and START cleared. -/
def execShootdownDone (n : NicheNum) (s : State) : Host.Outcome State Fault Refusal :=
  .next (match (s.niche n).shooting with
    | some (va, len) =>
      if s.accessesIn n va len then s
      else s.updNiche n (fun x => { x with shoot := setFld x.shoot 0 2 2, shooting := none })
    | none => s)

/-! ## Migration (R269, R270) -/

/-- The tier a frame's leaf names. -/
def leafTier (e : W64) : Nat := fld e 8 2

/-- Step 1 and the invalidation of step 2 of R270 for a page moved to a tier, or to one region's shelf segment; unchanged where
R269 does not permit the move or no frame is free. -/
def State.startMove (s : State) (n : NicheNum) (va tier : Nat) (seg : Option RegionNum) : State :=
  match s.placedLeaf n va with
  | some (l, a, e) =>
    let frame := fld e 16 46 * 2 ^ 16
    let here := leafTier e == tier && (match seg with | some r => frame % 2 ^ 48 / 0x200_0000 == shelfBase r / 0x200_0000 | none => true)
    let allowed := bit s.place.control 0 && bit (s.niche n).nplControl 2 && (l == 0 || (l == 1 && bit (s.niche n).nplControl 3))
    if !bit e 11 || bit e 10 || bit e 6 || here || !allowed then s
    else
      match s.freeFrame n tier (pageSize l) seg with
      | some f =>
        let base := pageBase l va
        let g : Migration := { niche := n, va := base, leafAddr := a, oldFrame := BitVec.ofNat 62 frame, newFrame := BitVec.ofNat 62 f,
                               tier := BitVec.ofNat 2 tier, bytes := pageSize l }
        let slots := if tier = 3 then (List.range (pageSize l / 0x1_0000)).map (fun i => f + i * 0x1_0000) else []
        let s : State := { s with place := { s.place with frames := s.place.frames ++ [(n, f, pageSize l)], migs := s.place.migs ++ [g]
                                                          usedSlots := slots.foldl insNat s.place.usedSlots } }
        ((s.setLeaf a (setBit e 10 true)).dropTranslations n base (pageSize l)).updPage n base (fun p => { p with cold := false })
      | none => s
  | none => s

/-- Whether a target lies in a frame. -/
def inFrame (own : Nat) (frame bytes : Nat) (t : Tgt) : Bool :=
  match t with
  | .dev a => frame / 2 ^ 48 == own && decide (frame % 2 ^ 48 ≤ a) && decide (a < frame % 2 ^ 48 + bytes)
  | .remote d a => frame / 2 ^ 48 == d.toNat && decide (frame % 2 ^ 48 ≤ a) && decide (a < frame % 2 ^ 48 + bytes)
  | .host _ => false

/-- Whether an access to a frame is still under way anywhere (step 2 of R270). -/
def State.frameBusy (s : State) (frame bytes : Nat) : Bool :=
  let own := s.myDevice
  s.cores.any (fun p =>
    p.2.hasAccess (fun _ t _ => inFrame own frame bytes t) ||
      (match p.2.dc.miss with | some m => decide (frame ≤ m.1) && decide (m.1 < frame + bytes) | none => false) ||
      (match p.2.de.run with
       | some r => r.blocks.any (fun b => !b.performed && b.pieces.any (fun q => inFrame own frame bytes q.dst ||
           (match q.src with | some t => inFrame own frame bytes t | none => false)))
       | none => false)) ||
    s.tr.ops.any (fun o => decide (frame ≤ o.addr) && decide (o.addr < frame + bytes))

/-- The write-back of step 2 on every core of the niche: the lines of the frame leave the caches once they are clean. -/
def State.flushFrame (s : State) (n : NicheNum) (frame bytes : Nat) : State :=
  let p (a : Nat) : Bool := decide (frame ≤ a) && decide (a < frame + bytes)
  (s.coresOf n).foldl (fun s c =>
    let s := s.cleanLines c .flush p
    if s.cleaned c .flush p then s.dropLines c p else s) s

/-- Whether a line of a frame is still to be written back. -/
def State.frameDirty (s : State) (n : NicheNum) (frame bytes : Nat) : Bool :=
  let p (a : Nat) : Bool := decide (frame ≤ a) && decide (a < frame + bytes)
  !(s.coresOf n).all (fun c => s.cleaned c .flush p)

/-- Step 3 for a page of which one frame lies on another device: READs from it, or WRITEs to it, 4 KiB at a time. -/
def State.copyFar (s : State) (g : Migration) : State :=
  let own := s.myDevice
  let old := g.oldFrame.toNat
  let new := g.newFrame.toNat
  (List.range (g.bytes / 4096)).foldl (fun s i =>
    let off := 4096 * i
    if old / 2 ^ 48 != own then
      s.request 0 (accessPacket (BitVec.ofNat 14 (old / 2 ^ 48)) (old + off) g.niche 0 0 4096 []) (.page g.niche g.va off true)
    else
      s.sendBytes (BitVec.ofNat 14 (new / 2 ^ 48)) (new % 2 ^ 48 + off) g.niche 0 0 (s.mem.bytes (old % 2 ^ 48 + off) 4096)
        (s.mem.poison.filterMap (fun w => if within w 8 (old % 2 ^ 48 + off) 4096 then some (w - old % 2 ^ 48 + new % 2 ^ 48) else none))
        (.page g.niche g.va off false)) s

/-- A lease that no page uses any more goes back to its donor (R439). -/
def State.returnLease (s : State) (n : NicheNum) (frame : Nat) : State :=
  match s.tr.held.find? (fun h => h.1 == n && overlaps h.2 0x20_0000 frame 1) with
  | none => s
  | some h =>
    if s.place.frames.any (fun f => overlaps h.2 0x20_0000 f.2.1 f.2.2) then s
    else
      ({ s with tr := { s.tr with held := s.tr.held.filter (· != h) }
                place := { s.place with usedSlots := s.place.usedSlots.filter (fun u => !within u 0x1_0000 h.2 0x20_0000) } } : State).request 7
        (leasePacket (BitVec.ofNat 14 (h.2 / 2 ^ 48)) (h.2 % 2 ^ 48) n 2 1) (.lease n)

/-- A frame given back to its pool. -/
def State.freeFrameOf (s : State) (n : NicheNum) (frame : Nat) : State :=
  ({ s with place := { s.place with frames := s.place.frames.filter (fun f => !(f.1 == n && f.2.1 == frame)) } } : State).returnLease n frame

/-- A migration given up: its new frame is free again. -/
def State.dropMove (s : State) (idx : Nat) (g : Migration) : State :=
  ({ s with place := { s.place with migs := s.place.migs.eraseIdx idx } } : State).freeFrameOf g.niche g.newFrame.toNat

/-- Steps 4 and 5: the leaf takes the new frame, the old one returns to its pool, a lease that nothing uses to its donor. A page whose
leaf is poisoned is not moved (R566). -/
def State.endMove (s : State) (idx : Nat) (g : Migration) : State :=
  if s.mem.poisoned g.leafAddr 8 then s.dropMove idx g
  else
    let e := s.mem.word g.leafAddr
    let s := s.setLeaf g.leafAddr (leafWith e g.tier.toNat g.newFrame.toNat)
    let s := (s.count 116 g.bytes).updNiche g.niche (fun x => { x with migrations := satAdd x.migrations 1 })
    ({ s with place := { s.place with migrations := satAdd s.place.migrations 1, migs := s.place.migs.eraseIdx idx } } : State).freeFrameOf
      g.niche g.oldFrame.toNat

/-- MIGRATION_COMPLETE: once no access to the old frame is left, the lines are written back; behind the last acknowledgement the page
is copied with every poison bit, and the leaf and the pools change. -/
def execMigrationComplete (idx : Nat) (s : State) : Host.Outcome State Fault Refusal :=
  .next (match s.place.migs[idx]? with
    | none => s
    | some g =>
      let own := s.myDevice
      let old := g.oldFrame.toNat
      let new := g.newFrame.toNat
      if s.frameBusy old g.bytes || s.frameBusy new g.bytes then s
      else
        let s := if g.copying || old / 2 ^ 48 != own then s else s.inject (old % 2 ^ 48) g.bytes
        let s := s.flushFrame g.niche old g.bytes
        if s.frameDirty g.niche old g.bytes || s.frameBusy old g.bytes then s
        else if g.copying then s.endMove idx g
        else if old / 2 ^ 48 == own && new / 2 ^ 48 == own then
          ({ s with mem := s.mem.copyFrom s.mem (old % 2 ^ 48) (new % 2 ^ 48) g.bytes } : State).endMove idx g
        else
          ({ s with place := { s.place with migs := s.place.migs.set idx { g with copying := true } } } : State).copyFar g)

/-- The pools of a niche (R267): each NPL_POOL range; its shelf segments together; its leased frames together. -/
def State.poolGroups (s : State) (n : NicheNum) : List (Nat × List (Nat × Nat)) :=
  let ps := s.poolsOf n
  let one (t : Nat) : List (Nat × List (Nat × Nat)) :=
    let rs := (ps.filter (fun p => p.1 == t)).map (·.2)
    if rs.isEmpty then [] else [(t, rs)]
  ((ps.filter (fun p => p.1 == 1 || p.1 == 2)).map (fun p => (p.1, [p.2]))) ++ one 0 ++ one 3

/-- A pool less than one eighth free (R269). -/
def State.poolShort (s : State) (p : Nat × List (Nat × Nat)) : Bool :=
  let size : Nat := (p.2.map (·.2)).sum
  let used : Nat := ((s.place.frames.filter (fun f => p.2.any (fun r => overlaps f.2.1 f.2.2 r.1 r.2))).map (fun f => f.2.2)).sum
  decide (8 * (size - used) < size)

/-- One tier down (R269). -/
def tierDown (remote : Bool) (t : Nat) : Option Nat :=
  match t with
  | 0 => some 1
  | 1 => some (if remote then 3 else 2)
  | 3 => some 2
  | _ => none

/-- The review of one page at the end of an epoch (R269). -/
def State.reviewPage (s : State) (n : NicheNum) (base : Nat) (p : PageInfo) : State :=
  let thresh := fld s.place.control 15 7
  let idle := if p.tally = 0 then p.idle + 1 else 0
  match s.placedLeaf n base with
  | some (_, _, e) =>
    let t := leafTier e
    let samples := (p.byRegion.map (·.2)).sum
    let best := p.byRegion.find? (fun r => decide (0 < samples) && decide (9 * samples ≤ 10 * r.2) && (s.granted n).contains r.1)
    let short := (s.poolGroups n).any (fun q => q.1 == t && s.poolShort q)
    if decide (thresh ≤ p.tally) && (t == 2 || t == 3) then s.startMove n base 1 none
    else
      match decide (thresh ≤ p.tally) && t == 1, best with
      | true, some r => s.startMove n base 0 (some (BitVec.ofNat 6 r.1))
      | _, _ =>
        if short && (decide (fld s.place.control 22 4 ≤ idle) || p.cold) then
          match tierDown (bit (s.niche n).nplControl 1) t with
          | some d => s.startMove n base d none
          | none => s
        else s
  | none => s

/-- EPOCH_END: every page's tally is reviewed and cleared; peers may be asked for frames again. -/
def execEpochEnd (s : State) : Host.Outcome State Fault Refusal :=
  .next (s.niches.foldl (fun s p =>
    let n : NicheNum := BitVec.ofNat 6 p.1
    p.2.pages.foldl (fun s g =>
      (s.reviewPage n g.1 g.2).updPage n g.1 (fun x =>
        { x with tally := 0, byRegion := [], idle := if x.tally = 0 then x.idle + 1 else 0 })) s)
    { s with place := { s.place with refused := [] } })

/-! ## Hints (R272, R273) -/

/-- A page's pinned mark, with the niche's pinned total. -/
def State.setPinned (s : State) (n : NicheNum) (l a : Nat) (e : W64) (on : Bool) : State :=
  let units := BitVec.ofNat 24 (pageSize l / 0x1_0000)
  if bit e 6 == on then s
  else (s.setLeaf a (setBit e 6 on)).updNiche n (fun x => { x with pinned := if on then x.pinned + units else x.pinned - units })

/-- A tier hint: the mark, and one move. -/
def State.tierHint (s : State) (n : NicheNum) (base tier : Nat) (seg : Option RegionNum) : State :=
  (s.updPage n base (fun p => { p with tierHint := some (BitVec.ofNat 2 tier) })).startMove n base tier seg

/-- The function of a hint at one page (table HINT functions). -/
def State.hintPage (s : State) (n : NicheNum) (fn va : Nat) (region : RegionNum) : State :=
  match s.placedLeaf n va with
  | none => s
  | some (l, a, e) =>
    let base := pageBase l va
    if bit e 10 && 4 ≤ fn then s
    else
      match fn with
      | 0 => s.updPage n base (fun p => { p with tally := p.tally + fld s.place.control 15 7 })
      | 1 | 3 => s.updPage n base (fun p => { p with cold := true })
      | 2 => (s.backPage n va).getD s
      | 4 => s.tierHint n base 0 none
      | 5 => s.tierHint n base 1 none
      | 6 => s.tierHint n base 2 none
      | 7 => s.tierHint n base 3 none
      | 8 =>
        let s := if bit e 11 then s else (s.backPage n va).getD s
        match s.placedLeaf n va with
        | some (l, a, e) => if bit e 11 || s.chooseFrame n base (pageSize l) = .ask || (s.fillOf n base).isSome then s.setPinned n l a e true else s
        | none => s
      | 9 => s.setPinned n l a e false
      | 10 => s.tierHint n base 0 (some region)
      | _ => s

/-- The first addresses of a hint's pages, every page that overlaps its range. -/
def State.hintVas (s : State) (n : NicheNum) (stop : Nat) : Nat → Nat → List Nat
  | 0, _ => []
  | fuel + 1, va =>
    if stop ≤ va ∨ 2 ^ 57 ≤ va then []
    else
      let size := match s.walk n va with | .leaf l _ _ => pageSize l | _ => 0x1_0000
      va :: s.hintVas n stop fuel (va / size * size + size)

/-- What a PIN of some pages would add to the niche's pinned total. -/
def State.pinUnits (s : State) (n : NicheNum) (vas : List Nat) : Nat :=
  (vas.map (fun va => match s.placedLeaf n va with
    | some (l, _, e) => if bit e 6 || bit e 10 then 0 else pageSize l / 0x1_0000
    | none => 0)).sum

/-- Whether an address has a translation: a leaf. -/
def Walk.isLeaf : Walk → Bool
  | .leaf _ _ _ => true
  | _ => false

/-- HINT_PROCESS: the oldest hint of the niche's queue is applied at each of its pages: not where its address has no translation
(R139), and not as a PIN beyond PIN_LIMIT, which is counted (R273). -/
def execHintProcess (n : NicheNum) (s : State) : Host.Outcome State Fault Refusal :=
  .next (match (s.niche n).hints with
    | [] => s
    | h :: hs =>
      let s := s.updNiche n (fun x => { x with hints := hs })
      let vas := s.hintVas n (h.va + h.len) (h.len / 0x1_0000 + 2) h.va
      if !(s.walk n h.va).isLeaf then s
      else if h.fn == 8 && decide (fld (s.niche n).nplControl 4 20 < (s.niche n).pinned.toNat + s.pinUnits n vas) then
        s.updNiche n (fun x => { x with pinRefused := satAdd x.pinRefused 1 })
      else vas.foldl (fun s va => s.hintPage n h.fn.toNat va h.region) s)

/-! ## Registers whose writes are commands (R276, R332) -/

/-- The offset of NPL_ROOT and the registers that follow it (R275). -/
def nplOff (n : NicheNum) (reg : Nat) : Nat := 0x380_1000 + n.toNat * 0x100 + reg * 8

/-- A write to NPL_ROOT (0), NPL_POOL0 to NPL_POOL3 (1 to 4) or NPL_CONTROL (5); refused while a context is resident. -/
def State.writeNpl (s : State) (n : NicheNum) (reg : Nat) (m v : W64) : State :=
  if 6 ≤ reg then s
  else if s.resident n then s.writeRefused (nplOff n reg) n v
  else
    s.updNiche n (fun x =>
      match reg with
      | 0 => { x with nplRoot := masked (m &&& (mask 0 1 ||| mask 12 50)) x.nplRoot v }
      | 5 => { x with nplControl := masked (m &&& mask 0 24) x.nplControl v }
      | k => { x with pools := Sparse.put x.pools (k - 1) (masked (m &&& mask 0 48) (Sparse.getD x.pools (k - 1) 0) v) })

/-- NPL_CONFIG_WRITE by firmware or the supervisor (R275, R276). -/
def execNplConfigWrite (a : Actor) (n : NicheNum) (reg : BitVec 3) (v : W64) (s : State) : Host.Outcome State Fault Refusal :=
  .next (if isFwOrSup a then s.writeNpl n reg.toNat (BitVec.allOnes 64) v else s)

/-- The offset of NSEM_STATE k of a niche (12_atomics_and_sync.md). -/
def nsemOff (n : NicheNum) (k : Nat) : Nat := 0x340_0000 + n.toNat * 0x8000 + k * 8

/-- A write of NSEM_STATE: OVERFLOW is cleared by firmware or the supervisor; COUNT is the supervisor's, while no context of
the niche is resident (R332). -/
def State.writeNsem (s : State) (a : Actor) (n : NicheNum) (k : Nat) (m v : W64) : State :=
  let s := if isFwOrSup a && bit (m &&& v) 44 then s.updNsem n k (fun x => { x with overflow := false }) else s
  if isSup a && m &&& mask 0 32 != 0 then
    if s.resident n then s.writeRefused (nsemOff n k) n v
    else s.updNsem n k (fun x => { x with count := (masked (m &&& mask 0 32) (BitVec.ofNat 64 x.count) v).toNat })
  else s

/-- NSEM_COUNT_WRITE (R332). -/
def execNsemCountWrite (a : Actor) (n : NicheNum) (k : BitVec 12) (v : W64) (s : State) : Host.Outcome State Fault Refusal :=
  .next (s.writeNsem a n k.toNat (BitVec.allOnes 64) v)

end Sys2Proof.Machine
end

