-- ==== Sys2Proof/Machine/Niches.lean ====
section
/-! DEFINITION. Niches and contexts: placing, slices, pre-emption, save and restore, holder resumption, the grant-clear,
the interference index, and the registers whose writes are commands (R391 to R415). -/

namespace Sys2Proof.Machine

/-! ## Context states (table Context states, R400) -/

/-- NICHE_STATUS.PROFILE_BAD: a niche in the Jexlor profile must have exactly one region (R414). -/
def State.profileBad (s : State) (n : NicheNum) : Bool := bit (s.niche n).control 1 && (s.granted n).length != 1

/-- Whether contexts of a niche run: ENABLE, and the profile rule. -/
def State.nicheRuns (s : State) (n : NicheNum) : Bool := bit (s.niche n).control 0 && !s.profileBad n

/-- Whether a launch of a niche is in flight. -/
def State.inFlight (s : State) (n : NicheNum) (p : BitVec 4 → Bool) : Bool :=
  s.fe.launches.any (fun l => l.2.niche == n && p l.2.ctx && l.2.ended.isNone)

/-- Whether a context has an image saved for a region. -/
def State.hasImage (s : State) (n : NicheNum) (c : BitVec 4) (p : RegionNum → Bool) : Bool :=
  s.saved.any (fun x => x.niche == n && x.ctx == c && p x.region)

/-- Whether a context holds a region. -/
def State.holdsAny (s : State) (n : NicheNum) (c : BitVec 4) : Bool := s.regions.any (fun r => r.2.holder == some (n, c))

/-- The state of a context that is not FAULTED follows from the regions it holds and the images it has. -/
def State.setCtxState (s : State) (n : NicheNum) (c : BitVec 4) : State :=
  let v : BitVec 2 := if s.holdsAny n c then 1 else if s.hasImage n c (fun _ => true) then 2 else 0
  s.updCtx n c (fun x => if x.state == 3 then x else { x with state := v })

/-- KIND of a queue. -/
def Queue.kind (q : Queue) : Nat := fld q.config 0 2

/-- Whether an enabled command queue of a context has an entry that has not started. -/
def State.unstarted (s : State) (n : NicheNum) (c : BitVec 4) : Bool :=
  s.fe.queues.any (fun p => bit p.2.base 0 && p.2.kind != 2 && p.2.niche == n && p.2.ctx == c && p.2.next != p.2.tail)

/-- The HOLDER record of R408, stamped from the plinth copy. -/
def State.friezeHolder (s : State) (r : RegionNum) (n : NicheNum) (h w : BitVec 4) (k : BitVec 12) (isEnd slice : Bool) : State :=
  s.frieze1 r 0x31 0 0 0 s.tl.now
    (pack [(0, 6, n.toNat), (6, 4, h.toNat), (10, 4, w.toNat), (14, 12, k.toNat), (26, 1, isEnd.toNat), (27, 1, slice.toNat)])

/-- A holder resumption on a region ends: its record, and the waiting context is next there (R408). -/
def State.endResumption (s : State) (r : RegionNum) (n : NicheNum) (slice : Bool) : State :=
  match (s.region r).resumption with
  | some (h, w, k) => (s.friezeHolder r n h w k true slice).updRegion r (fun x => { x with resumption := none, first := some w })
  | none => s

/-- A region becomes free. -/
def State.freeRegion (s : State) (r : RegionNum) : State :=
  match (s.region r).holder with
  | some (n, c) =>
    let s := match (s.region r).resumption with | some (h, _, _) => if h = c then s.endResumption r n false else s | none => s
    s.updRegion r (fun x => { x with holder := none, preempting := false, restoring := none, lastCtx := c })
  | none => s

/-- The regions that a context holds. -/
def State.regionsOf (s : State) (n : NicheNum) (c : BitVec 4) : List RegionNum :=
  (s.regions.filter (fun r => r.2.holder == some (n, c))).map (fun r => BitVec.ofNat 6 r.1)

/-- A context that has nothing left to do becomes EMPTY, its images discarded, its regions free (R400), and it holds no niche
semaphore any more (R409). -/
def State.settleContext (s : State) (n : NicheNum) (c : BitVec 4) : State :=
  if (s.ctx n c).state == 3 || s.inFlight n (· == c) || s.unstarted n c then s
  else
    let s := (s.regionsOf n c).foldl (fun s r => s.freeRegion r) s
    let s := s.updNiche n (fun x => { x with nsems := x.nsems.mapVals (fun _ k => { k with takes := Sparse.del k.takes c.toNat }) })
    ({ s with saved := s.saved.filter (fun x => !(x.niche == n && x.ctx == c)) } : State).setCtxState n c

/-! ## Which context is next (R397 to R399) -/

/-- Whether a launch has an engine entry waiting for a region. -/
def Launch.wants (l : Launch) (r : RegionNum) : Bool :=
  l.ended.isNone && l.nodes.any (fun k => k.toWrite.any (fun w => match k.place[w.1]? with | some p => regionOf p.1 == r | none => false))

/-- Whether a context has an engine entry waiting for a region. -/
def State.wants (s : State) (n : NicheNum) (c : BitVec 4) (r : RegionNum) : Bool :=
  s.fe.launches.any (fun l => l.2.niche == n && l.2.ctx == c && l.2.wants r)

/-- Whether a context waits for a region: usable, not suspended, with an engine entry or a saved image for it. -/
def State.waits (s : State) (n : NicheNum) (c : BitVec 4) (r : RegionNum) : Bool :=
  let x := s.ctx n c
  bit x.control 0 && !bit x.control 3 && x.state != 3 && (s.region r).holder != some (n, c) &&
    (s.wants n c r || s.hasImage n c (· == r))

/-- The waiting contexts of a niche in the order of R399: after the one that last ran, wrapping. -/
def State.waiting (s : State) (n : NicheNum) (r : RegionNum) : List (BitVec 4) :=
  ((List.range 16).map (fun i => BitVec.ofNat 4 ((s.region r).lastCtx.toNat + 1 + i))).filter (fun c => s.waits n c r)

/-- The context that the device chooses for a region (R399, R408). -/
def State.nextContext (s : State) (n : NicheNum) (r : RegionNum) : Option (BitVec 4) :=
  let ws := s.waiting n r
  let prio (c : BitVec 4) : Nat := fld (s.ctx n c).control 1 2
  let best := ws.foldl (fun m c => max m (prio c)) 0
  match (s.region r).first with
  | some c => if ws.contains c then some c else ws.find? (fun c => prio c == best)
  | none => ws.find? (fun c => prio c == best)

/-! ## Placing (R397) -/

/-- Counters cleared as a context arrives (R520). -/
def Core.clearSelf (k : Core) (now cyc : W64) : Core := { k with self := [(0, now), (1, cyc)] }

/-- A core without a context: its physical parts stay (R397). -/
def Core.vacant (k : Core) (seed : Nat) : Core :=
  { k with se := {}, ve := {}, me := { seed := some seed }, de := {}, seQ := [], veQ := [], meQ := [], deQ := [], sems := [],
           loads := [], storesOut := [], dc := { k.dc with lines := [], wb := none, miss := none, arrived := none, flush := [] } }

/-- Nothing of an earlier context is under way on a region's cores (R401). -/
def Core.quiet (k : Core) : Bool :=
  k.se.buffer.isEmpty && k.ve.buffer.isEmpty && k.storesOut.isEmpty && k.loads.isEmpty && k.ve.xf.isEmpty && k.dc.miss.isNone &&
    k.dc.flush.isEmpty && k.me.runs.all (fun r => decide (r.chunk < r.chunks)) &&
    (match k.de.run with | some r => r.blocks.all (fun b => b.performed || decide (b.issued ≤ b.done)) | none => true)

/-- The core that an outstanding operation belongs to. -/
def RemoteUse.core : RemoteUse → Option CoreNum
  | .load c _ _ | .fill c _ | .fetch c _ | .atomic c _ _ _ | .store c _ _ _ _ _ _ _ | .writeback c _ _ _ | .block c _ _ _ _ | .listEntry c _ _ => some c
  | _ => none

/-- Whether every core of a region has reached its pre-emption point and drained (R401). -/
def State.regionQuiet (s : State) (r : RegionNum) : Bool :=
  s.cores.all (fun p => p.1 / 128 != r.toNat || p.2.quiet) &&
    s.tr.ops.all (fun o => match o.purpose.core with | some c => regionOf c != r | none => true)

/-- The cores of a region as a context is placed on it: registers, tiles and drawers unpredictable, semaphores and flags
zero, the data cache empty. -/
def State.vacate (s : State) (r : RegionNum) : State :=
  let (seed, s) := s.takeSeed
  let x := s.region r
  s.mapCores r (fun i k => (k.vacant (seed * 8192 + i)).clearSelf s.tl.now x.cycles)

/-- A region taken by a context. -/
def State.takeRegion (s : State) (r : RegionNum) (n : NicheNum) (c : BitVec 4) : State :=
  let s := s.updRegion r (fun x =>
    { x with holder := some (n, c), lastCtx := c, usedSinceClear := true, sliceStart := s.tl.now,
             first := if x.first == some c then none else x.first })
  (s.updCtx n c (fun x => { x with resumed := false })).setCtxState n c

/-- CONTEXT_PLACE: the chosen context, with no image for the region, takes it. -/
def execContextPlace (region : RegionNum) (n : NicheNum) (ctx : BitVec 4) (s : State) : Host.Outcome State Fault Refusal :=
  let x := s.region region
  .next (if x.running && x.holder.isNone && x.restoring.isNone && (s.granted n).contains region.toNat && s.nicheRuns n &&
      bit (s.niche n).clear 1 && s.nextContext n region == some ctx && !s.hasImage n ctx (· == region) && s.regionQuiet region then
    ((s.vacate region).scramble (drawerBase (coreAt region 0)) (128 * 0x2_0000)).takeRegion region n ctx
  else s)

/-! ## Pre-emption and the save image (R401 to R404) -/

/-- The pre-emption of a region begins: its engines stop at their points. -/
def State.preempt (s : State) (r : RegionNum) : State :=
  match (s.region r).holder with
  | some (n, c) =>
    if (s.region r).preempting then s
    else
      (s.updRegion r (fun x => { x with preempting := true, moveStart := s.tl.now })).updCtx n c
        (fun x => { x with preempts := satAdd x.preempts 1 })
  | none => s

/-- The CONTEXT record of the end of a save or a restore, stamped from the plinth copy. -/
def State.friezeContext (s : State) (r : RegionNum) (n : NicheNum) (c : BitVec 4) (restore abort : Bool) (since : W64) : State :=
  s.frieze1 r 0x32 0 0 0 s.tl.now
    (pack [(0, 6, n.toNat), (6, 4, c.toNat), (10, 1, restore.toNat), (11, 1, abort.toNat),
      (32, 32, min (s.tl.now - since).toNat (2 ^ 32 - 1))])

/-- The eight words of an engine entry (table Engine entry). -/
def EngineEntry.words (e : EngineEntry) : List W64 :=
  [pack [(0, 4, engNum e.kind), (16, 16, e.node), (32, 12, e.maquette.toNat), (44, 6, e.niche.toNat), (50, 1, e.bank.toNat), (51, 1, e.super.toNat)],
   e.word1, e.word2, e.word3, e.word4, e.word5, BitVec.ofNat 64 e.bankPa.toNat, e.window]

def wordBytes (ws : List W64) : List Byte := ws.flatMap (fun w => leBytes 8 w.toNat)

/-- An engine queue in the image: 16 entries of 64 bytes. -/
def queueBytes (q : List EngineEntry) : List Byte := fitBytes 1024 (q.flatMap (fun e => wordBytes e.words))

/-- An issue FIFO in the image: 8 commands of 16 bytes. -/
def fifoBytes (q : List FifoCmd) : List Byte := fitBytes 128 (q.flatMap (fun f => wordBytes [f.lo, f.hi]))

/-- Tile t in the image, in the X40 form of R151. -/
def tileBytes (m : Me) (t : Bool) : List Byte := (List.range 4096).flatMap (fun i => leBytes 8 (m.get t i).toNat)

/-- The hardware semaphores in the image. -/
def semBytes (k : Core) : List Byte :=
  (List.range 64).flatMap (fun i => leBytes 8 (pack [(0, 16, (k.sem i).count), (22, 1, (k.sem i).overflow.toNat)]).toNat)

/-- s0 to s63 in the image. -/
def sregBytes (e : Se) : List Byte := (List.range 64).flatMap (fun i => leBytes 8 (Sparse.getD e.sregs i 0).toNat)

/-- A core on which the context holds nothing is marked empty (R403). -/
def Core.idle (k : Core) : Bool :=
  k.se.entry.isNone && k.ve.entry.isNone && k.ve.groups.isEmpty && k.seQ.isEmpty && k.veQ.isEmpty && k.meQ.isEmpty && k.deQ.isEmpty &&
    k.me.fifo.isEmpty && k.de.fifo.isEmpty && k.me.runs.isEmpty && k.de.run.isNone && k.sems.all (fun x => x.2.count == 0)

/-- The start of the save image of a context for a region (R404). -/
def State.imageBase (s : State) (n : NicheNum) (c : BitVec 4) (r : RegionNum) : Nat :=
  fld (s.ctx n c).save 16 32 * 2 ^ 16 + ((s.granted n).filter (fun i => decide (i < r.toNat))).length * 0x250_0000

/-- The image of one core written at an address: what the table Core save image lays out, the rest firmware's own. -/
def State.writeImage (s : State) (a : Nat) (c : CoreNum) : State :=
  let k := s.core c
  let s := s.scramble (a + 0x2_0000) 0x2_A000
  let m := s.mem.copyFrom s.mem (drawerBase c) a 0x2_0000
  let m := m.store (a + 0x3_0000) (tileBytes k.me false)
  let m := m.store (a + 0x3_8000) (tileBytes k.me true)
  let m := m.store (a + 0x4_8000) (queueBytes k.seQ ++ queueBytes k.veQ ++ queueBytes k.meQ ++ queueBytes k.deQ)
  let m := m.store (a + 0x4_9A00) (semBytes k)
  let m := m.store (a + 0x4_9C00) (sregBytes k.se)
  let m := m.store (a + 0x4_9E00) (fifoBytes k.me.fifo ++ fifoBytes k.de.fifo)
  { s with mem := m.dropPoison (wordsOf (a + 0x2_0000) 0x2_A000) }

/-- What a core's state is after its waiters have left their queues (R326, R330): they wait again when it resumes, the ME loads its
shadow weights again, and the DE translates the rest of its blocks again (R343). -/
def Core.unqueue (k : Core) : Core :=
  { k with
    sems := k.sems.map (fun x => (x.1, { x.2 with queue := [] }))
    se := { k.se with semWait := false }
    ve := { k.ve with groups := k.ve.groups.map (fun p => (p.1, { p.2 with semWait := false })) }
    me := { k.me with fifo := k.me.fifo.map (fun f => { f with waiting := false }), runs := k.me.runs.map (fun r => { r with shadow := none }) }
    de := { k.de with fifo := k.de.fifo.map (fun f => { f with waiting := false })
                      run := k.de.run.map (fun r => { r with waiting := false, blocks := r.blocks.map (fun b => { b with stale := !b.performed }) }) } }

/-- SAVE_COMPLETE: every engine of the region at its point and drained, the caches are written back and invalidated, the
image is written, and the region is free. -/
def execSaveComplete (region : RegionNum) (s : State) : Host.Outcome State Fault Refusal :=
  let x := s.region region
  .next (match x.holder with
    | some (n, c) =>
      if !x.preempting || !s.regionQuiet region then s
      else
        let mine := (s.cores.filter (fun p => p.1 / 128 == region.toNat)).map (fun p => (BitVec.ofNat 13 p.1 : CoreNum))
        let s := mine.foldl (fun s i => s.cleanLines i .flush (fun _ => true)) s
        if mine.any (fun i => !s.cleaned i .flush (fun _ => true)) then s
        else
        let s := mine.foldl (fun s i => s.dropWaiters (some n) i (fun _ => true)) s
        let s := s.mapCores region (fun _ k => k.unqueue)
        let base := s.imageBase n c region
        let busy := mine.filter (fun i => !(s.core i).idle)
        let s := busy.foldl (fun s i => s.writeImage (base + (indexOf i).toNat * 0x4_A000) i) s
        let image : SavedCtx := { niche := n, ctx := c, region := region, tick := s.tl.now
                                  cores := busy.map (fun i => ((indexOf i).toNat, s.core i)) }
        let s := ({ s with saved := s.saved ++ [image] } : State).vacate region
        let s := ((s.freeRegion region).setCtxState n c).serveNiche n
        s.friezeContext region n c false false x.moveStart
    | none => s)

/-! ## Restore (R399, R403) -/

/-- RESTORE: the chosen context, with an image for the region, takes it; its engines stop until the image is read. -/
def execRestore (region : RegionNum) (s : State) : Host.Outcome State Fault Refusal :=
  let x := s.region region
  .next (match s.grantee region with
    | some n =>
      match s.nextContext n region with
      | some c =>
        if x.running && x.holder.isNone && x.restoring.isNone && s.nicheRuns n && bit (s.niche n).clear 1 &&
            s.hasImage n c (· == region) && s.regionQuiet region then
          (s.takeRegion region n c).updRegion region (fun x => { x with restoring := some (n, c), moveStart := s.tl.now })
        else s
      | none => s
    | none => s)

/-- The lowest poisoned word of a core image outside the drawer part, whose poison is carried. -/
def imagePoison (m : Memory) (a : Nat) : Option Nat := m.poison.find? (fun w => within w 8 (a + 0x2_0000) 0x2_A000)

/-- Tile values as an image holds them. -/
def tileFrom (m : Memory) (a : Nat) : Sparse X40 := (List.range 4096).map (fun i => (i, BitVec.ofNat 40 (m.le (a + 8 * i) 5)))

/-- A core with the state read back from its image; times and anchors move on by the ticks it was away (R122, R350). -/
def State.readImage (s : State) (a : Nat) (c : CoreNum) (k : Core) (away : W64) : State :=
  let cyc := s.cyclesOf c
  let m := s.mem
  let sregs : Sparse W64 := ((List.range 63).map (fun i => (i + 1, BitVec.ofNat 64 (m.le (a + 0x4_9C00 + 8 * (i + 1)) 8)))).filter (fun p => p.2 != 0)
  let off := (s.region (regionOf c)).state != 0
  let move (r : DeRun) : DeRun := { r with anchor := r.anchor + ceilDiv away.toNat 1024, leftRun := r.leftRun || off }
  let s := { s with mem := m.copyFrom m a (drawerBase c) 0x2_0000 }
  s.updCore c (fun p =>
    let k := k.shiftBarriers away
    { p with
      se := { k.se with sregs := sregs }
      ve := { k.ve with groups := k.ve.groups.map (fun g => (g.1, { g.2 with barCyc := g.2.barCyc.map (fun _ => cyc) })) }
      me := { k.me with t0 := tileFrom m (a + 0x3_0000), t1 := tileFrom m (a + 0x3_8000), runs := k.me.runs.map (fun r => { r with since := cyc }) }
      de := { k.de with run := k.de.run.map move }
      seQ := k.seQ, veQ := k.veQ, meQ := k.meQ, deQ := k.deQ, sems := k.sems })

/-- RESTORE_COMPLETE: the image is read back and the engines go on, or its first poisoned word makes the context FAULTED. -/
def execRestoreComplete (region : RegionNum) (s : State) : Host.Outcome State Fault Refusal :=
  let x := s.region region
  .next (match x.restoring with
    | none => s
    | some (n, c) =>
      match s.saved.find? (fun y => y.niche == n && y.ctx == c && y.region == region) with
      | none => s
      | some y =>
        let base := s.imageBase n c region
        let s := y.cores.foldl (fun s p => s.inject (base + p.1 * 0x4_A000) 0x4_A000) s
        match y.cores.findSome? (fun p => imagePoison s.mem (base + p.1 * 0x4_A000)) with
        | some w =>
          let s := s.logError { cause := 0x2E, loc := 0, niche := some n, ctx := some c, addr := s.globalPa w, aspace := 1 }
          s.faultContext n c
        | none =>
          let s := ((s.vacate region).scramble (drawerBase (coreAt region 0)) (128 * 0x2_0000))
          let s := y.cores.foldl (fun s p => s.readImage (base + p.1 * 0x4_A000) (coreAt region p.1) p.2 (s.tl.now - y.tick)) s
          let s : State := { s with saved := s.saved.filter (fun z => !(z.niche == n && z.ctx == c && z.region == region)) }
          let s := s.updRegion region (fun x => { x with restoring := none, sliceStart := s.tl.now })
          (s.setCtxState n c).friezeContext region n c true false x.moveStart)

/-! ## Slices and holder resumption (R398, R408, R409) -/

/-- SLICE_US of a niche in ticks. -/
def State.sliceTicks (s : State) (n : NicheNum) : Nat := fld (s.niche n).control 16 16 * 1000

/-- Whether the slice on a region has passed. -/
def State.sliceOver (s : State) (r : RegionNum) (n : NicheNum) : Bool :=
  s.sliceTicks n != 0 && decide (s.sliceTicks n ≤ (s.tl.now - (s.region r).sliceStart).toNat)

/-- The lowest region on which a context has an image. -/
def State.lowestImage (s : State) (n : NicheNum) (c : BitVec 4) : Option Nat :=
  (List.range 64).find? (fun r => s.hasImage n c (fun q => q.toNat == r))

/-- The holder resumption that is due on a region: the holder, and the niche semaphore (R408, R409). -/
def State.resumptionDue (s : State) (r : RegionNum) (n : NicheNum) (w : BitVec 4) : Option (BitVec 4 × Nat) :=
  if (s.ctx n w).resumed || (s.region r).resumption.isSome then none
  else
    (s.niche n).nsems.findSome? (fun p =>
      (p.2.takes.find? (fun h =>
        let c := BitVec.ofNat 4 h.1
        p.2.heldBy h.1 && (s.ctx n c).state == 2 && s.lowestImage n c == some r.toNat && !bit (s.ctx n c).control 3 &&
          p.2.queue.any (fun q => (s.owner q.core) == some (n, w)))).map (fun h => (BitVec.ofNat 4 h.1, p.1)))

/-- SLICE_END: a holder resumption that is due or over comes first; else the slice ends and another waiting context takes
the region, or the slice restarts. -/
def execSliceEnd (region : RegionNum) (s : State) : Host.Outcome State Fault Refusal :=
  let x := s.region region
  .next (match x.holder with
    | none => s
    | some (n, c) =>
      if x.preempting || x.restoring.isSome then s
      else
        match x.resumption with
        | some (h, _, k) =>
          let signalled := (Sparse.find ((s.niche n).nsem k.toNat).takes h.toNat).isNone
          if h = c && (signalled || s.sliceOver region n) then (s.endResumption region n (!signalled)).preempt region else s
        | none =>
          match s.resumptionDue region n c with
          | some (h, k) =>
            let s := s.updCtx n c (fun y => { y with resumed := true })
            let s := s.updRegion region (fun y => { y with resumption := some (h, c, BitVec.ofNat 12 k), first := some h })
            (s.friezeHolder region n h c (BitVec.ofNat 12 k) false false).preempt region
          | none =>
            if !s.sliceOver region n then s
            else if (s.waiting n region).isEmpty then
              (s.updRegion region (fun y => { y with sliceStart := s.tl.now })).updCtx n c (fun y => { y with resumed := false })
            else s.preempt region)

/-! ## Registers of contexts (R393, R395, R400, R415) -/

/-- Whether a grant-clear of the niche is in progress (R395). -/
def State.clearing (s : State) (n : NicheNum) : Bool := !bit (s.niche n).clear 1

/-- Whether every context of a niche is EMPTY. -/
def State.allEmpty (s : State) (n : NicheNum) : Bool := (s.niche n).ctxs.all (fun c => c.2.state == 0)

/-- The offset of a register of a niche's block from the start of the control and status space. -/
def nicheOff (n : NicheNum) (reg : Nat) : Nat := 0x300_0000 + n.toNat * 0x1000 + reg

/-- A write to NCTX_CONTROL: VALID only while the context is EMPTY; a SUSPEND of 1 pre-empts it on every region it holds. -/
def State.writeCtxControl (s : State) (n : NicheNum) (c : BitVec 4) (m v : W64) : State :=
  if s.clearing n then s
  else
    let x := s.ctx n c
    let m := m &&& (if x.state == 0 then 0xF else 0xE)
    let s := s.updCtx n c (fun x => { x with control := masked m x.control v })
    if bit (s.ctx n c).control 3 then (s.regionsOf n c).foldl (fun s r => s.preempt r) s else s

/-- A write to NCTX_SAVE, only while the context is EMPTY; refused where the area would meet the firmware region (R537). -/
def State.writeCtxSave (s : State) (n : NicheNum) (c : BitVec 4) (m v : W64) : State :=
  let w := masked (m &&& mask 16 32) (s.ctx n c).save v
  if s.clearing n || (s.ctx n c).state != 0 then s
  else if inFirmware (fld w 16 32 * 2 ^ 16) (0x250_0000 * max 1 (s.granted n).length) then
    s.writeRefused (nicheOff n (0x108 + c.toNat * 0x20)) n v
  else s.updCtx n c (fun x => { x with save := w })

/-- SUSPEND: the SUSPEND bit of a context set by firmware or the supervisor. -/
def execSuspend (a : Actor) (n : NicheNum) (ctx : BitVec 4) (s : State) : Host.Outcome State Fault Refusal :=
  .next (if isFwOrSup a then s.writeCtxControl n ctx 8 8 else s)

/-- A write to NICHE_GRANT (R391, R395): refused unless every context is EMPTY, no launch is in flight, and no other niche
holds a region of it. The niche's maquettes are cast again before their next launch (R367). -/
def State.writeGrant (s : State) (n : NicheNum) (m v : W64) : State :=
  if s.clearing n then s
  else
    let w := masked m (s.niche n).grant v
    let taken := s.niches.any (fun p => p.1 != n.toNat && (p.2.grant &&& w) != 0)
    if !s.allEmpty n || s.inFlight n (fun _ => true) || taken then s.writeRefused (nicheOff n 0) n v
    else
      let s := s.updNiche n (fun x => { x with grant := w })
      { s with fe := { s.fe with maqs := s.fe.maqs.map (fun p => if p.1 / 4096 = n.toNat then (p.1, { p.2 with recast := true }) else p) } }

/-- NICHE_GRANT_WRITE by firmware or the supervisor (R415). -/
def execNicheGrantWrite (a : Actor) (n : NicheNum) (v : W64) (s : State) : Host.Outcome State Fault Refusal :=
  .next (if isFwOrSup a then s.writeGrant n (BitVec.allOnes 64) v else s)

/-- A write to NICHE_CONTROL (R415): refused while a context is resident; ENABLE stays while a grant-clear runs (R395). -/
def State.writeNicheControl (s : State) (n : NicheNum) (m v : W64) : State :=
  if s.resident n then s.writeRefused (nicheOff n 8) n v
  else
    let m := if s.clearing n then m &&& ~~~1 else m
    s.updNiche n (fun x => { x with control := masked m x.control v })

/-- A write to QUEUE_CTX (R415): refused while a context of the queue's niche is resident. -/
def State.writeQueueCtx (s : State) (q : QueueNum) (m v : W64) : State :=
  let n := (s.queue q).niche
  if s.resident n then s.writeRefused (0x310_0000 + q.toNat * 8) n v
  else if s.clearing n then s
  else s.updQueue q (fun x => { x with ctx := BitVec.ofNat 4 (masked (m &&& 0xF) (BitVec.ofNat 64 x.ctx.toNat) v).toNat })

/-- NICHE_CONTROL_WRITE: NICHE_CONTROL of niche idx, or QUEUE_CTX of queue idx. -/
def execNicheControlWrite (a : Actor) (ofQueue : Bool) (idx : BitVec 12) (v : W64) (s : State) : Host.Outcome State Fault Refusal :=
  .next (if !isFwOrSup a then s
    else if ofQueue then s.writeQueueCtx idx (BitVec.allOnes 64) v
    else if idx.toNat < 64 then s.writeNicheControl (BitVec.ofNat 6 idx.toNat) (BitVec.allOnes 64) v
    else s)

/-! ## The grant-clear (R394 to R396) -/

/-- A write to NICHE_CLEAR: the selections, REFUSED cleared, and START accepted or refused (R395); a START that reads 1 already is no
other (R9). -/
def State.writeClear (s : State) (n : NicheNum) (m v : W64) : State :=
  let x := s.niche n
  let sel := masked (m &&& mask 2 3) x.clear v
  let sel := if bit (m &&& v) 5 then setBit sel 5 false else sel
  let s := s.updNiche n (fun x => { x with clear := sel })
  if !bit (m &&& v) 0 || s.clearing n then s
  else if x.ctxs.all (fun c => c.2.state == 0 || c.2.state == 2) && !s.resident n && !s.inFlight n (fun _ => true) then
    s.updNiche n (fun x => { x with clear := setFld sel 0 2 1, clearing := some (BitVec.ofNat 3 (fld sel 2 3)) })
  else s.updNiche n (fun x => { x with clear := setBit sel 5 true })

/-- GRANT_CLEAR by firmware or the supervisor. -/
def execGrantClear (a : Actor) (n : NicheNum) (v : W64) (s : State) : Host.Outcome State Fault Refusal :=
  .next (if isFwOrSup a then s.writeClear n (BitVec.allOnes 64) v else s)

/-- REGIONS: the on-chip memories of every granted region (table Grant-clear). -/
def State.clearRegion (s : State) (r : RegionNum) : State :=
  let s := s.mapCores r (fun i k =>
    let dc : DCache := { lfsr := BitVec.ofNat 16 (i ||| 1), ready := k.dc.ready }
    let ic : ICache := { ready := k.ic.ready }
    { k.vacant 0 with me := {}, dc := dc, ic := ic, ceWait := [] })
  let m := (s.mem.zero (drawerBase (coreAt r 0)) (128 * 0x2_0000)).zero (shelfBase r) 0x1FC_0000
  ({ s with mem := m } : State).updRegion r (fun x =>
    { x with grants := [], spill := [], spillSeed := none, spillPoison := [], spillBad := [], usedSinceClear := false })

/-- POOLS: every pool zeroed, and the zeros for every leased frame sent over Trestle. -/
def State.clearPools (s : State) (n : NicheNum) : State :=
  let s := (List.range 4).foldl (fun s k =>
    match s.pool n k with
    | some (_, base, len) => { s with mem := s.mem.zero base len }
    | none => s) s
  let mine := s.tr.held.filter (fun h => h.1 == n)
  let s := mine.foldl (fun s h =>
    (List.range 512).foldl (fun s i =>
      s.sendBytes (BitVec.ofNat 14 (h.2 / 2 ^ 48)) (h.2 % 2 ^ 48 + 4096 * i) n 0 0 (List.replicate 4096 0) [] (.lease n)) s) s
  s.updNiche n (fun x => { x with zeroSent := !mine.isEmpty })

/-- The leases of a niche go back once their frames are zero (R396). -/
def State.returnAll (s : State) (n : NicheNum) : State :=
  let mine := s.tr.held.filter (fun h => h.1 == n)
  let s := mine.foldl (fun s h => s.request 7 (leasePacket (BitVec.ofNat 14 (h.2 / 2 ^ 48)) (h.2 % 2 ^ 48) n 2 1) (.lease n)) s
  let inMine (u : Nat) : Bool := mine.any (fun h => within u 0x1_0000 h.2 0x20_0000)
  { s with tr := { s.tr with held := s.tr.held.filter (fun h => h.1 != n) }
           place := { s.place with usedSlots := s.place.usedSlots.filter (fun u => !inMine u) } }

/-- The entries of a niche in every port booking table cleared. -/
def State.clearBookings (s : State) (n : NicheNum) : State :=
  let mine (e : W32) : Bool := bit e 0 && fld e 2 6 == n.toNat
  let t := s.tl.commit
  { s with tl := { t with portBook := t.portBook.filter (fun p => !mine p.2), bookNext := t.bookNext.filter (fun e => e.1 || !mine e.2.2.1) } }

/-- STATE: the niche-wide state (table Grant-clear). -/
def State.clearState (s : State) (n : NicheNum) : State :=
  let x := s.niche n
  let len := 0x250_0000 * (s.granted n).length
  let s := x.ctxs.foldl (fun s c => if bit c.2.control 0 then { s with mem := s.mem.zero (fld c.2.save 16 32 * 2 ^ 16) len } else s) s
  let s := s.updNiche n (fun x =>
    { x with nsems := [], fences := [], nplRoot := 0, pools := [], nplControl := 5, shoot := 2, shootCount := 0, shooting := none,
             pinned := 0, migrations := 0, pinRefused := 0, hints := [], pages := [], excWrite := 0, excRead := 0, interfLast := 0,
             interfAvg := 0, interfFrame := 0
             ctxs := x.ctxs.map (fun c => (c.1, { c.2 with state := 0 })) })
  let s := s.clearBookings n
  let s := s.mapPorts (fun _ p =>
    { p with credits := p.credits.filter (fun c => c.1 / 1024 != n.toNat || c.1 / 2 % 2 == 1), parked := p.parked.filter (fun k => k.2.niche != n || k.2.sys)
             shares := p.shares.filter (fun c => c / 256 != n.toNat) })
  let off (q : Queue) : Queue := if q.niche == n then { q with base := setBit q.base 0 false, entries := [], marks := [], halted := false, headOwed := false } else q
  { s with
    saved := s.saved.filter (fun y => y.niche != n)
    place := { s.place with frames := s.place.frames.filter (fun f => f.1 != n), migs := s.place.migs.filter (fun g => g.niche != n),
                             fills := s.place.fills.filter (fun g => g.niche != n), refused := s.place.refused.filter (· != n) }
    fe := { s.fe with queues := s.fe.queues.map (fun q => (q.1, off q.2)), maqs := s.fe.maqs.filter (fun m => m.1 / 4096 != n.toNat)
                      launches := s.fe.launches.filter (fun l => l.2.niche != n), reds := s.fe.reds.filter (fun r => r.niche != n) } }

/-- GRANT_CLEAR_DONE: the selected parts in their order, then DONE. Where frames are leased, the zeros are sent first, and the rest
follows their acknowledgement. -/
def execGrantClearDone (n : NicheNum) (s : State) : Host.Outcome State Fault Refusal :=
  .next (match (s.niche n).clearing with
    | none => s
    | some sel =>
      let first := !(s.niche n).zeroSent
      let s := if first && bit sel 0 then
          ((s.granted n).foldl (fun s r => s.clearRegion (BitVec.ofNat 6 r)) s).dropTranslations n 0 (2 ^ 57)
        else s
      let s := if first && bit sel 1 then s.clearPools n else s
      if (s.niche n).zeroSent && (first || s.tr.ops.any (fun o => o.purpose == .lease n)) then s
      else
        let s := if bit sel 1 then s.returnAll n else s
        let s := if bit sel 2 then s.clearState n else s
        s.updNiche n (fun x => { x with clear := setFld x.clear 0 2 2, clearing := none, zeroSent := false }))

/-! ## The interference index (R412) -/

/-- The index of one niche at the end of a frame: busy and blocked cycles summed over the agents. -/
def Niche.frameEnd (x : Niche) (busy blocked frame : Nat) : Niche :=
  let last := if busy = 0 then 0 else 65535 * blocked / busy
  let avg : Int := (x.interfAvg.toNat : Int) + Int.tdiv ((last : Int) - x.interfAvg.toNat) 16
  { x with interfLast := BitVec.ofNat 16 last, interfAvg := BitVec.ofInt 16 avg, interfFrame := BitVec.ofNat 32 frame }

/-- FRAME_END: every niche's LAST, AVG and FRAME. -/
def execFrameEnd (counts : List (NicheNum × Nat × Nat)) (s : State) : Host.Outcome State Fault Refusal :=
  .next ((List.range 64).foldl (fun s i =>
    let n : NicheNum := BitVec.ofNat 6 i
    let mine := counts.filter (fun c => c.1 == n)
    s.updNiche n (fun x => x.frameEnd (mine.map (·.2.1)).sum (mine.map (·.2.2)).sum (frameOf s.tl.now))) s)

end Sys2Proof.Machine
end

