-- ==== Sys2Proof/Machine/FrontEnd.lean ====
section
/-! DEFINITION. Command queues: rings, doorbells, the start of entries, their final status, fences, and the queue
registers (R356 to R363, R377 to R390). -/

namespace Sys2Proof.Machine

/-! ## Rings (R356, R362, R567) -/

/-- 2^SIZE_LOG2 of a queue. -/
def Queue.size (x : Queue) : Nat := 2 ^ fld x.config 2 5

/-- Bytes of a ring: its header and its entries. -/
def Queue.ringBytes (x : Queue) : Nat := 64 + 64 * x.size

/-- Entries between HEAD and TAIL that have not started; a TAIL rung back behind the read position leaves none (R357, R359). -/
def Queue.unstarted (x : Queue) : Nat := (x.tail - x.head).toNat - (x.next - x.head).toNat

/-- The address of entry seq in its ring's space. -/
def Queue.slotAt (x : Queue) (seq : W32) : Nat := fld x.base 6 56 * 64 + 64 + 64 * (seq.toNat % x.size)

/-- The interrupt message of a queue. -/
def Queue.msg (x : Queue) : Nat := fld x.config 13 12

/-- Where an address of a queue lies: `host` selects host memory for a supervisor queue. -/
def State.queueTgt (s : State) (q : QueueNum) (host : Bool) (a : Nat) (k : AccKind) : Tr × State :=
  let x := s.queue q
  if x.kind != 0 then s.translate none x.niche a k
  else if host then (.ok (.host (a % 2 ^ 52)) false, s)
  else if s.isLocal a then (.ok (.dev (a % 2 ^ 48)) false, s)
  else if !s.disc.idValid then (.fault 2, s)
  else (.ok (.remote (BitVec.ofNat 14 (a / 2 ^ 48)) (a % 2 ^ 48)) false, s)

/-- What a read for a queue gives. -/
inductive QRead where
  | bytes (bs : List Byte)
  /-- A missing translation, a forbidden access, a poisoned word or a dead device (R382). -/
  | fault
  | wait
  /-- The bytes lie on another device. -/
  | far (d : BitVec 14) (pa : Nat)
deriving DecidableEq, Repr

/-- A read for a queue of at most a page's rest; a poisoned word is logged under its memory cause. -/
def State.queueRead (s : State) (q : QueueNum) (host : Bool) (a n : Nat) : QRead × State :=
  match s.queueTgt q host a .load with
  | (.fault _, s) => (.fault, s)
  | (.wait, s) => (.wait, s)
  | (.ok (.dev pa) _, s) =>
    let held := s.linesHeld pa n false
    if !held.isEmpty then (.wait, s.recall held)
    else if !s.awake none pa then (.wait, s)
    else
      let ((bs, p), s) := s.homeRead pa n
      match p with
      | some w => (.fault, s.memError w true false false)
      | none => (.bytes bs, s)
  | (.ok (.host pa) _, s) =>
    let (bs, s) := s.hostRead pa n
    (.bytes bs, s)
  | (.ok (.remote d pa) _, s) => (if s.isDead d.toNat then .fault else .far d pa, s)

/-- A write for a queue. -/
def State.queueWrite (s : State) (q : QueueNum) (host : Bool) (a : Nat) (bs : List Byte) (use_ : RemoteUse) : PStore × State :=
  let x := s.queue q
  match s.queueTgt q host a .store with
  | (.fault code, s) => (.fault code, s)
  | (.wait, s) => (.wait, s)
  | (.ok t _, s) => s.storeTgt t bs x.niche x.ctx 0 use_

/-- A queue halts with RING_FAULT and its message is raised (R382). -/
def State.ringFault (s : State) (q : QueueNum) : State :=
  (s.updQueue q (fun x => { x with halted := true, haltStatus := 0x0E })).trigger (s.queue q).msg

/-- A discarded store toward a dead device (R304). -/
def State.queueLost (s : State) (n : NicheNum) (gpa : Nat) : State :=
  s.logError { cause := 0x2A, loc := 0, niche := some n, addr := gpa, aspace := 1 }

/-- HEAD written to the ring header; it stays owed while the write must wait (R360), and after a failed one where `again` says so
(R382, R389). -/
def State.putHead (s : State) (q : QueueNum) (again : Bool) : State :=
  let x := s.queue q
  let owe (s : State) (b : Bool) : State := s.updQueue q (fun x => { x with headOwed := b })
  match s.queueWrite q (bit x.base 1) (fld x.base 6 56 * 64) (leBytes 8 x.head.toNat) (.ring q) with
  | (.done, s) => owe s false
  | (.wait, s) => owe s true
  | (.dead gpa, s) => owe ((s.queueLost x.niche gpa).ringFault q) again
  | (.fault _, s) => owe (s.ringFault q) again

/-- A HEAD that is owed by a queue that is not halted written, once its write can go. -/
def State.payHead (s : State) (q : QueueNum) : State :=
  if (s.queue q).headOwed && !(s.queue q).halted then s.putHead q true else s

/-- What reading an entry gives: its eight words. -/
inductive EntryAt where
  | words (ws : List W64)
  | fault
  | wait
deriving DecidableEq, Repr

def wordsOfBytes (bs : List Byte) (n : Nat) : List W64 := (List.range n).map (recWord bs)

/-- Entry seq of a queue as the dispatcher reads it (R359, R382); one on another device is asked for. -/
def State.readSlot (s : State) (q : QueueNum) (seq : W32) : EntryAt × State :=
  let x := s.queue q
  match x.ahead.find? (fun e => e.1 == seq) with
  | some (_, some ws) => (.words ws, s)
  | some (_, none) => (.fault, s)
  | none =>
    match s.queueRead q (bit x.base 1) (x.slotAt seq) 64 with
    | (.bytes bs, s) => (.words (wordsOfBytes bs 8), s)
    | (.fault, s) => (.fault, s)
    | (.wait, s) => (.wait, s)
    | (.far d pa, s) =>
      if s.tr.ops.any (fun o => o.purpose == .entry q seq) then (.wait, s)
      else (.wait, s.request 0 (accessPacket d pa x.niche x.ctx 0 64 []) (.entry q seq))

/-! ## Queue states (FE_SQ_STATUS, R389, R390) -/

/-- OPCODE of an entry. -/
def QEntry.op (e : QEntry) : Nat := fld (e.words.getD 0 0) 0 8

/-- A word of an entry. -/
def QEntry.w (e : QEntry) (i : Nat) : W64 := e.words.getD i 0

/-- The entry waits on a fence. -/
def QEntry.onFence (e : QEntry) : Bool := e.op == 5 && e.outcome.isNone

/-- The entry is a FENCE_WAIT that is not final, after which no entry starts (R361). -/
def QEntry.bars (e : QEntry) : Bool := e.op == 5 && !e.isFinal

/-- STATE: 0 DISABLED, 1 IDLE, 2 ACTIVE, 3 WAITING, 4 HALTED. -/
def Queue.state (x : Queue) : Nat :=
  let live := x.entries.any (fun e => !e.isFinal)
  if !bit x.base 0 then (if live then 2 else 0)
  else if x.halted then 4
  else if x.entries.any (·.onFence) then 3
  else if live || (x.kind != 2 && x.unstarted != 0) then 2
  else 1

/-! ## Fences (R385 to R387) -/

def Niche.fence (x : Niche) (f : Nat) : W64 := Sparse.getD x.fences f 0

/-- A FENCE_WAIT becomes final: its status, and the record of table Frieze events. -/
def State.endWait (s : State) (q : QueueNum) (e : QEntry) (status code src : Nat) : State :=
  let s := s.conclude q e.seq status 0
  match (s.granted (s.queue q).niche).head? with
  | some r => s.friezeWait (BitVec.ofNat 6 r) 3 0x13 0 0 0 (s.tl.now - e.since).toNat (q.toNat + src * 2 ^ 12 + code * 2 ^ 25)
  | none => s

/-- The started FENCE_WAIT entries of a niche's queues. -/
def State.fenceWaits (s : State) (n : NicheNum) : List (QueueNum × QEntry) :=
  (s.fe.queues.filter (fun p => p.2.niche == n)).flatMap (fun p =>
    (p.2.entries.filter (·.onFence)).map (fun e => (BitVec.ofNat 12 p.1, e)))

/-- A fence raised to a value: it never decreases, and the waits it satisfies end (R385). `src` is the signalling queue, or
2^12 for a register write or a remote signal. -/
def State.setFence (s : State) (n : NicheNum) (f : Nat) (v : W64) (src : Nat) : State :=
  let now := (s.niche n).fence f
  let v := if now.toNat < v.toNat then v else now
  let s := s.updNiche n (fun x => { x with fences := Sparse.put x.fences f v })
  (s.fenceWaits n).foldl (fun s p =>
    if fld (p.2.w 3) 0 10 = f ∧ (p.2.w 4).toNat ≤ v.toNat then s.endWait p.1 p.2 1 1 src else s) s

/-! ## Aborts waiting on a target (R377, R379) -/

/-- Every ABORT that waits on a target ends with a status. -/
def State.endAborts (s : State) (q : QueueNum) (p : W32 → Bool) (status : Nat) : State :=
  s.fe.queues.foldl (fun s x =>
    x.2.entries.foldl (fun s e =>
      match e.target with
      | some (t, seq) => if t = q ∧ p seq = true ∧ e.outcome.isNone = true then s.conclude (BitVec.ofNat 12 x.1) e.seq status 0 else s
      | none => s) s) s

/-- The marked targets of a queue go without a status, and their ABORTs end with COMPLETE (R379). -/
def State.dropMarks (s : State) (q : QueueNum) : State :=
  let marks := (s.queue q).marks
  (s.updQueue q (fun x => { x with marks := [] })).endAborts q (fun seq => marks.contains seq) 1

/-! ## Doorbells (R357, R358, R384) -/

/-- Whether an actor may ring a queue. -/
def State.mayRing (s : State) (a : Actor) (q : QueueNum) : Bool :=
  match a with
  | .firmware | .supervisor => true
  | .job n => (s.queue q).niche == n
  | .placement => false

/-- A new tail, or DB_BAD; a feed queue signals FEED_SEM by the entries it adds. -/
def State.ring (s : State) (q : QueueNum) (tail : W32) : State :=
  let x := s.queue q
  let from_ := if x.kind == 2 then x.tail else x.head
  let d := (tail - from_).toNat
  if !bit x.base 0 || d == 0 || decide (x.size < d) then s.updQueue q (fun x => { x with dbBad := true })
  else
    let added := (tail - x.tail).toNat
    let s := s.updQueue q (fun x => { x with tail := tail, head := if x.kind == 2 then tail else x.head, next := if x.kind == 2 then tail else x.next })
    if x.kind == 2 then s.nsemSignal x.niche (fld x.config 25 12) added none else s

/-- DOORBELL. -/
def execDoorbell (a : Actor) (q : QueueNum) (tail : W32) (s : State) : Host.Outcome State Fault Refusal :=
  .next (if s.mayRing a q then s.ring q tail else s)

/-! ## Starting an entry (R359, R361, R362, R393) -/

/-- Bits that the arguments of an opcode may use, words 3 to 6 (table Entry arguments). -/
def argMasks (op : Nat) : List W64 :=
  match op with
  | 1 => [BitVec.allOnes 64, mask 0 32, BitVec.allOnes 64, mask 0 40]
  | 2 => [BitVec.allOnes 64, 0, 0, 0]
  | 3 => [BitVec.allOnes 64, mask 0 33, 0, 0]
  | 4 => [mask 0 12, mask 0 32, 0, 0]
  | 5 => [mask 0 10, BitVec.allOnes 64, 0, 0]
  | 6 => [mask 0 31, BitVec.allOnes 64, 0, 0]
  | _ => [0, 0, 0, 0]

/-- DETAIL of INVALID for a malformed entry: 3 opcode not allowed, 1 reserved bits, 2 bad argument; 0 when well formed. -/
def entryFault (kind : Nat) (e : QEntry) : Nat :=
  let w0 := e.w 0
  if 8 ≤ e.op ∨ (kind = 1 ∧ (e.op = 1 ∨ e.op = 7)) then 3
  else if fld w0 12 4 != 0 || fld w0 28 4 != 0 || (bit w0 8 && e.op != 2) ||
      (((argMasks e.op).zip [3, 4, 5, 6]).any (fun p => (e.w p.2 &&& ~~~p.1) != 0)) then 1
  else if (bit w0 10 && (e.w 1).toNat % 8 != 0) || (e.op == 1 && (e.w 3).toNat % 64 != 0) ||
      (e.op == 3 && (fld (e.w 4) 16 17 == 0 || decide (65536 < fld (e.w 4) 16 17) || decide (65536 < fld (e.w 4) 0 16 + fld (e.w 4) 16 17))) then 2
  else 0

/-- Whether the start condition of an opcode holds (table Command opcodes). -/
def State.canStart (s : State) (x : Queue) (op : Nat) (w0 : W64) : Bool :=
  let live := x.entries.filter (fun e => !e.isFinal)
  match op with
  | 1 | 6 | 7 => live.isEmpty
  | 2 => (!bit w0 8 || live.isEmpty) &&
      decide ((s.fe.launches.filter (fun l => l.2.niche == x.niche && l.2.maq == BitVec.ofNat 12 (fld w0 16 12) && l.2.ended.isNone)).length < 64)
  | 3 => live.all (fun e => e.op == 2)
  | _ => true

/-- The next entry of a queue started, when its opcode is one the row names and it can start; `run` performs it. -/
def State.startEntry (s : State) (q : QueueNum) (p : Nat → Bool) (run : State → QEntry → State) : State :=
  let x := s.queue q
  if !bit x.base 0 || x.halted || x.kind == 2 || x.unstarted == 0 || x.entries.any (·.bars) then s
  else
    match s.readSlot q x.next with
    | (.wait, s') => s'
    | (.fault, s') => s'.ringFault q
    | (.words ws, s') =>
      let e : QEntry := { seq := x.next, words := ws, since := s.tl.now }
      let marked := x.marks.contains x.next
      if !p e.op then s
      else if !(marked && (e.op == 2 || e.op == 5)) && !s.canStart x e.op (e.w 0) then s
      else
        let s := s'.updQueue q (fun y =>
          { y with next := y.next + 1, entries := y.entries ++ [e], marks := y.marks.filter (· != e.seq), ahead := y.ahead.filter (fun a => a.1 != e.seq) })
        if marked && (e.op == 2 || e.op == 5) then s.conclude q e.seq 2 0
        else
          let s := if marked then s.endAborts q (· == e.seq) 0x0B else s
          if !bit (s.ctx x.niche x.ctx).control 0 then s.conclude q e.seq 8 3
          else if entryFault x.kind e != 0 then s.conclude q e.seq 8 (entryFault x.kind e)
          else run s e

/-- NOP. -/
def execNop (q : QueueNum) (s : State) : Host.Outcome State Fault Refusal :=
  .next (s.startEntry q (· == 0) (fun s e => s.conclude q e.seq 1 0))

/-- RESERVED_OPCODE: INVALID, DETAIL 3. -/
def execReservedOpcode (q : QueueNum) (s : State) : Host.Outcome State Fault Refusal :=
  .next (s.startEntry q (fun op => decide (8 ≤ op)) (fun s e => s.conclude q e.seq 8 3))

/-- FENCE_WAIT: satisfied at once, or it waits. -/
def execFenceWait (q : QueueNum) (s : State) : Host.Outcome State Fault Refusal :=
  .next (s.startEntry q (· == 5) (fun s e =>
    if (e.w 4).toNat ≤ ((s.niche (s.queue q).niche).fence (fld (e.w 3) 0 10)).toNat then s.endWait q e 1 1 0 else s))

/-- FENCE_SIGNAL: a local fence at once; a remote one by a FENCE packet, which a dead device ends with FAULTED (R385, R445). -/
def execFenceSignal (q : QueueNum) (s : State) : Host.Outcome State Fault Refusal :=
  .next (s.startEntry q (· == 6) (fun s e =>
    let n := (s.queue q).niche
    let f := fld (e.w 3) 0 10
    if !bit (e.w 3) 24 then (s.setFence n f (e.w 4) q.toNat).conclude q e.seq 1 0
    else
      let d := fld (e.w 3) 10 14
      if s.isDead d then s.conclude q e.seq 0x0D 0
      else
        let k := { Packet.empty with dst := BitVec.ofNat 14 d, niche := n, channel := 2, sys := true
                                     addr := BitVec.ofNat 62 (fld (e.w 3) 25 6 + f * 2 ^ 6), arg := e.w 4 }
        s.request 6 k (.fenceSignal q e.seq)))

/-- The regions on whose cores a launch has anything. -/
def State.launchRegions (s : State) (l : Nat) : List RegionNum :=
  ((s.cores.filter (fun p => p.2.holds l)).map (fun p => regionOf (BitVec.ofNat 13 p.1))).eraseDups

/-- A launch ended by an ABORT (R378), with the CONTEXT record of each region on which it stops. -/
def State.abortLaunch (s : State) (l : Nat) : State :=
  let rs := s.launchRegions l
  match s.launch? l with
  | some x => rs.foldl (fun s r => s.friezeContext r x.niche x.ctx false true s.tl.now) (s.endLaunch l 2)
  | none => s

/-- ABORT (R377, R379). -/
def State.runAbort (s : State) (q : QueueNum) (e : QEntry) : State :=
  let t : QueueNum := BitVec.ofNat 12 (fld (e.w 3) 0 12)
  let seq : W32 := BitVec.ofNat 32 (fld (e.w 4) 0 32)
  let x := s.queue q
  let y := s.queue t
  let behind := (y.tail - seq).toNat
  let wait (s : State) : State := s.updEntry q e.seq (fun e => { e with target := some (t, seq) })
  if (x.kind == 1 && y.niche != x.niche) || behind == 0 || decide (2 ^ 31 < behind) then s.conclude q e.seq 0x0B 0
  else
    match y.entries.find? (fun g => g.seq == seq) with
    | some g =>
      if g.isFinal then s.conclude q e.seq 3 0
      else if g.op == 2 || g.op == 5 then
        match g.outcome with
        | some (st, _) => if st = 2 then wait s else s.conclude q e.seq 3 0
        | none =>
          let s := wait s
          match g.launch with
          | some l => s.abortLaunch l
          | none => s.endWait t g 2 2 0
      else s.conclude q e.seq 0x0B 0
    | none =>
      if (y.tail - y.next).toNat < behind then s.conclude q e.seq 3 0
      else if !bit y.base 0 then s.conclude q e.seq 1 0
      else (wait s).updQueue t (fun y => { y with marks := y.marks ++ [seq] })

/-- ABORT starts. -/
def execAbort (q : QueueNum) (s : State) : Host.Outcome State Fault Refusal :=
  .next (s.startEntry q (· == 4) (fun s e => s.runAbort q e))

/-! ## Final status (R380 to R382) -/

/-- The completion word of an entry (R380). -/
def QEntry.cw (e : QEntry) : W64 :=
  if bit (e.w 0) 11 then setFld (e.w 2) 0 48 (fld e.commit 0 48) else e.w 2

/-- Word 7 (table Command entry). -/
def QEntry.word7 (e : QEntry) : W64 :=
  match e.outcome with
  | some (st, d) => pack [(0, 8, st.toNat), (8, 1, e.cwLost.toNat), (9, 7, d.toNat), (16, 48, fld e.commit 0 48)]
  | none => 0

/-- The completion word leaves; false when its write must wait. -/
def State.sendCw (s : State) (q : QueueNum) (e : QEntry) : Bool × State :=
  if e.cwSent || !bit (e.w 0) 10 || e.outcome.map (·.1) != some 1 then (true, s)
  else
    let sent (s : State) (lost : Bool) : State := s.updEntry q e.seq (fun e => { e with cwSent := true, cwLost := e.cwLost || lost })
    let sup := (s.queue q).kind == 0
    match s.queueWrite q (sup && bit (e.w 1) 63) (if sup then fld (e.w 1) 0 62 else (e.w 1).toNat) (leBytes 8 e.cw.toNat) (.completion q e.seq) with
    | (.done, s) => (true, sent s false)
    | (.wait, s) => (false, s)
    | (.fault _, s) => (true, sent s true)
    | (.dead gpa, s) => (true, sent (s.queueLost (s.queue q).niche gpa) true)

/-- HEAD past the entries that have their final status (R360). -/
def Queue.advance (x : Queue) : Nat → Queue
  | 0 => x
  | fuel + 1 =>
    match x.entries.find? (fun e => e.seq == x.head && e.isFinal) with
    | some _ => Queue.advance { x with head := x.head + 1, entries := x.entries.filter (fun e => e.seq != x.head) } fuel
    | none => x

/-- The end of an entry whose outcome is decided and whose completion word is performed: word 7, HEAD, the message, the
ABORTs that waited on it. -/
def State.finishEntry (s : State) (q : QueueNum) (e : QEntry) (status : Nat) : State :=
  let x := s.queue q
  let (w, s) := s.queueWrite q (bit x.base 1) (x.slotAt e.seq + 56) (leBytes 8 e.word7.toNat) (.ring q)
  let bad : Bool := match w with | .fault _ | .dead _ => true | _ => false
  let s := match w with | .dead gpa => s.queueLost x.niche gpa | _ => s
  let s := s.updEntry q e.seq (fun e => { e with isFinal := true })
  let old := (s.queue q).head
  let s := s.updQueue q (fun x => x.advance (x.entries.length + 1))
  let s := if (s.queue q).head == old then s else s.putHead q false
  let s := if bit (e.w 0) 9 then s.trigger x.msg else s
  let s := if bad then s.ringFault q else s
  let s := s.endAborts q (· == e.seq) (if status = 2 then 1 else 3)
  let s := match e.launch with
    | some l => { s with fe := { s.fe with launches := Sparse.del s.fe.launches l } }
    | none => s
  s.settleContext x.niche x.ctx

/-- The state in which an entry's end waits, where the write of word 7, or of HEAD when it advances, must wait. -/
def State.endWaits (s : State) (q : QueueNum) (e : QEntry) : Option State :=
  let x := s.queue q
  match s.queueWrite q (bit x.base 1) (x.slotAt e.seq + 56) (leBytes 8 e.word7.toNat) (.ring q) with
  | (.wait, t) => some t
  | _ =>
    if e.seq != x.head then none
    else
      match s.queueWrite q (bit x.base 1) (fld x.base 6 56 * 64) (leBytes 8 x.head.toNat) (.ring q) with
      | (.wait, t) => some t
      | _ => none

/-- ENTRY_FINAL: a HEAD that is owed; then the completion word, then word 7, HEAD and the message. -/
def execEntryFinal (q : QueueNum) (seq : W32) (s : State) : Host.Outcome State Fault Refusal :=
  let s := s.payHead q
  .next (match (s.queue q).entries.find? (fun e => e.seq == seq) with
    | none => s
    | some e =>
      match e.outcome with
      | none => s
      | some (st, _) =>
        if e.isFinal then s
        else
          match s.sendCw q e with
          | (false, t) => t
          | (true, t) =>
            if t.tr.ops.any (fun o => o.purpose == .completion q seq) then t
            else
              match (t.queue q).entries.find? (fun e => e.seq == seq) with
              | none => t
              | some e =>
                match t.endWaits q e with
                | some t => t
                | none => t.finishEntry q e st.toNat)

/-! ## Fence cycles and timeouts (R386, R387) -/

/-- The unstarted entries of a queue read ahead, each once (R359); one whose read must wait is left. -/
def State.readRing (s : State) (q : QueueNum) : State :=
  let x := s.queue q
  (List.range x.unstarted).foldl (fun s i =>
    let seq := x.next + BitVec.ofNat 32 i
    if (s.queue q).ahead.any (fun a => a.1 == seq) then s
    else
      match s.readSlot q seq with
      | (.words ws, s) => s.updQueue q (fun x => { x with ahead := x.ahead ++ [(seq, some ws)] })
      | (.fault, s) => s.updQueue q (fun x => { x with ahead := x.ahead ++ [(seq, none)] })
      | (.wait, s) => s) s

/-- Local FENCE_SIGNAL entries that a queue holds between its HEAD and its tail, as read ahead: fence and value. -/
def Queue.signalsIn (x : Queue) : List (Nat × W64) :=
  x.ahead.filterMap (fun a =>
    match a.2 with
    | some ws =>
      let e : QEntry := { seq := a.1, words := ws }
      if e.op = 6 ∧ bit (e.w 3) 24 = false then some (fld (e.w 3) 0 10, e.w 4) else none
    | none => none)

/-- The queues that hold a signal for a wait. -/
def holders (sigs : List (QueueNum × List (Nat × W64))) (e : QEntry) : List QueueNum :=
  (sigs.filter (fun p => p.2.any (fun g => g.1 == fld (e.w 3) 0 10 && decide ((e.w 4).toNat ≤ g.2.toNat)))).map (·.1)

/-- The largest set of waits in which every satisfying signal lies in a queue of the set. -/
def cycleSet (sigs : List (QueueNum × List (Nat × W64))) : Nat → List (QueueNum × QEntry) → List (QueueNum × QEntry)
  | 0, ws => ws
  | fuel + 1, ws =>
    let keep := ws.filter (fun p =>
      let hs := holders sigs p.2
      !hs.isEmpty && hs.all (fun h => ws.any (fun w => w.1 == h)))
    if keep.length = ws.length then ws else cycleSet sigs fuel keep

/-- FENCE_CYCLE: the rings of the niche's queues are read; every wait of a cycle ends, its queue halts, and the niche's message is raised. -/
def execFenceCycle (n : NicheNum) (s : State) : Host.Outcome State Fault Refusal :=
  let qs := (s.fe.queues.filter (fun p => p.2.niche == n && bit p.2.base 0 && p.2.kind != 2)).map (fun p => (BitVec.ofNat 12 p.1 : QueueNum))
  let s := qs.foldl (fun s q => s.readRing q) s
  let waits := s.fenceWaits n
  let set := cycleSet (qs.map (fun q => (q, (s.queue q).signalsIn))) waits.length waits
  .next (if set.isEmpty then s
    else (set.foldl (fun s p => s.endWait p.1 p.2 6 3 0) s).trigger (fld (s.niche n).control 4 12))

/-- FENCE_TIMEOUT: a wait that has lasted the niche's fence timeout ends, and its queue halts. -/
def execFenceTimeout (q : QueueNum) (s : State) : Host.Outcome State Fault Refusal :=
  let x := s.queue q
  let ms := fld (s.niche x.niche).control 48 16
  .next (match x.entries.find? (·.onFence) with
    | some e => if ms ≠ 0 ∧ ms * 1000000 ≤ (s.tl.now - e.since).toNat then s.endWait q e 7 4 0 else s
    | none => s)

/-- A write to FE_FENCE: the larger of the fence and the value written. -/
def State.writeFence (s : State) (n : NicheNum) (f : Nat) (m v : W64) : State :=
  s.setFence n f (masked m ((s.niche n).fence f) v) (2 ^ 12)

/-- FE_FENCE_WRITE by firmware or the supervisor (R389). -/
def execFeFenceWrite (a : Actor) (n : NicheNum) (fence : BitVec 10) (v : W64) (s : State) : Host.Outcome State Fault Refusal :=
  .next (if isFwOrSup a then s.writeFence n fence.toNat (BitVec.allOnes 64) v else s)

/-! ## Queue registers (R363, R389, R390, R537) -/

/-- The offset of FE_SQ_BASE of a queue. -/
def queueOff (q : QueueNum) : Nat := 0x200_0000 + q.toNat * 0x20

/-- Whether a supervisor queue's ring in device memory would meet the firmware region (R537). -/
def ringInFirmware (x : Queue) : Bool :=
  x.kind == 0 && !bit x.base 1 && inFirmware (fld x.base 6 56 * 64 % 2 ^ 48) x.ringBytes

/-- A queue enabled: pointers zero, HEAD cleared in the ring header, halted where that write fails. -/
def State.enableQueue (s : State) (q : QueueNum) (base : W64) : State :=
  let s := s.updQueue q (fun x =>
    { x with base := base, head := 0, tail := 0, next := 0, halted := false, haltStatus := 0, entries := [], marks := [], ahead := [] })
  s.putHead q true

/-- A queue disabled: unstarted entries get no status (R390). -/
def State.disableQueue (s : State) (q : QueueNum) : State :=
  let x := s.queue q
  ((s.updQueue q (fun x => { x with base := setBit x.base 0 false, ahead := [] })).dropMarks q).settleContext x.niche x.ctx

/-- A write to FE_SQ_BASE. -/
def State.writeSqBase (s : State) (q : QueueNum) (m v : W64) : State :=
  let x := s.queue q
  let w := masked (m &&& (3 ||| mask 6 56)) x.base v
  if ringInFirmware { x with base := w } then s.writeRefused (queueOff q) x.niche v
  else if bit x.base 0 then (if bit w 0 then s else if w == setBit x.base 0 false then s.disableQueue q else s)
  else if x.state != 0 then s
  else if bit w 0 then s.enableQueue q w
  else s.updQueue q (fun x => { x with base := w })

/-- A write to FE_SQ_CONFIG, only while the queue reads DISABLED. -/
def State.writeSqConfig (s : State) (q : QueueNum) (m v : W64) : State :=
  let x := s.queue q
  let w := masked (m &&& mask 0 37) x.config v
  let w := if fld w 0 2 = 3 then setFld w 0 2 (fld x.config 0 2) else w
  let w := if fld w 2 5 < 4 ∨ 16 < fld w 2 5 then setFld w 2 5 (fld x.config 2 5) else w
  if bit x.base 0 || x.state != 0 then s
  else if ringInFirmware { x with config := w } then s.writeRefused (queueOff q + 8) x.niche v
  else s.updQueue q (fun x => { x with config := w })

/-- RESUME: a halted queue goes on, after a ring header's HEAD that is owed was written (R389). -/
def State.resumeQueue (s : State) (q : QueueNum) : State :=
  let x := s.queue q
  if !x.halted then s
  else
    let s := s.updQueue q (fun x => { x with halted := false, ahead := x.ahead.filter (fun a => a.2.isSome) })
    s.payHead q

/-- RESET: the read position and HEAD at TAIL; unstarted entries get no status. -/
def State.resetQueue (s : State) (q : QueueNum) : State :=
  let x := s.queue q
  let s := s.updQueue q (fun x => { x with halted := false, next := x.tail, head := x.tail, ahead := [], entries := x.entries.filter (fun e => !e.isFinal) })
  let s := s.dropMarks q
  let s := if x.head == x.tail || !bit x.base 0 then s else s.putHead q false
  s.settleContext x.niche x.ctx

/-- A write to FE_SQ_STATUS: DB_BAD cleared, RESUME, RESET. -/
def State.writeSqStatus (s : State) (q : QueueNum) (m v : W64) : State :=
  let w := m &&& v
  let s := if bit w 11 then s.updQueue q (fun x => { x with dbBad := false }) else s
  let s := if bit w 12 then s.resumeQueue q else s
  if bit w 13 then s.resetQueue q else s

/-- QUEUE_ENABLE: a write to FE_SQ_BASE with ENABLE 1. -/
def execQueueEnable (a : Actor) (q : QueueNum) (v : W64) (s : State) : Host.Outcome State Fault Refusal :=
  .next (if isFwOrSup a then s.writeSqBase q (BitVec.allOnes 64) (setBit v 0 true) else s)

/-- QUEUE_DISABLE: ENABLE written to 0. -/
def execQueueDisable (a : Actor) (q : QueueNum) (s : State) : Host.Outcome State Fault Refusal :=
  .next (if isFwOrSup a then s.writeSqBase q 1 0 else s)

/-- QUEUE_RESUME. -/
def execQueueResume (a : Actor) (q : QueueNum) (s : State) : Host.Outcome State Fault Refusal :=
  .next (if isFwOrSup a then s.writeSqStatus q (mask 12 1) (mask 12 1) else s)

/-- QUEUE_RESET. -/
def execQueueReset (a : Actor) (q : QueueNum) (s : State) : Host.Outcome State Fault Refusal :=
  .next (if isFwOrSup a then s.writeSqStatus q (mask 13 1) (mask 13 1) else s)

end Sys2Proof.Machine
end

