-- ==== Sys2Proof/Machine/Launches.lean ====
section
/-! DEFINITION. Maquettes and launches: INSTALL, REMOVE, PATCH, LAUNCH, the cast, the release of nodes, engine entries, the
completion of nodes and the commit (R233 to R238, R266, R349, R353, R364 to R376, R383). -/

namespace Sys2Proof.Machine

/-! ## Sources of entries (R366, R376) -/

/-- What gathering the source of an entry gives. -/
inductive Gather where
  | bytes (bs : List Byte)
  | fault
  | wait
  /-- Parts lie on other devices and have been asked for. -/
  | asked
deriving DecidableEq, Repr

/-- A read of a hole that is refused: the hole access is captured (R37). -/
def State.holeRead (s : State) (a : Nat) : State := if s.classOf a = .hole then s.hole a false else s

/-- The bytes of an entry's source, 4 KiB at a time. `strict` refuses addresses that are no memory (R366). -/
def State.gather (s : State) (q : QueueNum) (e : QEntry) (host : Bool) (a n : Nat) (strict : Bool) : Gather × State :=
  (cutRow a a n (n + 1) 0).foldl (fun (r : Gather × State) p =>
    match r with
    | (.fault, s) => (.fault, s)
    | (.wait, s) => (.wait, s)
    | (g, s) =>
      match e.got.find? (fun x => x.1 == p.1) with
      | some (_, bs, bad) =>
        if bad then (.fault, s) else (match g with | .bytes xs => .bytes (xs ++ bs) | x => x, s)
      | none =>
        let hole : Bool := strict && !host && s.isLocal (a + p.1) && !(s.classOf ((a + p.1) % 2 ^ 48)).isMemory
        if hole then (.fault, s.holeRead ((a + p.1) % 2 ^ 48))
        else
          match s.queueRead q host (a + p.1) p.2 with
          | (.bytes bs, s) => (match g with | .bytes xs => .bytes (xs ++ bs) | x => x, s)
          | (.fault, s) => (.fault, s)
          | (.wait, s) => (.wait, s)
          | (.far d pa, s) =>
            if s.tr.ops.any (fun o => o.purpose == .source q e.seq p.1) then (.asked, s)
            else (.asked, s.request 0 (accessPacket d pa (s.queue q).niche (s.queue q).ctx 0 p.2 []) (.source q e.seq p.1)))
    (.bytes [], s)

/-! ## Images (table Maquette image header, table Maquette image records) -/

/-- The 64-bit word of an image at an offset. -/
def imgWord (img : List Byte) (off : Nat) : W64 := BitVec.ofNat 64 (leNat ((img.drop off).take 8))

/-- Whether a table of n bytes at an offset lies outside the image. -/
def imgOut (img : List Byte) (off n : Nat) : Bool := n != 0 && decide (img.length < off + n)

/-- A node record read. -/
def imgNode (img : List Byte) (off : Nat) : NodeRec :=
  let w (i : Nat) : W64 := imgWord img (off + 8 * i)
  let cmd (o : Nat) : W64 × W64 := (imgWord img o, imgWord img (o + 8))
  { parts := BitVec.ofNat 4 (fld (w 0) 0 4)
    deps := (List.range (fld (w 0) 16 16)).map (fun i => imgWord img (fld (w 0) 32 32 + 8 * i))
    sePc := w 1, vePc := w 2, shape := w 3, ranks := fld (w 4) 0 24
    reduction := if fld (w 4) 24 16 = 0xFFFF then none else some (fld (w 4) 24 16)
    streamKib := BitVec.ofNat 8 (fld (w 4) 40 8)
    meCmd := cmd (fld (w 5) 0 32), deCmd := cmd (fld (w 5) 32 32), wcet := BitVec.ofNat 32 (fld (w 6) 0 32) }

/-- A reduction record read. -/
def imgRed (img : List Byte) (off : Nat) : RedRec :=
  let w (i : Nat) : W64 := imgWord img (off + 8 * i)
  { f := fld (w 0) 0 14 + 1, g := fld (w 0) 14 6 + 1, c := fld (w 0) 20 7 + 1, x80 := fld (w 0) 28 4 == 0xE, asked := bit (w 0) 27
    rows := fld (w 0) 32 7 + 1, cols := fld (w 0) 39 5 + 1, k := fld (w 1) 0 48, resultVa := fld (w 2) 0 57 }

/-- An object record read. -/
def imgObj (img : List Byte) (off : Nat) : ObjRec :=
  { va := (imgWord img off).toNat, bytes := (imgWord img (off + 8)).toNat, tier := BitVec.ofNat 2 (fld (imgWord img (off + 16)) 0 2)
    pin := bit (imgWord img (off + 16)) 2 }

/-- A cast-list record read. -/
def imgList (img : List Byte) (off : Nat) : ListRec :=
  { node := fld (imgWord img off) 0 16, count := fld (imgWord img off) 32 16, va := fld (imgWord img (off + 8)) 0 57 }

/-- TYPE of a dependence. -/
def depType (d : W64) : Nat := fld d 0 2

/-- NODE of an AFTER or PREVIOUS dependence. -/
def depNode (d : W64) : Nat := fld d 2 16

/-- Reserved bits of a node record and its dependences. -/
def nodeReserved (img : List Byte) (off : Nat) (k : NodeRec) : Bool :=
  let w (i : Nat) : W64 := imgWord img (off + 8 * i)
  fld (w 0) 4 12 != 0 || fld (w 3) 57 7 != 0 || fld (w 4) 48 16 != 0 || fld (w 6) 32 32 != 0 || w 7 != 0 ||
    k.deps.any (fun d => match depType d with
      | 1 => fld d 12 6 != 0 || fld d 34 30 != 0
      | 3 => false
      | _ => fld d 18 46 != 0)

/-- Reserved bits of a reduction record. -/
def redReserved (img : List Byte) (off : Nat) : Bool :=
  let w (i : Nat) : W64 := imgWord img (off + 8 * i)
  fld (w 0) 44 20 != 0 || fld (w 1) 48 16 != 0 || fld (w 2) 57 7 != 0 || [3, 4, 5, 6, 7].any (fun i => w i != 0)

/-- Ranks of a reduction record (R233). -/
def RedRec.ranks (r : RedRec) : Nat := r.f * r.g * r.c

/-- Whether R237 makes a reduction an X80 reduction. -/
def RedRec.wide (r : RedRec) : Bool := r.asked || decide (2 ^ 24 < ceilDiv r.k r.ranks)

/-- Whether a reduction record has a field outside its range (R366). -/
def redBad (img : List Byte) (off : Nat) (r : RedRec) : Bool :=
  let fmt := fld (imgWord img off) 28 4
  r.k == 0 || !(fmt == 0xD || fmt == 0xE) || r.x80 != r.wide || r.resultVa % (if r.x80 then 16 else 8) != 0

/-- Whether a node has a field outside its range. -/
def nodeBad (nodes reds : Nat) (k : NodeRec) : Bool :=
  k.ranks == 0 || (match k.reduction with | some r => decide (reds ≤ r) | none => false) ||
    k.deps.any (fun d => match depType d with
      | 1 => fld d 18 16 % 8 != 0
      | 3 => true
      | _ => decide (nodes ≤ depNode d))

/-- Nodes whose AFTER dependences are all among those already ordered; a cycle leaves nodes over (R366). -/
def orderable (nodes : List NodeRec) : Nat → List Nat → List Nat
  | 0, done => done
  | fuel + 1, done =>
    let more := (nodes.mapIdx (fun i k => (i, k))).filterMap (fun p =>
      if !done.contains p.1 && p.2.deps.all (fun d => depType d != 0 || done.contains (depNode d)) then some p.1 else none)
    if more.isEmpty then done else orderable nodes fuel (done ++ more)

/-- A checked image. -/
structure Image where
  nodes : List NodeRec
  reds : List RedRec
  objs : List ObjRec
  lists : List ListRec
  resident : Bool
  paramVa : W64
  bank : List Byte
deriving DecidableEq, Repr

/-- The checks of R15, R365, R366 and R383 on an image; the error is a status and its DETAIL. -/
def checkImage (img : List Byte) (areaBytes : Nat) : Except (Nat × Nat) Image :=
  let h (i : Nat) : W64 := imgWord img (8 * i)
  let nn := fld (h 0) 16 16 + 1
  let pb := fld (h 0) 32 32
  let nOff := fld (h 2) 0 32
  let pOff := fld (h 2) 32 32
  let oOff := fld (h 3) 0 32
  let oN := fld (h 3) 32 16
  let rOff := fld (h 4) 0 32
  let rN := fld (h 4) 32 16
  let lOff := fld (h 5) 0 32
  let lN := fld (h 5) 32 16
  if img.length < 64 then .error (8, 4)
  else if fld (h 0) 0 8 ≠ 3 then .error (9, 0)
  else if fld (h 0) 9 7 != 0 || fld (h 1) 0 16 != 0 || fld (h 1) 57 7 != 0 || fld (h 3) 48 16 != 0 || fld (h 4) 48 16 != 0 ||
      fld (h 5) 48 16 != 0 || h 6 != 0 || h 7 != 0 then .error (8, 1)
  else if areaBytes < 131072 + img.length + 256 * nn then .error (0xC, 0)
  else if 65536 < pb ∨ (bit (h 0) 8 = true ∧ nn ≠ 1) then .error (8, 2)
  else if imgOut img nOff (64 * nn) || imgOut img oOff (32 * oN) || imgOut img rOff (64 * rN) || imgOut img lOff (16 * lN) ||
      imgOut img pOff pb then .error (8, 4)
  else
    let offs := (List.range nn).map (fun i => nOff + 64 * i)
    let outside := offs.any (fun o =>
      let w (i : Nat) : W64 := imgWord img (o + 8 * i)
      imgOut img (fld (w 0) 32 32) (8 * fld (w 0) 16 16) || (bit (w 0) 2 && imgOut img (fld (w 5) 0 32) 16) ||
        (bit (w 0) 3 && imgOut img (fld (w 5) 32 32) 16))
    if outside then .error (8, 4)
    else
      let nodes := offs.map (imgNode img)
      let rOffs := (List.range rN).map (fun i => rOff + 64 * i)
      let reds := rOffs.map (imgRed img)
      let oOffs := (List.range oN).map (fun i => oOff + 32 * i)
      let lOffs := (List.range lN).map (fun i => lOff + 16 * i)
      let lists := lOffs.map (imgList img)
      if (offs.zip nodes).any (fun p => nodeReserved img p.1 p.2) || rOffs.any (redReserved img) ||
          oOffs.any (fun o => fld (imgWord img (o + 16)) 3 61 != 0 || imgWord img (o + 24) != 0) ||
          lOffs.any (fun o => fld (imgWord img o) 16 16 != 0 || fld (imgWord img o) 48 16 != 0 || fld (imgWord img (o + 8)) 57 7 != 0) then
        .error (8, 1)
      else if nodes.any (nodeBad nn rN) || (rOffs.zip reds).any (fun p => redBad img p.1 p.2) ||
          lists.any (fun l => decide (nn ≤ l.node) || l.count == 0 || l.va % 32 != 0) then .error (8, 2)
      else if (orderable nodes nn []).length ≠ nn then .error (8, 5)
      else
        .ok { nodes := nodes, reds := reds, objs := oOffs.map (imgObj img), lists := lists, resident := bit (h 0) 8
              paramVa := BitVec.ofNat 64 (fld (h 1) 16 41 * 2 ^ 16)
              bank := fitBytes 65536 ((img.drop pOff).take pb) }

/-! ## The cast (R266, R349, R353) -/

/-- Cores that may take a rank: of regions granted to the niche, not declared failed (R266). -/
def State.castCores (s : State) (n : NicheNum) : List Nat :=
  ((s.granted n).flatMap (fun r => (List.range 128).map (fun i => r * 128 + i))).filter (fun c => !(s.core (BitVec.ofNat 13 c)).failed)

/-- The cores of the ranks of every node: each an open choice among the cores that may take it (R266); none without one. -/
def State.castRanks (s : State) (n : NicheNum) (nodes : List NodeRec) : Option (List (List Nat) × State) :=
  let cs := s.castCores n
  if cs.isEmpty then none
  else
    some (nodes.foldl (fun (r : List (List Nat) × State) k =>
      let f := r.2.fresh
      (r.1 ++ [(List.range k.ranks).map (fun i => cs.getD (Config.freeNat (f + i) % cs.length) 0)], { r.2 with fresh := f + k.ranks })) ([], s))

/-- The worst-case latency in ticks of a home from the cores of a node (table Load latencies by tier; of their own drawers, table
Core latencies), and its niche bandwidth in hundredths of a byte per tick, 0 where R348 shares none (R349). -/
def State.homeCost (s : State) (cs : List Nat) (a : Nat) : Nat × Nat :=
  let all (p : Nat → Bool) : Bool := cs.all p
  match s.classOf a with
  | .hbm => (600, 2457600)
  | .bulk => (1200, 6400)
  | .shelf =>
    let r := (a - 0x2000_0000_0000) / 0x200_0000
    (if all (fun c => c / 128 == r) then 120 else 300, 87552)
  | .drawer =>
    let d := (drawerCore a).toNat
    (if all (· == d) then 17 else if all (fun c => c / 128 == d / 128) then 200 else 350, 0)
  | .csr => (800, 0)
  | .hole => (300, 0)

/-- Trestle hops toward a device (R430): 1 in table mode, where the device does not know the route. -/
def State.hopsTo (s : State) (d : Nat) : Nat :=
  let sizes := s.torus.2.1
  if bit s.tr.control 0 then 1
  else (((coords sizes s.myDevice).zip (coords sizes d)).zip sizes).foldl (fun n x =>
    n + min ((x.1.2 + x.2 - x.1.1) % x.2) ((x.1.1 + x.2 - x.1.2) % x.2)) 0

/-- The addresses at which an end of a block enters a 4 KiB piece of a row, and where they lie; a drawer offset has none. -/
def State.endTgts (s : State) (n : NicheNum) (e : BlockWords) (isSrc : Bool) : List Tgt :=
  let space := if isSrc then e.srcSpace else e.dstSpace
  if space == 1 || (isSrc && e.fill) then []
  else
    (e.ends isSrc).flatMap (fun row => match row with
      | none => []
      | some b => (cutRow b b e.len (e.len + 1) 0).filterMap (fun p =>
        let a := b + p.1
        if space == 0 then (match (s.translate none n a .touch).1 with | .ok t _ => some t | _ => none)
        else if s.isLocal a then some (.dev (a % 2 ^ 48)) else some (.remote (BitVec.ofNat 14 (a / 2 ^ 48)) (a % 2 ^ 48))))

/-- Body bytes of a block as it travels: requests of at most 4 KiB, row by row, each with its header (R343, text after the table
Packet header). -/
def BlockWords.bodyBytes (e : BlockWords) : Nat :=
  let one (b : Nat) : Nat := if b = 0 then 0 else 32 + 32 * ceilDiv b 32
  e.rows * (e.len / 4096 * one 4096 + one (e.len % 4096))

/-- A remote stream of a cast: a port, a job channel, and the direction in which its blocks travel, received or sent. -/
structure Stream where
  port : Nat
  channel : Byte
  recv : Bool
deriving DecidableEq, Repr

/-- The remote streams that a block travels in, with the hops of the farther one. -/
def State.blockStreams (s : State) (n : NicheNum) (e : BlockWords) : List Stream × Nat :=
  let ch : Byte := BitVec.ofNat 8 (fld e.w2 46 8)
  let far (isSrc : Bool) : List Nat :=
    ((s.endTgts n e isSrc).filterMap (fun t => match t with | .remote d _ => some d.toNat | _ => none)).eraseDups
  let on (isSrc : Bool) : List Stream :=
    (far isSrc).filterMap (fun d => (s.route d n ch false none).map (fun p => { port := p.1, channel := ch, recv := isSrc }))
  ((on true ++ on false).eraseDups, (far true ++ far false).foldl (fun h d => max h (s.hopsTo d)) 0)

/-- How the schedule times an entry of a cast list. -/
inductive EntryTime where
  /-- An end lies in host memory: DUE 0. -/
  | host
  /-- Timed by booked slots (R353): its streams, its hops. -/
  | remote (ss : List Stream) (hops : Nat)
  /-- The worst-case latency of its farthest home and the ticks that its bytes take at the smaller rate (R349). -/
  | home (lat bytesAt : Nat)
deriving DecidableEq, Repr

/-- How an entry is timed for a niche, on the cores of its node. -/
def State.entryTime (s : State) (n : NicheNum) (cs : List Nat) (e : BlockWords) : EntryTime :=
  let ts := s.endTgts n e true ++ s.endTgts n e false
  if ts.any (fun t => match t with | .host _ => true | _ => false) then .host
  else if ts.any (fun t => match t with | .remote _ _ => true | _ => false) then .remote (s.blockStreams n e).1 (s.blockStreams n e).2
  else
    let far := ts.foldl (fun (h : Nat × Nat) t => match t with
      | .dev a => if h.1 < (s.homeCost cs a).1 then s.homeCost cs a else h
      | _ => h) (17, 0)
    let bytes := e.len * e.rows
    let de := ceilDiv (bytes * 100) 3840
    let share := if far.2 = 0 then 0 else ceilDiv (bytes * 100 * 64 * max 1 cs.length) (far.2 * max 1 (s.granted n).length)
    .home far.1 (max de share)

/-- An entry of a cast list, and where it lies. -/
structure CastEntry where
  tgt : Tgt
  words : BlockWords
deriving DecidableEq, Repr

/-- What reading an entry of a cast list gives: none of an entry that cannot be read. -/
inductive ListRead where
  | entry (x : Option CastEntry)
  | wait
deriving DecidableEq, Repr

/-- An entry of a cast list read for its DUE; one on another device is asked for, under a key beside the source's offsets. -/
def State.readCastEntry (s : State) (q : QueueNum) (e : QEntry) (key va : Nat) : ListRead × State :=
  let x := s.queue q
  match s.translate none x.niche va .touch with
  | (.fault _, s) => (.entry none, s)
  | (.wait, s) => (.wait, s)
  | (.ok (.dev pa) _, s) =>
    let held := s.linesHeld pa 32 true
    if !held.isEmpty then (.wait, s.recall held)
    else if !s.awake none pa then (.wait, s)
    else
      let ((bs, p), s) := s.homeRead pa 32
      (.entry (if p.isSome then none else some ⟨.dev pa, blockWords bs⟩), s)
  | (.ok (.host pa) _, s) =>
    let (bs, s) := s.hostRead pa 32
    (.entry (some ⟨.host pa, blockWords bs⟩), s)
  | (.ok (.remote d pa) _, s) =>
    match e.got.find? (fun g => g.1 == key) with
    | some (_, bs, bad) => (.entry (if bad then none else some ⟨.remote d pa, blockWords bs⟩), s)
    | none =>
      if s.isDead d.toNat then (.entry none, s)
      else if s.tr.ops.any (fun o => o.purpose == .source q e.seq key) then (.wait, s)
      else (.wait, s.request 0 (accessPacket d pa x.niche x.ctx 0 32 []) (.source q e.seq key))

/-- The entries of the cast lists of an image, list by list, with the state after their reads; none while one must wait. -/
def State.readCastLists (s : State) (q : QueueNum) (e : QEntry) (lists : List ListRec) : Option (List (Nat × List CastEntry)) × State :=
  (lists.mapIdx (fun k l => (k, l))).foldl (fun (r : Option (List (Nat × List CastEntry)) × State) kl =>
    let (k, l) := kl
    let (es, s) := (List.range l.count).foldl (fun (r : Option (List CastEntry) × State) i =>
      match r.2.readCastEntry q e ((k + 1) * 2 ^ 40 + i) (l.va + 32 * i) with
      | (.entry x, s) => (r.1.map (· ++ x.toList), s)
      | (.wait, s) => (none, s)) (some [], r.2)
    (r.1.bind (fun ls => es.map (fun es => ls ++ [(l.node, es)])), s)) (some [], s)

/-- The entries of a list with the time that the worst-case schedule gives each, and DUE (R349): `d` the link's depth, `c` the
worst-case time of a use, both in `past`'s terms: r[i] of the items before, newest first. A remote entry's p is the end of its
due slot, from `slots`. -/
def dueOf (d c : Nat) (slots : Nat → Nat) : Nat → Nat → List Nat → List EntryTime → List Nat
  | _, _, _, [] => []
  | i, pPrev, past, t :: ts =>
    let start := if i < d then 0 else past.getD (d - 1) 0
    let (p, due) := match t with
      | .home lat x => let p := max (start + lat) pPrev + x; (p, max 1 (ceilDiv p 1024))
      | .remote _ _ => (slots i * 1024, slots i)
      | .host => (pPrev, 0)
    let b := match past with | [] => p | r :: _ => max p r
    due :: dueOf d c slots (i + 1) p ((b + c) :: past) ts

/-- Payload bytes of a booked slot of a port at its version (R353, table Trestle versions). -/
def State.slotBytes (s : State) (p : Nat) : Nat := if (s.port (BitVec.ofNat 6 p)).ver == 1 then 100800 else 201600

/-- Slots booked for a remote stream, free ones, which the placement unit chooses (R353); none when the table has no room. -/
def State.bookStream (s : State) (n : NicheNum) (x : Stream) (need : Nat) : Option (List Nat × State) :=
  let free := (List.range 1024).filter (fun i => !bit (s.tl.readBook false (x.port * 1024 + i)) 0)
  if free.length < need then none
  else
    let k := Config.freeNat s.fresh % (max 1 free.length)
    let pick := ((free.drop k) ++ (free.take k)).take need
    let e : W32 := BitVec.ofNat 32 (1 + n.toNat * 4 + x.channel.toNat * 256 + if x.recv then 0x1_0000 else 0)
    some (pick.foldl insNat [], pick.foldl (fun s i => s.bookBoth (BitVec.ofNat 6 x.port) i e) { s with fresh := s.fresh + 1 })

/-- The most slots that pass, from any start of a LIST, until m booked slots of a frame have begun after its first. -/
def slotsFor (booked : List Nat) (m : Nat) : Nat :=
  let k := booked.length
  (List.range k).foldl (fun w j =>
    max w ((booked.getD ((j + m) % k) 0) + 1024 * ((j + m) / k) - booked.getD j 0)) 0

/-- Body bytes that a stream of a list has carried with each of its entries. -/
def sentBy (x : Stream) (es : List (CastEntry × EntryTime)) : List Nat :=
  (es.foldl (fun (r : List Nat × Nat) e =>
    let u := match e.2 with | .remote ss _ => if ss.contains x then r.2 + e.1.words.bodyBytes else r.2 | _ => r.2
    (r.1 ++ [u], u)) ([], 0)).1

/-- DUE of every entry of one list (R349, R353): its streams' slots are booked, then its times follow; none when slots cannot be
booked. The depth of the link is the number of different destinations of its entries, and c the WCET of its node. -/
def State.castList (s : State) (n : NicheNum) (cs : List Nat) (wcet : Nat) (es : List CastEntry) : Option State :=
  let ts := es.map (fun x => (x, s.entryTime n cs x.words))
  let streams := (ts.flatMap (fun x => match x.2 with | .remote ss _ => ss | _ => [])).eraseDups
  let booked := streams.foldl (fun (o : Option (List (Stream × List Nat) × State)) x => o.bind (fun r =>
    (r.2.bookStream n x (ceilDiv ((sentBy x ts).getLastD 0) (s.slotBytes x.port))).map (fun p => (r.1 ++ [(x, p.1)], p.2)))) (some ([], s))
  booked.map (fun r =>
    let (slots, s) := r
    let after (i : Nat) : Nat :=
      match ts[i]? with
      | some (_, .remote ss hops) =>
        min 4095 (ss.foldl (fun w x =>
          let k := slots.foldl (fun b y => if y.1 == x then y.2 else b) []
          max w (slotsFor k (ceilDiv ((sentBy x ts).getD i 0) (s.slotBytes x.port)))) 0 + 1 + ceilDiv (2000 + 1000 * max 1 hops) 1024)
      | _ => 0
    let d := (es.map (fun x => x.words.w1)).eraseDups.length
    let dues := dueOf d (ceilDiv (wcet * 5) 3) after 0 0 [] (ts.map (·.2))
    (es.zip dues).foldl (fun s x =>
      let w := setFld x.1.words.w3 48 12 (min 4095 x.2)
      (s.storeTgt (x.1.tgt.plus 24) (leBytes 8 w.toNat) n 0 0 (.castList n)).2) s)

/-- Every cast list of an image; none when slots cannot be booked. -/
def State.castLists (s : State) (n : NicheNum) (nodes : List NodeRec) (cast : List (List Nat)) (lists : List (Nat × List CastEntry)) :
    Option State :=
  lists.foldl (fun (o : Option State) l =>
    o.bind (fun s => s.castList n (cast.getD l.1 []).eraseDups ((nodes[l.1]?.map (fun k => k.wcet.toNat)).getD 0) l.2)) (some s)

/-! ## INSTALL, REMOVE (R364 to R366) -/

/-- Whether a launch of a maquette is in flight. -/
def State.maqBusy (s : State) (n : NicheNum) (m : BitVec 12) : Bool :=
  s.fe.launches.any (fun l => l.2.niche == n && l.2.maq == m && l.2.ended.isNone)

/-- The number of a maquette that an entry names. -/
def QEntry.maq (e : QEntry) : BitVec 12 := BitVec.ofNat 12 (fld (e.w 0) 16 12)

/-- An object that asks for PIN pinned as a hint of its pages would be (R273). -/
def State.pinObject (s : State) (n : NicheNum) (o : ObjRec) : State :=
  let vas := s.hintVas n (o.va + o.bytes) (o.bytes / 0x1_0000 + 2) o.va
  if !o.pin then s
  else if fld (s.niche n).nplControl 4 20 < (s.niche n).pinned.toNat + s.pinUnits n vas then
    s.updNiche n (fun x => { x with pinRefused := satAdd x.pinRefused 1 })
  else vas.foldl (fun s va => s.hintPage n 8 va 0) s

/-- A checked image cast and installed: bank 0 current (R364), the image kept in AREA (R365), pinned objects pinned. -/
def State.installImage (s : State) (q : QueueNum) (e : QEntry) (bytes : List Byte) (img : Image) (lists : List (Nat × List CastEntry)) :
    State :=
  let n := (s.queue q).niche
  let area := (e.w 5).toNat
  match s.castRanks n img.nodes with
  | none => s.conclude q e.seq 0xA 3
  | some (cast, s') =>
    match s'.castLists n img.nodes cast lists with
    | none => s.conclude q e.seq 0xA 2
    | some s =>
      let m := (s.mem.zero area 0x1_0000).store area img.bank
      let s : State := { s with mem := m.store (area + 0x2_0000) bytes }
      let s := s.scramble (area + 0x2_0000 + bytes.length) (256 * img.nodes.length)
      let x : Maquette := { area := area, nodes := img.nodes, reds := img.reds, objs := img.objs, lists := img.lists
                            resident := img.resident, paramVa := img.paramVa, current := false, capt0 := 0, capt1 := 0
                            cast := cast, recast := false, lastLaunch := none }
      let s := s.setMaq n e.maq x
      let s := img.objs.foldl (fun s o => s.pinObject n o) s
      s.conclude q e.seq 1 0

/-- Event 0x01, VERSION_MISMATCH, of a maquette image of another version (R15). -/
def State.imageVersion (s : State) (q : QueueNum) (v : Nat) : State :=
  s.patinaEvent 0x01 0 (3 + 256 * (q.toNat % 256)) (3 + 256 * 3) (v + 256 * v)

/-- INSTALL with its source at hand or to be asked for; a source or a cast list that must wait leaves it where it is. -/
def State.runInstall (s : State) (q : QueueNum) (e : QEntry) : State :=
  let n := (s.queue q).niche
  let area := (e.w 5).toNat
  let areaBytes := fld (e.w 6) 0 40
  if area % 0x1_0000 ≠ 0 ∨ (s.tierOf area areaBytes).isNone = true ∨ inFirmware area areaBytes = true then s.conclude q e.seq 8 2
  else
    match s.gather q e false (e.w 3).toNat (fld (e.w 4) 0 32) true with
    | (.fault, s) => s.conclude q e.seq 8 7
    | (.wait, s) => s
    | (.asked, s) => s
    | (.bytes bs, s) =>
      match checkImage bs areaBytes with
      | .error (st, d) => (if st = 9 then s.imageVersion q (fld (imgWord bs 0) 0 8) else s).conclude q e.seq st d
      | .ok img =>
        if s.maqBusy n e.maq then s.conclude q e.seq 5 0
        else
          let held := s.linesHeld area (0x2_0000 + bs.length) true
          if !held.isEmpty then s.recall held
          else
            match s.readCastLists q e img.lists with
            | (none, s) => s
            | (some lists, s) => s.installImage q e bs img lists

/-- A started entry of an opcode whose source must wait, run again; else the next entry started. -/
def State.startOrResume (s : State) (q : QueueNum) (op : Nat) (run : State → QEntry → State) : State :=
  match (s.queue q).entries.find? (fun e => e.op == op && e.outcome.isNone) with
  | some e => run s e
  | none => s.startEntry q (· == op) run

/-- INSTALL starts, or goes on once what it waited for has come. -/
def execInstall (q : QueueNum) (s : State) : Host.Outcome State Fault Refusal :=
  .next (s.startOrResume q 1 (fun s e => s.runInstall q e))

/-- REMOVE: BUSY, NOT_FOUND, or the number freed. -/
def execRemove (q : QueueNum) (s : State) : Host.Outcome State Fault Refusal :=
  .next (s.startEntry q (· == 7) (fun s e =>
    let n := (s.queue q).niche
    if (s.maq? n e.maq).isNone then s.conclude q e.seq 0xB 0
    else if s.maqBusy n e.maq then s.conclude q e.seq 5 0
    else ({ s with fe := { s.fe with maqs := Sparse.del s.fe.maqs (maqKey n e.maq) } } : State).conclude q e.seq 1 0))

/-! ## PATCH (R376) -/

/-- The bank that a PATCH writes: free of captures, the one that is not current first; true is bank 1. -/
def Maquette.patchBank (m : Maquette) : Option Bool :=
  let free (b : Bool) : Bool := (if b then m.capt1 else m.capt0) == 0
  if free (!m.current) then some (!m.current) else if free m.current then some m.current else none

/-- The local address of a bank. -/
def Maquette.bankAt (m : Maquette) (b : Bool) : Nat := m.area + if b then 0x1_0000 else 0

/-- PATCH with its source at hand or to be asked for. -/
def State.runPatch (s : State) (q : QueueNum) (e : QEntry) : State :=
  let x := s.queue q
  match s.maq? x.niche e.maq with
  | none => s.conclude q e.seq 0xB 0
  | some m =>
    match m.patchBank with
    | none => s.conclude q e.seq 4 0
    | some b =>
      let host := x.kind == 0 && bit (e.w 3) 63
      match s.gather q e host (if host then fld (e.w 3) 0 62 else (e.w 3).toNat) (fld (e.w 4) 16 17) false with
      | (.fault, s) => s.conclude q e.seq 8 7
      | (.wait, s) => s
      | (.asked, s) => s
      | (.bytes bs, s) =>
        let held := (s.linesHeld (m.bankAt b) 0x1_0000 true ++ s.linesHeld (m.bankAt m.current) 0x1_0000 false).eraseDups
        if !held.isEmpty then s.recall held
        else
        let mem := if b = m.current then s.mem else s.mem.copyFrom s.mem (m.bankAt m.current) (m.bankAt b) 0x1_0000
        let s : State := { s with mem := mem.store (m.bankAt b + fld (e.w 4) 0 16) bs }
        (s.setMaq x.niche e.maq { m with current := b }).conclude q e.seq 1 0

/-- PATCH starts, or goes on once what it waited for has come. -/
def execPatch (q : QueueNum) (s : State) : Host.Outcome State Fault Refusal :=
  .next (s.startOrResume q 3 (fun s e => s.runPatch q e))

/-- The source of an INSTALL or a PATCH has come whole from other devices: the entry goes on. -/
def State.resumeSource (s : State) (q : QueueNum) (seq : W32) : State :=
  match (s.queue q).entries.find? (fun e => e.seq == seq) with
  | some e => if e.outcome.isSome then s else if e.op = 1 then s.runInstall q e else if e.op = 3 then s.runPatch q e else s
  | none => s

/-! ## LAUNCH (R367, R368, R383) -/

/-- The resident tasks of a niche. -/
def State.residents (s : State) (n : NicheNum) : Nat :=
  (s.fe.launches.filter (fun l => l.2.niche == n && l.2.ended.isNone &&
    (match s.maq? n l.2.maq with | some m => m.resident | none => false))).length

/-- The cast made again where the grant or a core changed (R367, R477); none when it cannot be made. -/
def State.recast (s : State) (n : NicheNum) (k : BitVec 12) (m : Maquette) : Option (Maquette × State) :=
  if !m.recast then some (m, s)
  else (s.castRanks n m.nodes).map (fun p => ({ m with cast := p.1, recast := false }, p.2.setMaq n k { m with cast := p.1, recast := false }))

/-- A launch starts: it captures the current bank. -/
def State.runLaunch (s : State) (q : QueueNum) (e : QEntry) : State :=
  let x := s.queue q
  match s.maq? x.niche e.maq with
  | none => s.conclude q e.seq 0xB 0
  | some m =>
    if m.resident && decide (1024 ≤ s.residents x.niche) then s.conclude q e.seq 0xC 0
    else
      match s.recast x.niche e.maq m with
      | none => s.conclude q e.seq 0xA 3
      | some (m, s) =>
        let l := s.fe.nextLaunch
        let nodes := m.nodes.map (fun _ => ({ phase := .waiting, toWrite := [], open_ := [] } : NodeRun))
        let k : Launch := { queue := q, seq := e.seq, niche := x.niche, ctx := x.ctx, maq := e.maq, bank := m.current, seed := e.w 3
                            super := x.kind == 0, prev := m.lastLaunch, nodes := nodes, ended := none }
        let m := if m.current then { m with capt1 := m.capt1 + 1 } else { m with capt0 := m.capt0 + 1 }
        let s := s.setMaq x.niche e.maq { m with lastLaunch := some l }
        let s : State := { s with fe := { s.fe with nextLaunch := l + 1, launches := Sparse.put s.fe.launches l k } }
        s.updEntry q e.seq (fun e => { e with launch := some l })

/-- LAUNCH starts. -/
def execLaunch (q : QueueNum) (s : State) : Host.Outcome State Fault Refusal :=
  .next (s.startEntry q (· == 2) (fun s e => s.runLaunch q e))

/-! ## The release of nodes (R369, R370, R373) -/

/-- Whether a dependence is satisfied; the poisoned word of a FENCE value otherwise. -/
inductive Dep where
  | yes
  | no
  | poison (pa : Nat)
deriving DecidableEq, Repr

/-- One dependence of a node of a launch (R369). -/
def State.depState (s : State) (x : Launch) (m : Maquette) (d : W64) : Dep :=
  match depType d with
  | 0 => match x.nodes[depNode d]? with | some k => if k.phase = .complete then .yes else .no | none => .no
  | 1 =>
    let pa := m.bankAt x.bank + fld d 18 16
    if s.mem.poisoned pa 8 then .poison pa
    else if (s.mem.word pa).toNat ≤ ((s.niche x.niche).fence (fld d 2 10)).toNat then .yes else .no
  | 2 =>
    match x.prev.bind s.launch? with
    | some p => match p.nodes[depNode d]? with
      | some k => if k.phase = .complete ∨ k.phase = .abandoned then .yes else .no
      | none => .yes
    | none => .yes
  | _ => .no

/-- All dependences of a node together: a poisoned one only where it is the first that does not hold. -/
def State.nodeDeps (s : State) (x : Launch) (m : Maquette) (i : Nat) : Dep :=
  match m.nodes[i]? with
  | some k => (k.deps.map (s.depState x m)).foldl (fun a d => match a with | .yes => d | y => y) .yes
  | none => .no

/-- The grants of a region that nobody holds. -/
def Region.freeGrants (x : Region) : List Nat := (List.range 4).filter (fun g => !(Sparse.getD x.grants g {}).valid)

/-- A rank placed for its X80 reduction: `need` grants of the region of its core, or of another granted region and a core
there (R237, R238); the core, the GRANTS word, the state. -/
def State.placeGrants (s : State) (x : Launch) (l node rank core need : Nat) (asked : Bool) : Option (CoreNum × Nat × State) :=
  let c0 : CoreNum := BitVec.ofNat 13 core
  let fits (r : Nat) : Bool := decide (need ≤ (s.region (BitVec.ofNat 6 r)).freeGrants.length)
  let at_ := if fits (regionOf c0).toNat then some c0
    else (s.granted x.niche).findSome? (fun r => if fits r then ((s.castCores x.niche).find? (fun c => c / 128 == r)).map (fun c => BitVec.ofNat 13 c) else none)
  match at_ with
  | none => none
  | some c =>
    let r := regionOf c
    let gs := (s.region r).freeGrants.take need
    let g : Grant := { valid := true, coreIndex := indexOf c, niche := x.niche, requested := asked, launch := l, node := node, rank := rank }
    let s := s.updRegion r (fun y => { y with grants := gs.foldl (fun m k => Sparse.put m k g) y.grants })
    some (c, (gs.mapIdx (fun k v => (1 + 2 * v) * 2 ^ (3 * k))).sum, s)

/-- Where the ranks of a node go: their cores and GRANTS; none while grants they need are not free. -/
def State.placeRanks (s : State) (x : Launch) (m : Maquette) (l node : Nat) (k : NodeRec) : Option (List (CoreNum × Nat) × State) :=
  let cores := m.cast.getD node []
  let red := k.reduction.bind (fun r => m.reds[r]?)
  let need : Nat := match red with | some r => if r.x80 then ceilDiv r.rows 32 else 0 | none => 0
  let asked := match red with | some r => r.asked | none => false
  (List.range k.ranks).foldl (fun (o : Option (List (CoreNum × Nat) × State)) rank =>
    o.bind (fun p =>
      let core := cores.getD rank 0
      if need = 0 then some (p.1 ++ [(BitVec.ofNat 13 core, 0)], p.2)
      else (p.2.placeGrants x l node rank core need asked).map (fun q => (p.1 ++ [(q.1, q.2.1)], q.2.2)))) (some ([], s))

/-- First block and number of blocks of a rank of a node (R373). -/
def blockShare (blocks ranks r : Nat) : Nat × Nat := (r * blocks / ranks, (r + 1) * blocks / ranks - r * blocks / ranks)

/-- BLOCKS of a node's shape. -/
def NodeRec.blocks (k : NodeRec) : Nat := fld k.shape 0 24 + 1

/-- The engine entries of a node: one for each rank and engine in PARTS, no VE entry for a rank without blocks. -/
def NodeRec.entries (k : NodeRec) : List (Nat × Eng) :=
  (List.range k.ranks).flatMap (fun r =>
    (if bit k.parts 0 then [(r, Eng.se)] else []) ++
    (if bit k.parts 1 && (blockShare k.blocks k.ranks r).2 != 0 then [(r, Eng.ve)] else []) ++
    (if bit k.parts 2 then [(r, Eng.me)] else []) ++ (if bit k.parts 3 then [(r, Eng.de)] else []))

/-- Whether a node of a launch can be released now. -/
def State.nodeReady (s : State) (l : Nat) (x : Launch) (i : Nat) : Bool :=
  match x.nodes[i]?, s.maq? x.niche x.maq with
  | some k, some m =>
    x.ended.isNone && decide (k.phase = .waiting) && decide (s.nodeDeps x m i = .yes) &&
      (match m.nodes[i]? with | some r => (s.placeRanks x m l i r).isSome | none => false)
  | _, _ => false

/-- The node that the dispatcher releases first: of the oldest launch, the lowest (R370). -/
def State.firstReady (s : State) : Option (Nat × Nat) :=
  s.fe.launches.findSome? (fun p =>
    ((List.range p.2.nodes.length).find? (fun i => s.nodeReady p.1 p.2 i)).map (fun i => (p.1, i)))

/-- The first waiting node of a launch that a poisoned fence value stops, with the word's address (R369). -/
def State.poisonedDep (s : State) (l node : Nat) : Option (Launch × Nat) :=
  match s.launch? l with
  | some x =>
    match x.nodes[node]?, s.maq? x.niche x.maq with
    | some k, some m =>
      if x.ended.isNone && decide (k.phase = .waiting) then
        match s.nodeDeps x m node with | .poison pa => some (x, pa) | _ => none
      else none
    | _, _ => none
  | none => none

/-- An error injected at a fence value that a waiting node's dependences name: the dispatcher reads it (R369, R486). -/
def State.depInject (s : State) (l node : Nat) : State :=
  if !bit s.err.inject 0 then s
  else
    match s.launch? l with
    | some x =>
      match x.nodes[node]?, (s.maq? x.niche x.maq) with
      | some k, some m =>
        if x.ended.isNone && decide (k.phase = .waiting) then
          (((m.nodes[node]?.map (·.deps)).getD []).filter (fun d => depType d == 1)).foldl
            (fun s d => s.inject (m.bankAt x.bank + fld d 18 16) 8) s
        else s
      | _, _ => s
    | none => s

/-- The lines that the host holds exclusively of the fence values that a waiting node's dependences name. -/
def State.depsHeld (s : State) (l node : Nat) : List Nat :=
  match s.launch? l with
  | some x =>
    match s.maq? x.niche x.maq with
    | some m =>
      let ds := ((m.nodes[node]?.map (·.deps)).getD []).filter (fun d => depType d == 1)
      (ds.flatMap (fun d => s.linesHeld (m.bankAt x.bank + fld d 18 16) 8 false)).eraseDups
    | none => []
  | none => []

/-- NODE_RELEASE: the next ready node is released; a poisoned fence value ends its launch with FAULTED. -/
def execNodeRelease (l node : Nat) (s : State) : Host.Outcome State Fault Refusal :=
  let s := s.depInject l node
  let held := s.depsHeld l node
  .next (if !held.isEmpty then s.recall held else match s.poisonedDep l node with
    | some (x, pa) =>
      (s.plinthExc x.niche 6 0 (some (node, x.maq)) (paDetail pa)).endLaunch l 0xD
    | none =>
      if s.firstReady != some (l, node) then s
      else
        match s.launch? l with
        | some x =>
          match s.maq? x.niche x.maq with
          | some m =>
            match m.nodes[node]? with
            | some r =>
              match s.placeRanks x m l node r with
              | some (place, s) =>
                let k : NodeRun := { phase := .released, toWrite := r.entries, open_ := r.entries, place := place }
                (s.setLaunch l { x with nodes := x.nodes.set node k }).count 115 1
              | none => s
            | none => s
          | none => s
        | none => s)

/-! ## Engine entries (R373, R374) -/

/-- The entries waiting in an engine's queue. -/
def Core.engQ (k : Core) : Eng → List EngineEntry
  | .se => k.seQ
  | .ve => k.veQ
  | .me => k.meQ
  | .de => k.deQ

/-- An entry put into an engine's queue. -/
def Core.pushQ (k : Core) (e : EngineEntry) : Core :=
  match e.kind with
  | .se => { k with seQ := k.seQ ++ [e] }
  | .ve => { k with veQ := k.veQ ++ [e] }
  | .me => { k with meQ := k.meQ ++ [e] }
  | .de => { k with deQ := k.deQ ++ [e] }

/-- The engine entry of a rank (table Engine entry). -/
def State.entryFor (s : State) (x : Launch) (m : Maquette) (l node rank : Nat) (r : NodeRec) (grants : Nat) (e : Eng) : EngineEntry :=
  let (first, cnt) := blockShare r.blocks r.ranks rank
  let pc (w : W64) : W64 := BitVec.ofNat 64 (fld w 0 57)
  let (w1, w2, w3, w4) : W64 × W64 × W64 × W64 := match e with
    | .se => (pc r.sePc, pack [(0, 24, rank), (24, 24, r.ranks)], 0, 0)
    | .ve => (pc r.vePc, x.seed + BitVec.ofNat 64 node, r.shape, pack [(0, 24, first), (24, 25, cnt)])
    | .me => (r.meCmd.1, r.meCmd.2, 0, 0)
    | .de => (r.deCmd.1, r.deCmd.2, 0, 0)
  { kind := e, node := node, maquette := x.maq, niche := x.niche, bank := x.bank, super := x.super, word1 := w1, word2 := w2
    word3 := w3, word4 := w4, word5 := pack [(0, 8, r.streamKib.toNat), (8, 12, grants)]
    bankPa := BitVec.ofNat 62 (s.globalPa (m.bankAt x.bank)), window := m.paramVa, launch := l, rank := rank }

/-- ENGINE_ENTRY_WRITE: the entry of a rank goes into its core's engine queue, when the context holds the region, the queue has room
and the region's slot is not reserved idle, in which no work is placed on it (R60; DEDUCED, assumption log 87); a core outside the niche's grant ends the launch with FAULTED (R365). -/
def execEngineEntryWrite (l node rank : Nat) (e : Eng) (s : State) : Host.Outcome State Fault Refusal :=
  .next (match s.launch? l with
    | none => s
    | some x =>
      match x.nodes[node]?, s.maq? x.niche x.maq with
      | some k, some m =>
        match k.place[rank]?, m.nodes[node]? with
        | some (c, grants), some r =>
          if x.ended.isSome || !k.toWrite.contains (rank, e) then s
          else if !(s.granted x.niche).contains (regionOf c).toNat then s.endLaunch l 0xD
          else
            let g := s.region (regionOf c)
            if g.holder != some (x.niche, x.ctx) || g.preempting || g.restoring.isSome || s.reservedSlot (regionOf c) ||
                16 ≤ ((s.core c).engQ e).length then s
            else
              let s := s.updCore c (fun y => y.pushQ (s.entryFor x m l node rank r grants e))
              s.setLaunch l { x with nodes := x.nodes.set node { k with toWrite := k.toWrite.filter (· != (rank, e)) } }
        | _, _ => s
      | _, _ => s)

/-! ## Completion and commit (R370, R371) -/

/-- Whether a command of a node is still on an engine. -/
def Core.hasCommand (k : Core) (l node : Nat) : Bool :=
  let mine (f : FifoCmd) : Bool := f.launch == l && f.node == node
  k.me.fifo.any mine || k.de.fifo.any mine || k.me.runs.any (fun r => mine r.cmd) ||
    (match k.de.run with | some r => mine r.cmd | none => false)

/-- The same in what a pre-emption saved. -/
def State.commandsLeft (s : State) (l node : Nat) : Bool :=
  s.cores.any (fun p => p.2.hasCommand l node) || s.saved.any (fun y => y.cores.any (fun p => p.2.hasCommand l node))

/-- Whether a reduction of a launch has its result and flag byte written, other devices' acknowledgements included (R370). -/
def State.redDone (s : State) (l idx : Nat) : Bool :=
  s.fe.reds.any (fun r => r.launch == l && r.index == idx && r.done) &&
    !s.tr.ops.any (fun o => match o.purpose with | .armature a b _ => a == l && b == idx | _ => false)

/-- Whether a released node has completed. -/
def State.nodeOver (s : State) (l node : Nat) (k : NodeRun) (r : NodeRec) : Bool :=
  decide (k.phase = .released) && k.toWrite.isEmpty && k.open_.isEmpty && !s.commandsLeft l node &&
    (match r.reduction with | some i => s.redDone l i | none => true)

/-- The last node completed: the launch commits. -/
def State.commit (s : State) (l : Nat) (x : Launch) : State :=
  let s := (s.setLaunch l { x with ended := some 1 }).uncapture x
  let s : State := { s with fe := { s.fe with reds := s.fe.reds.filter (fun r => r.launch != l) } }
  s.conclude x.queue x.seq 1 0

/-- NODE_COMPLETE: the node's grants are released; the last node's completion is the commit point. -/
def execNodeComplete (l node : Nat) (s : State) : Host.Outcome State Fault Refusal :=
  .next (match s.launch? l with
    | none => s
    | some x =>
      match x.nodes[node]?, (s.maq? x.niche x.maq).bind (fun m => m.nodes[node]?) with
      | some k, some r =>
        if x.ended.isSome || !s.nodeOver l node k r then s
        else
          let x := { x with nodes := x.nodes.set node { k with phase := .complete } }
          let s := (s.setLaunch l x).releaseGrants l (fun g => g.node == node)
          if x.nodes.all (fun k => decide (k.phase = .complete)) then s.commit l x else s
      | _, _ => s)

end Sys2Proof.Machine
end

