-- ==== Sys2Proof/Machine/Csr.lean ====
section
/-! DEFINITION. The control and status space as a map of registers: what each offset reads, who may read and write it, and
what a write does (R9 to R13, R39 to R41 and the register tables of every chapter). -/

namespace Sys2Proof.Machine

/-! ## Reading: the 64-bit register at an offset of its block -/

/-- Identity and discovery (01_package.md). -/
def State.readDisc (s : State) (o : Nat) : W64 :=
  match o with
  | 0x00 => pack [(0, 16, 0x0E7A), (16, 16, 0x2516), (32, 8, 0x43), (40, 8, Config.stepping.toNat)]
  | 0x08 => pack [(0, 8, 64), (8, 8, 128), (16, 8, 16), (24, 4, 4), (28, 4, 4), (32, 8, 12), (40, 8, 36), (48, 4, 2), (52, 4, 8), (56, 4, 1)]
  | 0x10 => pack [(0, 16, 576), (16, 16, s.disc.bulkGib.toNat), (32, 16, 2048), (48, 8, 128)]
  | 0x18 => pack [(0, 14, s.disc.deviceId.toNat), (14, 1, s.disc.idValid.toNat)]
  | 0x20 => pack [(0, 8, 0x10), (8, 8, 0x20), (16, 4, 1), (20, 4, 2), (24, 8, 1), (32, 8, 3), (40, 8, 1), (48, 8, 1)]
  | 0x28 => BitVec.allOnes 64
  | 0x40 => pack [(0, 1, s.disc.fwReady.toNat), (1, 3, s.disc.mode.toNat), (4, 1, s.powerCapped.toNat)]
  | 0x48 => pack [(0, 48, s.disc.holeAddr.toNat), (48, 1, s.disc.holeWrite.toNat), (62, 1, s.disc.holeOverflow.toNat), (63, 1, s.disc.holeValid.toNat)]
  | _ => 0

/-- TL_STATUS. -/
def Timeline.status (t : Timeline) : W64 :=
  pack [(0, 3, t.state.toNat), (3, 1, t.sourceLost.toNat), (4, 1, t.stepped.toNat), (5, 1, t.depthExceeded.toNat),
    (6, 6, t.hops.toNat), (12, 16, t.phaseErr.toNat)]

/-- The two 32-bit entries of a booking table that an aligned 64-bit word holds (R64). -/
def Timeline.bookWord (t : Timeline) (ofRegion : Bool) (o : Nat) : W64 :=
  let e (i : Nat) : Nat := (t.readBook ofRegion (o / 0x1000 * 1024 + o % 0x1000 / 4 + i)).toNat
  pack [(0, 32, e 0), (32, 32, e 1)]

/-- The timeline block (02_timeline.md). -/
def State.readTimeline (s : State) (o : Nat) : W64 :=
  let t := s.tl
  if o = 0 then t.now
  else if o = 8 then t.status
  else if o = 0x10 then t.control
  else if o = 0x18 then t.load
  else if 0x10_0000 ≤ o ∧ o < 0x12_4000 then t.bookWord false (o - 0x10_0000)
  else if 0x20_0000 ≤ o ∧ o < 0x24_0000 then t.bookWord true (o - 0x20_0000)
  else 0

/-- FE_SQ_BASE, FE_SQ_CONFIG, FE_SQ_PTRS, FE_SQ_STATUS of a queue. -/
def Queue.reg (x : Queue) (i : Nat) : W64 :=
  match i with
  | 0 => x.base
  | 1 => x.config
  | 2 => pack [(0, 32, x.head.toNat), (32, 32, x.tail.toNat)]
  | _ => pack [(0, 3, x.state), (3, 8, x.haltStatus.toNat), (11, 1, x.dbBad.toNat)]

/-- FE_MAQ_STATE. -/
def State.maqState (s : State) (n : NicheNum) (m : BitVec 12) : W64 :=
  match s.maq? n m with
  | some q => pack [(0, 1, 1), (1, 1, q.current.toNat), (2, 7, q.capt0), (9, 7, q.capt1), (16, 1, q.resident.toNat)]
  | none => 0

/-- The front-end block (14_front_end.md). -/
def State.readFe (s : State) (o : Nat) : W64 :=
  if o < 0x2_0000 then (s.queue (BitVec.ofNat 12 (o / 0x20))).reg (o % 0x20 / 8)
  else if 0x30_0000 ≤ o ∧ o < 0x38_0000 then (s.niche (BitVec.ofNat 6 ((o - 0x30_0000) / 0x2000))).fence (o % 0x2000 / 8)
  else if 0x40_0000 ≤ o ∧ o < 0x60_0000 then s.maqState (BitVec.ofNat 6 ((o - 0x40_0000) / 0x8000)) (BitVec.ofNat 12 (o % 0x8000 / 8))
  else 0

/-- NICHE_STATUS. -/
def State.nicheStatus (s : State) (n : NicheNum) : W64 :=
  let bits (p : BitVec 4 → Bool) : Nat := ((List.range 16).map (fun i => if p (BitVec.ofNat 4 i) then 2 ^ i else 0)).sum
  let waits (c : BitVec 4) : Bool := (s.granted n).any (fun r =>
    (s.region (BitVec.ofNat 6 r)).holder != some (n, c) && s.wants n c (BitVec.ofNat 6 r))
  pack [(0, 16, bits (fun c => (s.ctx n c).state == 1)), (16, 16, bits waits), (32, 1, (s.profileBad n).toNat)]

/-- The registers of a niche and of its contexts, by offset (15_niches.md). -/
def State.readNicheRegs (s : State) (n : NicheNum) (o : Nat) : W64 :=
  let x := s.niche n
  if 0x100 ≤ o ∧ o < 0x300 then
    let c := x.ctx (BitVec.ofNat 4 ((o - 0x100) / 0x20))
    match o % 0x20 with
    | 0 => c.control
    | 8 => c.save
    | 0x10 => pack [(0, 2, c.state.toNat), (2, 32, c.preempts.toNat)]
    | _ => 0
  else
    match o with
    | 0x00 => x.grant
    | 0x08 => x.control
    | 0x10 => x.excRing
    | 0x18 => pack [(0, 32, x.excWrite.toNat), (32, 32, x.excRead.toNat)]
    | 0x20 => BitVec.ofNat 64 x.excDropped.toNat
    | 0x28 => pack [(0, 16, x.interfLast.toNat), (16, 16, x.interfAvg.toNat), (32, 32, x.interfFrame.toNat)]
    | 0x30 => s.nicheStatus n
    | 0x38 => x.clear
    | 0x40 => x.profileId
    | _ => 0

/-- REGION_OWNER. -/
def State.regionOwner (s : State) (r : RegionNum) : W64 :=
  let x := s.region r
  let g := s.grantee r
  pack [(0, 1, g.isSome.toNat), (1, 6, (g.getD 0).toNat), (7, 1, x.usedSinceClear.toNat), (8, 1, x.holder.isSome.toNat),
    (9, 4, match x.holder with | some h => h.2.toNat | none => 0)]

/-- NSEM_STATE. -/
def NSem.reg (x : NSem) : W64 := pack [(0, 32, x.count), (32, 12, min 4095 x.queue.length), (44, 1, x.overflow.toNat)]

/-- The placement registers of a niche (10_memory_tiers.md). -/
def State.readNpl (s : State) (n : NicheNum) (o : Nat) : W64 :=
  let x := s.niche n
  let flight := (s.place.migs.filter (fun g => g.niche == n)).length
  match o with
  | 0x00 => x.nplRoot
  | 0x08 => Sparse.getD x.pools 0 0
  | 0x10 => Sparse.getD x.pools 1 0
  | 0x18 => Sparse.getD x.pools 2 0
  | 0x20 => Sparse.getD x.pools 3 0
  | 0x28 => setFld x.nplControl 24 4 (s.poolBad n)
  | 0x30 => x.shoot
  | 0x38 => x.shootCount
  | 0x40 => pack [(0, 24, x.pinned.toNat), (24, 16, x.migrations.toNat), (40, 16, x.pinRefused.toNat), (56, 8, flight)]
  | _ => 0

/-- The niches block. -/
def State.readNiches (s : State) (o : Nat) : W64 :=
  if o < 0x4_0000 then s.readNicheRegs (BitVec.ofNat 6 (o / 0x1000)) (o % 0x1000)
  else if 0x10_0000 ≤ o ∧ o < 0x10_8000 then BitVec.ofNat 64 (s.queue (BitVec.ofNat 12 ((o - 0x10_0000) / 8))).ctx.toNat
  else if 0x20_0000 ≤ o ∧ o < 0x20_0200 then s.regionOwner (BitVec.ofNat 6 ((o - 0x20_0000) / 8))
  else if 0x40_0000 ≤ o ∧ o < 0x60_0000 then ((s.niche (BitVec.ofNat 6 ((o - 0x40_0000) / 0x8000))).nsem (o % 0x8000 / 8)).reg
  else if o = 0x80_0000 then s.place.control
  else if o = 0x80_0008 then
    pack [(0, 32, s.place.migrations.toNat), (32, 8, s.place.migs.length), (40, 16, s.place.hintsDropped.toNat)]
  else if 0x80_1000 ≤ o ∧ o < 0x80_5000 then s.readNpl (BitVec.ofNat 6 ((o - 0x80_1000) / 0x100)) (o % 0x100)
  else 0

/-- PAT_STATUS. -/
def Patina.status (p : Patina) : W64 :=
  pack [(0, 1, p.journalFault.toNat), (1, 1, p.shutdownDone.toNat), (32, 32, p.recordsDropped.toNat)]

/-- PAT_SENSOR. -/
def Region.sensor (x : Region) : W64 :=
  pack [(0, 12, x.temp.toNat), (12, 12, x.voltMv.toNat), (24, 12, x.current.toNat), (36, 16, x.lastMargin.toNat),
    (52, 1, (match x.probe with | some (_, _, gone) => !gone | none => false).toNat)]

/-- The Patina block (19_patina.md). -/
def State.readPat (s : State) (o : Nat) : W64 :=
  let p := s.pat
  if o = 0 then p.control
  else if o = 8 then p.status
  else if o = 0x10 then p.readCtrl
  else if o = 0x18 then p.readSeq
  else if 0x1000 ≤ o ∧ o < 0x1200 then (s.region (BitVec.ofNat 6 ((o - 0x1000) / 8))).sensor
  else if 0x1_0000 ≤ o ∧ o < 0x1_4000 then BitVec.ofNat 64 (leNat ((p.readBuf.drop (o - 0x1_0000)).take 8))
  else 0

/-- A self counter of a core (R520): RESIDENT_CYCLES counts from the cycle of the last clear. -/
def State.selfCounter (s : State) (c : CoreNum) (j : Nat) : W64 :=
  let v := Sparse.getD (s.core c).self j 0
  if 13 ≤ j then 0 else if j = 1 then s.cyclesOf c - v else v

/-- FRZ_STATUS. -/
def FrzRegion.status (f : FrzRegion) : W64 :=
  pack [(0, 15, f.fill), (15, 14, f.next), (29, 1, f.triggered.toNat), (30, 1, f.frozen.toNat), (31, 1, f.wrapped.toNat), (32, 32, f.dropped.toNat)]

/-- The Frieze block (20_frieze.md); a read that no core issues finds no self counter. -/
def State.readFrz (s : State) (core : Option CoreNum) (o : Nat) : W64 :=
  if o = 0 then BitVec.ofNat 64 s.frzCap.toNat
  else if 0x1000 ≤ o ∧ o < 0x2000 then
    let f := (s.region (BitVec.ofNat 6 ((o - 0x1000) / 0x40))).frz
    match o % 0x40 with
    | 0x00 => f.control
    | 0x08 => f.trigTick
    | 0x10 => f.status
    | 0x18 => f.sink
    | 0x20 => pack [(0, 32, f.sinkWrite.toNat), (32, 32, f.sinkRead.toNat)]
    | _ => 0
  else if 0x1_0000 ≤ o ∧ o < 0x2_0000 then
    match core with
    | some c => s.selfCounter c ((o - 0x1_0000) / 8)
    | none => 0
  else if 0x2_0000 ≤ o ∧ o < 0x2_1000 then Sparse.getD s.counters ((o - 0x2_0000) / 8) 0
  else 0

/-- One of the four words of an error-log record. -/
def ErrRec.word (r : ErrRec) (i : Nat) : W64 := match i with | 0 => r.w0 | 1 => r.w1 | 2 => r.w2 | _ => r.w3

/-- The error-log block (18_errors.md). -/
def State.readErr (s : State) (o : Nat) : W64 :=
  let e := s.err
  if 0x10_0000 ≤ o ∧ o < 0x12_0000 then
    match Sparse.find e.log ((o - 0x10_0000) / 32) with
    | some r => r.word (o % 32 / 8)
    | none => 0
  else
    match o with
    | 0x00 => e.control
    | 0x08 => pack [(0, 32, e.write.toNat), (32, 32, e.read.toNat)]
    | 0x10 => pack [(0, 32, e.corrDropped.toNat), (32, 16, e.sevDropped.toNat)]
    | 0x18 => pack [(0, 16, e.fatalCount.toNat), (16, 8, e.lastCause.toNat), (24, 1, e.recovering.toNat), (25, 1, e.held.toNat)]
    | 0x28 => e.inject
    | 0x30 => e.injectAddr
    | _ => 0

/-- Eight bytes of a sparse buffer. -/
def word8 (m : Sparse Byte) (o : Nat) : W64 := BitVec.ofNat 64 (leNat ((List.range 8).map (fun i => Sparse.getD m (o + i) 0)))

/-- Word 0 or 1 of a QCL_MSG entry. -/
def Msg.word (e : Msg) (i : Nat) : W64 :=
  if i = 0 then e.addr else pack [(0, 32, e.data.toNat), (32, 1, e.mask.toNat), (33, 1, e.pending.toNat), (34, 7, e.func.toNat)]

/-- The QCL block (17_host_link.md). -/
def State.readQcl (s : State) (o : Nat) : W64 :=
  let q := s.qcl
  if 0x1000 ≤ o ∧ o < 0x1080 then Sparse.getD q.wins ((o - 0x1000) / 8) 0
  else if 0x2000 ≤ o ∧ o < 0x3000 then word8 q.spdmReq (o - 0x2000)
  else if 0x3000 ≤ o ∧ o < 0x4000 then word8 q.spdmRsp (o - 0x3000)
  else if 0x10_0000 ≤ o ∧ o < 0x11_0000 then (Sparse.getD q.msgs ((o - 0x10_0000) / 16) {}).word (o % 16 / 8)
  else
    match o with
    | 0x00 => q.control
    | 0x08 => pack [(0, 2, q.state.toNat), (2, 8, q.ver.toNat), (10, 8, q.peerMin.toNat), (18, 8, q.peerMax.toNat)]
    | 0x10 => pack [(0, 32, q.replays.toNat), (32, 16, q.retrains.toNat), (48, 16, q.recallTimeouts.toNat)]
    | 0x18 => pack [(0, 21, q.dir.length), (21, 32, q.recalls.toNat)]
    | 0x20 => q.spdmCtrl
    | _ => 0

/-- TR_PORT_CONTROL, TR_PORT_STATUS, TR_PORT_COUNTS of a port. -/
def Port.reg (x : Port) (o : Nat) : W64 :=
  match o with
  | 0x00 => x.control
  | 0x08 => pack [(0, 2, x.state.toNat), (2, 2, x.ver.toNat), (4, 14, x.peerId.toNat), (18, 16, x.peerInc.toNat), (34, 16, x.delay.toNat)]
  | 0x10 => pack [(0, 16, x.fec), (16, 16, x.rejected.toNat), (32, 12, x.retrains.toNat), (44, 12, x.bookMismatch.toNat)]
  | _ => 0

/-- TR_DEAD word w. -/
def State.deadWord (s : State) (w : Nat) : W64 :=
  BitVec.ofNat 64 ((s.tr.dead.filter (fun d => d.1 / 64 == w)).map (fun d => 2 ^ (d.1 % 64))).sum

/-- The Trestle block (16_trestle.md). -/
def State.readTr (s : State) (o : Nat) : W64 :=
  if o = 0 then s.tr.control
  else if o = 8 then pack [(0, 14, s.disc.deviceId.toNat), (14, 1, s.disc.idValid.toNat), (32, 16, s.tr.incarnation.toNat)]
  else if o = 0x10 then s.tr.torus
  else if 0x1000 ≤ o ∧ o < 0x1900 then (s.port (BitVec.ofNat 6 ((o - 0x1000) / 0x40))).reg (o % 0x40)
  else if 0x10_0000 ≤ o ∧ o < 0x12_0000 then Sparse.getD s.tr.routes ((o - 0x10_0000) / 8) 0
  else if 0x20_0000 ≤ o ∧ o < 0x20_0800 then s.deadWord ((o - 0x20_0000) / 8)
  else if 0x30_0000 ≤ o ∧ o < 0x30_0400 then Sparse.getD s.tr.exports ((o - 0x30_0000) / 8) 0
  else 0

/-- CORE_STATUS. -/
def State.coreStatus (s : State) (c : CoreNum) : W64 :=
  let k := s.core c
  let de := match k.de.run with | some r => (r.blocks.filter (fun b => !b.performed)).length | none => 0
  pack [(0, 1, k.se.entry.isSome.toNat), (1, 1, (!k.ve.groups.isEmpty).toNat), (2, 1, (!k.me.fifo.isEmpty || !k.me.runs.isEmpty).toNat),
    (3, 1, (!k.de.fifo.isEmpty || k.de.run.isSome).toNat), (4, 1, k.dc.ready.toNat), (5, 1, k.ic.ready.toNat),
    (8, 3, min 6 (s.transfers c false)), (11, 3, min 6 (s.transfers c true)), (17, 3, de), (20, 9, k.dc.dirtyLines), (29, 1, k.failed.toNat)]

/-- The registers of a core (03_core.md). -/
def State.readCore (s : State) (c : CoreNum) (o : Nat) : W64 :=
  let k := s.core c
  match o with
  | 0x00 => pack [(0, 13, c.toNat), (13, 6, dieLoc (regionOf c)), (19, 2, diePos (regionOf c))]
  | 0x08 => s.coreStatus c
  | 0x10 => k.control
  | 0x18 => BitVec.ofNat 64 k.dc.lfsr.toNat
  | 0x20 => pack [(0, 16, k.drawerCe.toNat), (16, 16, k.cacheRefetch.toNat), (32, 16, k.regReplay.toNat), (48, 16, k.drawerUe.toNat)]
  | 0x28 => pack [(0, 17, k.eccOff.toNat), (17, 1, k.eccScrub.toNat), (62, 1, k.eccOverflow.toNat), (63, 1, k.eccValid.toNat)]
  | _ => 0

/-- VE_OCC (R126). -/
def Core.occ (k : Core) : W64 :=
  let kib := (k.ve.blocks.map (fun b => b.2.kib)).sum + (match k.ve.entry with | some e => e.reserve | none => 0)
  pack [(0, 6, k.ve.groups.length), (6, 5, k.ve.blocks.length), (11, 15, k.regsFree), (26, 8, 128 - kib), (34, 3, k.headLimit)]

/-- MX_SPILL_GRANT. -/
def Grant.reg (g : Grant) : W64 := pack [(0, 1, g.valid.toNat), (1, 7, g.coreIndex.toNat), (8, 6, g.niche.toNat), (14, 1, g.requested.toNat)]

/-- SEM_STATE. -/
def HwSem.reg (x : HwSem) : W64 := pack [(0, 16, x.count), (16, 6, x.queue.length), (22, 1, x.overflow.toNat)]

/-- A region block (R40). -/
def State.readRegion (s : State) (r : RegionNum) (o : Nat) : W64 :=
  let x := s.region r
  if o < 0x8_0000 then s.readCore (coreAt r (o / 0x1000)) (o % 0x1000)
  else if 0x8_1000 ≤ o ∧ o < 0x8_1400 then (s.core (coreAt r ((o - 0x8_1000) / 8))).occ
  else if 0x8_2020 ≤ o ∧ o < 0x8_2040 then (Sparse.getD x.grants ((o - 0x8_2020) / 8) {}).reg
  else if 0x9_0000 ≤ o ∧ o < 0xA_0000 then ((s.core (coreAt r ((o - 0x9_0000) / 0x200))).sem (o % 0x200 / 8)).reg
  else
    match o with
    | 0x8_0000 => x.clockReg
    | 0x8_0008 => x.cycles
    | 0x8_0010 => x.droop
    | 0x8_2000 => BitVec.ofNat 64 x.auditMismatches.toNat
    | 0x8_2008 => x.auditChecks
    | 0x8_2010 => x.feedStalls
    | 0x8_2018 => x.drainStalls
    | 0x8_2040 => pack [(0, 32, x.spillCe.toNat), (32, 32, x.spillUe.toNat)]
    | 0x8_2080 => pack [(0, 32, x.late.toNat), (32, 32, x.lateStretched.toNat)]
    | _ => 0

/-- The register at an aligned offset of the control and status space (R39). -/
def State.readReg (s : State) (core : Option CoreNum) (off : Nat) : W64 :=
  let o := off % 0x100_0000
  match off / 0x100_0000 with
  | 0 => s.readDisc o
  | 1 => s.readTimeline o
  | 2 => s.readFe o
  | 3 => s.readNiches o
  | 4 => s.readPat o
  | 5 => s.readFrz core o
  | 6 => s.readErr o
  | 7 => s.readQcl o
  | 8 => s.readTr o
  | _ => if 0x1000_0000 ≤ off ∧ off < 0x1400_0000 then s.readRegion (BitVec.ofNat 6 ((off - 0x1000_0000) / 0x10_0000)) (off % 0x10_0000) else 0

/-- Who may read an offset (R41, R62, R96, R507, R520, R522, R561 and their like): firmware and the supervisor everything, a
job its discovery registers and the self counters. -/
def readRight (a : Actor) (off : Nat) : Bool :=
  match a with
  | .firmware | .supervisor => true
  | .job _ => decide (off < 0x30) || (decide (0x501_0000 ≤ off) && decide (off < 0x502_0000))
  | .placement => false

/-- Whether an access has the width and the alignment of R12. -/
def csrShape (off n : Nat) : Bool := (n == 4 && off % 4 == 0) || (n == 8 && off % 8 == 0)

/-- The bytes that a load of n bytes at an offset returns (R12, R13, R41). -/
def State.csrRead (s : State) (a : Actor) (core : Option CoreNum) (off n : Nat) : List Byte :=
  if csrShape off n && readRight a off then
    (((leBytes 8 (s.readReg core (off / 8 * 8)).toNat)).drop (off % 8)).take n
  else List.replicate n 0

/-! ## Writing -/

/-- DEV_HOLE_LOG: HOLE_OVERFLOW and HOLE_VALID are RW1C (R561). -/
def State.writeDisc (s : State) (o : Nat) (w : W64) : State :=
  if o = 0x48 then
    { s with disc := { s.disc with holeOverflow := s.disc.holeOverflow && !bit w 62, holeValid := s.disc.holeValid && !bit w 63 } }
  else s

/-- The timeline block: TL_STATUS and TL_CONTROL are firmware's, LOAD_ARM and TL_LOAD also the supervisor's, a booking table's
writer is R65's. -/
def State.writeTimeline (s : State) (a : Actor) (o : Nat) (m v : W64) : State :=
  let book (ofRegion : Bool) (b : Nat) : State :=
    if !bookRight a ofRegion then s
    else
      let n : BitVec 6 := BitVec.ofNat 6 (b / 0x1000)
      let i := b % 0x1000 / 4
      let s := if bit m 0 then s.writeBook ofRegion n i (BitVec.ofNat 32 (fld v 0 32)) else s
      if bit m 32 then s.writeBook ofRegion n (i + 1) (BitVec.ofNat 32 (fld v 32 32)) else s
  if o = 8 then
    if isFw a then
      { s with tl := { s.tl with sourceLost := s.tl.sourceLost && !bit (m &&& v) 3, stepped := s.tl.stepped && !bit (m &&& v) 4 } }
    else s
  else if o = 0x10 then
    if isFw a then s.writeTlControl m v else if isSup a then s.writeTlControl (m &&& 0x100) v else s
  else if o = 0x18 then
    if isFwOrSup a then { s with tl := { s.tl with load := masked m s.tl.load v } } else s
  else if 0x10_0000 ≤ o ∧ o < 0x12_4000 then book false (o - 0x10_0000)
  else if 0x20_0000 ≤ o ∧ o < 0x24_0000 then book true (o - 0x20_0000)
  else s

/-- The front-end block: a doorbell by whoever may ring it, the rest by firmware and the supervisor. -/
def State.writeFe (s : State) (a : Actor) (o : Nat) (m v : W64) : State :=
  if 0x10_0000 ≤ o ∧ o < 0x10_8000 then
    let q : QueueNum := BitVec.ofNat 12 ((o - 0x10_0000) / 8)
    if s.mayRing a q then s.ring q (BitVec.ofNat 32 (fld (m &&& v) 0 32)) else s
  else if !isFwOrSup a then s
  else if o < 0x2_0000 then
    let q : QueueNum := BitVec.ofNat 12 (o / 0x20)
    match o % 0x20 / 8 with
    | 0 => s.writeSqBase q m v
    | 1 => s.writeSqConfig q m v
    | 3 => s.writeSqStatus q m v
    | _ => s
  else if 0x30_0000 ≤ o ∧ o < 0x38_0000 then s.writeFence (BitVec.ofNat 6 ((o - 0x30_0000) / 0x2000)) (o % 0x2000 / 8) m v
  else s

/-- NICHE_EXC_RING after a write: a SIZE_LOG2 outside 6 to 16 keeps the old one (R11). -/
def excRingAfter (old m v : W64) : W64 :=
  let w := masked (m &&& (mask 0 6 ||| mask 12 36)) old v
  if fld w 1 5 < 6 ∨ 16 < fld w 1 5 then setFld w 1 5 (fld old 1 5) else w

/-- A write to NICHE_EXC_RING; one that would put the ring over the firmware region is refused (R537). -/
def State.writeExcRing (s : State) (n : NicheNum) (m v : W64) : State :=
  let w := excRingAfter (s.niche n).excRing m v
  if inFirmware (fld w 12 36 * 2 ^ 12) (32 * 2 ^ fld w 1 5) then s.writeRefused (nicheOff n 0x10) n v
  else s.updNiche n (fun x => { x with excRing := w })

/-- The registers of a niche and of its contexts. -/
def State.writeNicheRegs (s : State) (n : NicheNum) (o : Nat) (m v : W64) : State :=
  if 0x100 ≤ o ∧ o < 0x300 then
    let c : BitVec 4 := BitVec.ofNat 4 ((o - 0x100) / 0x20)
    match o % 0x20 with
    | 0 => s.writeCtxControl n c m v
    | 8 => s.writeCtxSave n c m v
    | _ => s
  else
    match o with
    | 0x00 => s.writeGrant n m v
    | 0x08 => s.writeNicheControl n m v
    | 0x10 => s.writeExcRing n m v
    | 0x18 => s.updNiche n (fun x => { x with excRead := BitVec.ofNat 32 (fld (masked m (pack [(32, 32, x.excRead.toNat)]) v) 32 32) })
    | 0x38 => s.writeClear n m v
    | 0x40 => s.updNiche n (fun x => { x with profileId := masked (m &&& mask 0 14) x.profileId v })
    | _ => s

/-- PLACE_CONTROL after a write: each field keeps its value where the one written is reserved (R11). -/
def placeControlAfter (old m v : W64) : W64 :=
  let w := masked (m &&& mask 0 30) old v
  let keep (w : W64) (lo n : Nat) (bad : Bool) : W64 := if bad then setFld w lo n (fld old lo n) else w
  let w := keep w 4 11 (fld w 4 11 == 0)
  let w := keep w 15 7 (fld w 15 7 == 0)
  let w := keep w 22 4 (fld w 22 4 == 0)
  keep w 26 4 (fld w 26 4 == 0 || decide (10 < fld w 26 4))

/-- The niches block. -/
def State.writeNiches (s : State) (a : Actor) (o : Nat) (m v : W64) : State :=
  if !isFwOrSup a then s
  else if o < 0x4_0000 then s.writeNicheRegs (BitVec.ofNat 6 (o / 0x1000)) (o % 0x1000) m v
  else if 0x10_0000 ≤ o ∧ o < 0x10_8000 then s.writeQueueCtx (BitVec.ofNat 12 ((o - 0x10_0000) / 8)) m v
  else if 0x40_0000 ≤ o ∧ o < 0x60_0000 then s.writeNsem a (BitVec.ofNat 6 ((o - 0x40_0000) / 0x8000)) (o % 0x8000 / 8) m v
  else if o = 0x80_0000 then { s with place := { s.place with control := placeControlAfter s.place.control m v } }
  else if 0x80_1000 ≤ o ∧ o < 0x80_5000 then
    let n : NicheNum := BitVec.ofNat 6 ((o - 0x80_1000) / 0x100)
    match o % 0x100 / 8 with
    | 6 => s.writeShoot n m v
    | 7 => s.updNiche n (fun x => { x with shootCount := masked (m &&& mask 0 32) x.shootCount v })
    | k => s.writeNpl n k m v
  else s

/-- The Patina block (R507). -/
def State.writePat (s : State) (o : Nat) (m v : W64) : State :=
  match o with
  | 0x00 => s.writePatControl m v
  | 0x10 => s.writePatRead m v
  | 0x18 => { s with pat := { s.pat with readSeq := masked m s.pat.readSeq v } }
  | _ => s

/-- The Frieze block (R522). -/
def State.writeFrz (s : State) (o : Nat) (m v : W64) : State :=
  if o = 0 then
    let c := fld (masked (m &&& 7) (BitVec.ofNat 64 s.frzCap.toNat) v) 0 3
    if 1 ≤ c ∧ c ≤ 5 then { s with frzCap := BitVec.ofNat 3 c } else s
  else if o = 8 then s.writeFrzTrigger (m &&& v)
  else if 0x1000 ≤ o ∧ o < 0x2000 then
    let r : RegionNum := BitVec.ofNat 6 ((o - 0x1000) / 0x40)
    match o % 0x40 with
    | 0x00 => s.writeFrzControl r m v
    | 0x08 => s.writeTrigTick r m v
    | 0x18 => s.writeSink r (0x500_0000 + o) m v
    | 0x20 => s.writeSinkPtrs r m v
    | _ => s
  else s

/-- The error-log block. -/
def State.writeErr (s : State) (o : Nat) (m v : W64) : State :=
  match o with
  | 0x00 => { s with err := { s.err with control := masked (m &&& mask 0 28) s.err.control v } }
  | 0x08 => { s with err := { s.err with read := BitVec.ofNat 32 (fld (masked m (pack [(32, 32, s.err.read.toNat)]) v) 32 32) } }
  | 0x20 => s.writeErrRelease m v
  | 0x28 => s.writeInject m v
  | 0x30 => { s with err := { s.err with injectAddr := masked (m &&& mask 0 48) s.err.injectAddr v } }
  | _ => s

/-- The QCL block (R470). -/
def State.writeQcl (s : State) (o : Nat) (m v : W64) : State :=
  if o = 0 then s.writeQclControl m v
  else if o = 0x20 then s.writeSpdmCtrl m v
  else if 0x1000 ≤ o ∧ o < 0x1080 then s.writeWin ((o - 0x1000) / 8) m v
  else if 0x2000 ≤ o ∧ o < 0x3000 then
    let bs := leBytes 8 v.toNat
    let s := if bit m 0 then s.writeSpdmReq (o - 0x2000) (bs.take 4) else s
    if bit m 32 then s.writeSpdmReq (o - 0x2000 + 4) (bs.drop 4) else s
  else if 0x10_0000 ≤ o ∧ o < 0x11_0000 then s.writeMsg ((o - 0x10_0000) / 16) (o % 16 / 8) m v
  else s

/-- Base and bytes that word 1 of a TR_EXPORT entry names. -/
def exportRange (w : W64) : Nat × Nat := (fld w 21 27 * 2 ^ 21, fld w 0 21 * 2 ^ 21)

/-- A write to a word of a TR_EXPORT entry; one that would put its range over the firmware region is refused (R537). -/
def State.writeExport (s : State) (k : Nat) (m v : W64) : State :=
  let get (i : Nat) : W64 := Sparse.getD s.tr.exports i 0
  let w := masked (m &&& (if k % 2 = 0 then mask 0 32 else mask 0 48)) (get k) v
  let w1 := if k % 2 = 0 then get (k + 1) else w
  if inFirmware (exportRange w1).1 (exportRange w1).2 then s.writeRefused (0x830_0000 + 8 * k) 0 v
  else { s with tr := { s.tr with exports := Sparse.put s.tr.exports k w } }

/-- The Trestle block. -/
def State.writeTr (s : State) (o : Nat) (m v : W64) : State :=
  if o = 0 then s.writeTrControl m v
  else if o = 8 then s.writeTrId m v
  else if o = 0x10 then s.writeTrTorus m v
  else if 0x1000 ≤ o ∧ o < 0x1900 then
    if o % 0x40 = 0 then s.writePortControl (BitVec.ofNat 6 ((o - 0x1000) / 0x40)) m v else s
  else if 0x10_0000 ≤ o ∧ o < 0x12_0000 then s.writeTrRoute ((o - 0x10_0000) / 8) m v
  else if 0x30_0000 ≤ o ∧ o < 0x30_0400 then s.writeExport ((o - 0x30_0000) / 8) m v
  else s

/-- CORE_CONTROL: the holds and SCRUB_EN, and the invalidations that a 1 starts (R90, R92, R98). -/
def State.writeCoreControl (s : State) (c : CoreNum) (m v : W64) : State :=
  let s := s.updCore c (fun k => { k with control := masked (m &&& 0x4F) k.control v })
  let s := if bit (m &&& v) 4 then s.startWbi c else s
  if bit (m &&& v) 5 then s.startIcacheInv c else s

/-- The registers of a core: CORE_CONTROL and DRAWER_ECC_LOG are written by firmware only (R96). -/
def State.writeCore (s : State) (c : CoreNum) (o : Nat) (m v : W64) : State :=
  match o with
  | 0x10 => s.writeCoreControl c m v
  | 0x28 => s.updCore c (fun k => { k with eccOverflow := k.eccOverflow && !bit (m &&& v) 62, eccValid := k.eccValid && !bit (m &&& v) 63 })
  | _ => s

/-- A region block: REG_CLOCK and the cores' registers are firmware's, OVERFLOW of SEM_STATE also the supervisor's. -/
def State.writeRegion (s : State) (a : Actor) (r : RegionNum) (o : Nat) (m v : W64) : State :=
  if o < 0x8_0000 then (if isFw a then s.writeCore (coreAt r (o / 0x1000)) (o % 0x1000) m v else s)
  else if o = 0x8_0000 then (if isFw a then s.writeRegClock r m v else s)
  else if 0x9_0000 ≤ o ∧ o < 0xA_0000 then
    if isFwOrSup a && bit (m &&& v) 22 then
      s.updCore (coreAt r ((o - 0x9_0000) / 0x200)) (fun k => k.setSem (o % 0x200 / 8) { k.sem (o % 0x200 / 8) with overflow := false })
    else s
  else s

/-- A write of the bits `m` of the register at an aligned offset by an actor (R9, R11, R13, R41). -/
def State.writeReg (s : State) (a : Actor) (off : Nat) (m v : W64) : State :=
  let o := off % 0x100_0000
  match off / 0x100_0000 with
  | 0 => if isFwOrSup a then s.writeDisc o (m &&& v) else s
  | 1 => s.writeTimeline a o m v
  | 2 => s.writeFe a o m v
  | 3 => s.writeNiches a o m v
  | 4 => if isFwOrSup a then s.writePat o m v else s
  | 5 => if isFwOrSup a then s.writeFrz o m v else s
  | 6 => if isFwOrSup a then s.writeErr o m v else s
  | 7 => if isFwOrSup a then s.writeQcl o m v else s
  | 8 => if isFwOrSup a then s.writeTr o m v else s
  | _ => if 0x1000_0000 ≤ off ∧ off < 0x1400_0000 then s.writeRegion a (BitVec.ofNat 6 ((off - 0x1000_0000) / 0x10_0000)) (off % 0x10_0000) m v else s

/-- A store of n bytes at an offset: the whole register or one half of it (R12, R13). -/
def State.csrWrite (s : State) (a : Actor) (off n : Nat) (v : W64) : State :=
  if !csrShape off n then s
  else if n = 8 then s.writeReg a off (BitVec.allOnes 64) v
  else if off % 8 = 0 then s.writeReg a off (mask 0 32) (BitVec.ofNat 64 (fld v 0 32))
  else s.writeReg a (off / 8 * 8) (mask 32 32) (BitVec.ofNat 64 (fld v 0 32 * 2 ^ 32))

/-- Bytes stored at a local physical address of the control and status space. -/
def State.csrStore (s : State) (a : Actor) (pa : Nat) (bs : List Byte) : State :=
  s.csrWrite a (pa - 0x3000_0000_0000) bs.length (BitVec.ofNat 64 (leNat bs))

/-- Bytes loaded from a local physical address of the control and status space. -/
def State.csrLoad (s : State) (a : Actor) (core : Option CoreNum) (pa n : Nat) : List Byte :=
  s.csrRead a core (pa - 0x3000_0000_0000) n

/-- REGISTER_WRITE: a store to a register by an actor. -/
def execRegisterWrite (a : Actor) (off : BitVec 32) (bytes : Nat) (v : W64) (s : State) : Host.Outcome State Fault Refusal :=
  .next (s.csrWrite a off.toNat bytes v)

end Sys2Proof.Machine
end

