-- ==== Sys2Proof/Machine/Blocks.lean ====
section
/-! DEFINITION. Blocks of a block list as they start and as they are performed (R339, R342 to R345), stores and loads
performed at their homes (R281), host accesses through an aperture (R453). -/

namespace Sys2Proof.Machine

/-! ## Parts of a block -/

/-- In whose name the DE reaches the control and status space: the supervisor in a list that a supervisor queue starts, which
may name global physical addresses (R337), else the job. -/
def State.deActor (s : State) (c : CoreNum) (f : FifoCmd) : Actor := if f.super then .supervisor else .job (s.ownerNiche c)

/-- DETAIL of a poisoned source word: its niche virtual address, or the local physical one (table Exception record). -/
def Piece.poisonDetail (p : Piece) (off : Nat) : W64 :=
  match p.srcVa, p.src with
  | some va, _ => vaDetail ((va + off) / 8 * 8) .load
  | none, some t => paDetail ((t.addr + off) / 8 * 8)
  | none, none => 0

/-- Whether a started block is a release (R340). -/
def State.blockRel (s : State) (c : CoreNum) (index : Nat) : Bool :=
  match (s.core c).de.run with
  | some r => r.blocks.any (fun b => b.index == index && bit b.w2 55)
  | none => false

/-- What a block wrote to a target is noted where it is a release at FABRIC scope, and else overwrites such a note (R295, R340). -/
def State.noteBlock (s : State) (c : CoreNum) (index : Nat) (t : Tgt) (bs : List Byte) : State :=
  if s.blockRel c index then s.noteRelease c 3 4 t bs else s.unmark t bs.length

/-- Bytes of part i of a block reach its destination, with the poisoned words among them by destination address (R344,
R345): at once on this device, by a WRITE toward another. Poison toward the host raises POISON with DETAIL `bad`. -/
def State.landPiece (s : State) (c : CoreNum) (f : FifoCmd) (ch index i : Nat) (p : Piece) (bs : List Byte) (poison : List Nat)
    (bad : W64) : State :=
  let s := s.selfAdd c 7 (BitVec.ofNat 64 bs.length)
  match p.dst with
  | .dev a =>
    if s.classOf a = .csr then s.csrStore (s.deActor c f) a bs
    else
      let s := (s.homeWrite a bs).noteBlock c index p.dst bs
      if (s.classOf a).isMemory then { s with mem := s.mem.addPoison poison } else s
  | .host a => if poison.isEmpty then (s.noteBlock c index p.dst bs).hostWrite a bs else s.deRaise c 6 f bad
  | .remote d a =>
    let s := s.noteBlock c index p.dst bs
    if s.isDead d.toNat then s.lostStore c (s.ownerNiche c) 3 0 f.launch 0 (d.toNat * 2 ^ 48 + a)
    else s.sendBytes d a (s.ownerNiche c) (s.ownerCtx c) ch bs poison (.block c f.launch index i false)

/-- What the source of a part on this device or in the host gives: bytes, and the lowest poisoned word. FILL gives zeros. -/
def State.pieceRead (s : State) (c : CoreNum) (f : FifoCmd) (p : Piece) : (List Byte × Option Nat) × State :=
  match p.src with
  | some (.dev pa) =>
    if s.classOf pa = .csr then ((s.csrLoad (s.deActor c f) none pa p.len, none), s) else s.homeRead pa p.len
  | some (.host pa) =>
    let (bs, s) := s.hostRead pa p.len
    ((bs, none), s)
  | _ => ((List.replicate p.len 0, none), s)

/-- A part copied from a source that is not on another device (R343, R344). -/
def State.copyPiece (s : State) (c : CoreNum) (f : FifoCmd) (ch index i : Nat) (p : Piece) : State :=
  let ((bs, bad), s) := s.pieceRead c f p
  let poison := match p.src, bad with | some (.dev pa), some _ => poisonedDst pa p.dst.addr p.len s.mem.poison | _, _ => []
  let detail := match p.src, bad with | some t, some w => p.poisonDetail (w - t.addr) | _, _ => 0
  s.landPiece c f ch index i p bs poison detail

/-- A target on another device. -/
def Tgt.isRemote : Tgt → Bool
  | .remote _ _ => true
  | _ => false

/-- The source of a part lies on another device. -/
def Piece.fromFar (p : Piece) : Bool := match p.src with | some t => t.isRemote | none => false

/-- A part whose source on another device did not come: its destination words are poisoned (table Operations on a dead device). -/
def State.poisonPiece (s : State) (c : CoreNum) (f : FifoCmd) (ch index i : Nat) (p : Piece) : State :=
  s.landPiece c f ch index i p (List.replicate p.len 0) (wordsOf p.dst.addr p.len) (p.poisonDetail 0)

/-- The parts of a block from one to another, with their numbers. -/
def DeBlock.part (b : DeBlock) (lo hi : Nat) : List (Nat × Piece) :=
  ((b.pieces.mapIdx (fun i p => (i, p))).take hi).drop lo

/-- What some requests of a block send as they are issued: READs of sources on other devices, WRITEs toward other devices (R343,
R345). -/
def State.blockSends (s : State) (c : CoreNum) (f : FifoCmd) (ch index : Nat) (ps : List (Nat × Piece)) : State :=
  ps.foldl (fun s ip =>
    let (i, p) := ip
    match p.src with
    | some (.remote d pa) =>
      if s.isDead d.toNat then s.poisonPiece c f ch index i p
      else s.request 0 (accessPacket d pa (s.ownerNiche c) (s.ownerCtx c) ch p.len []) (.block c f.launch index i true)
    | _ => if p.dst.isRemote then s.copyPiece c f ch index i p else s) s

/-- A change to a started block. -/
def State.updBlock (s : State) (c : CoreNum) (index : Nat) (g : DeBlock → DeBlock) : State :=
  s.updDe c (fun m => { m with run := m.run.map (fun r => { r with blocks := r.blocks.map (fun b => if b.index = index then g b else b) }) })

/-- The requests of a block up to one are issued. -/
def State.issueParts (s : State) (c : CoreNum) (f : FifoCmd) (b : DeBlock) (hi : Nat) : State :=
  (s.updBlock c b.index (fun b => { b with issued := max b.issued hi })).blockSends c f (fld b.w2 46 4) b.index (b.part b.issued hi)

/-- The window lines that the host must give up for some parts (R461). -/
def State.pieceLines (s : State) (ps : List Piece) : List Nat :=
  ps.flatMap (fun p =>
    (match p.src with | some (.dev a) => s.linesHeld a p.len false | _ => []) ++
    (match p.dst with | .dev a => s.linesHeld a p.len true | _ => []))

/-- The address of a block's first byte written, as LOST_STORE names it. -/
def State.firstDst (s : State) (ps : List Piece) : Nat :=
  match ps with
  | p :: _ => (match p.dst with | .dev a => s.globalPa a | .remote d a => d.toNat * 2 ^ 48 + a | .host a => a)
  | [] => 0

/-- A valid entry whose count can be taken starts (R340, R342, R345): a REL block behind a lost store is discarded. How many of its
requests are issued at once is open (R343). -/
def State.startBlock (s : State) (c : CoreNum) (r : DeRun) (e : BlockWords) (ps : List Piece) : State :=
  let open_ := r.blocks.filter (fun b => !b.performed)
  let ch := fld e.w2 46 8
  let held := s.pieceLines (ps.filter (fun p => p.dst.isRemote && !p.fromFar))
  if farBlock ps && (ch / 16 != (s.ownerCtx c).toNat || ch % 16 == 15) then s.deRaise c 0x0B r.cmd 0
  else if (bit e.w2 55 && !open_.isEmpty) || open_.any (fun b => clash ps b.pieces) then s
  else if !held.isEmpty then s.recall held
  else
    let s := if bit e.w2 38 && !r.taken then s.semSub c (fld e.w2 32 6) 1 else s
    let b : DeBlock := { index := r.next, w0 := e.w0, w1 := e.w1, w2 := e.w2, w3 := e.w3, pieces := ps }
    let lost := bit e.w2 55 && (Sparse.find (s.core c).de.lost r.cmd.launch).isSome
    let first := Config.freeNat s.fresh % (ps.length + 1)
    let s : State := { s with fresh := s.fresh + 1 }
    let r := { r with ahead := r.ahead.filter (fun e => e.1 != r.next) }
    let go (b : DeBlock) (s : State) : State :=
      let r := { r with next := r.next + 1, taken := false, blocks := r.blocks ++ [b], wrote := r.wrote ++ ps.map (fun p => (p.dst, p.len)) }
      s.updDe c (fun m => { m with run := some r })
    if lost then
      (go { b with performed := true } (s.lostStore c (s.ownerNiche c) 3 0 r.cmd.launch 0 (s.firstDst ps))).deSignals c (r.blocks.length + 2)
    else ((go b s).issueParts c r.cmd b first).readAhead c

/-- BLOCK_START: the next entry of the list is read, checked, takes its count or waits for it, and starts. -/
def execBlockStart (c : CoreNum) (s : State) : Host.Outcome State Fault Refusal :=
  .next (match (s.core c).de.run with
    | some r =>
      let open_ := r.blocks.filter (fun b => !b.performed)
      if !s.runs c || !r.isList || r.count ≤ r.next || r.waiting || 6 ≤ open_.length || open_.any (fun b => bit b.w2 55) then s
      else
        match s.readEntry c r r.next with
        | (.wait, s) => s
        | (.fault code d, s) => s.deRaise c code r.cmd d
        | (.words e, s) =>
          let r := if r.ahead.any (fun x => x.1 == r.next) then r else { r with ahead := r.ahead ++ [(r.next, some e.bytes)] }
          let s := s.updDe c (fun m => { m with run := some r })
          if !e.ok then s.deRaise c 0x0B r.cmd 0
          else if bit e.w2 38 && !r.taken && !s.semCan c (fld e.w2 32 6) 1 then
            (s.updDe c (fun m => { m with run := some { r with waiting := true } })).semQueue c (fld e.w2 32 6) .deBlock 1 []
          else
            match s.blockPieces c r.cmd.super e with
            | (.error (.fault code d), s) => s.deRaise c code r.cmd d
            | (.error _, s) => s
            | (.ok ps, s) => s.startBlock c r e ps
    | none => s)

/-- A part that neither comes from another device nor goes there. -/
def Piece.near (p : Piece) : Bool := !p.fromFar && !p.dst.isRemote

/-- Parts of a block on this device and in the host are copied, while its command runs. -/
def State.copyParts (s : State) (c : CoreNum) (f : FifoCmd) (b : DeBlock) (ps : List (Nat × Piece)) : State :=
  ps.foldl (fun s ip =>
    if (s.core c).de.run.isNone || !ip.2.near then s else s.copyPiece c f (fld b.w2 46 4) b.index ip.1 ip.2) s

/-- The bytes that a block both reads and writes, by target. -/
def ownOverlap (ps : List Piece) : List (Tgt × Nat) :=
  ps.flatMap (fun p => ps.filterMap (fun q =>
    match q.src, p.dst with
    | some (.dev b), .dev a => if overlaps a p.len b q.len then some (.dev (max a b), min (a + p.len) (b + q.len) - max a b) else none
    | some (.host b), .host a => if overlaps a p.len b q.len then some (.host (max a b), min (a + p.len) (b + q.len) - max a b) else none
    | _, _ => none))

/-- The overlap of a block's own source and destination holds unpredictable values (R338). -/
def State.blurOverlap (s : State) (b : DeBlock) : State := (ownOverlap b.pieces).foldl (fun s x => s.scrambleTgt x.1 x.2) s

/-- The ends of a part that this device's homes serve can be reached. -/
def State.pieceReach (s : State) (c : CoreNum) (p : Piece) : Bool :=
  (match p.src with | some t => s.reaches c t | none => true) && s.reaches c p.dst

/-- The parts of a block that has come back with its context translated again, from its entry's words (R343). -/
def State.renewBlock (s : State) (c : CoreNum) (r : DeRun) (b : DeBlock) : State :=
  match s.blockPieces c r.cmd.super ⟨b.w0, b.w1, b.w2, b.w3⟩ with
  | (.error (.fault code d), s) => s.deRaise c code r.cmd d
  | (.error _, s) => s
  | (.ok ps, s) => s.updBlock c b.index (fun b => { b with pieces := ps, stale := false })

/-- BLOCK_PERFORMED: block idx of those started has its last write performed; signals follow in entry order. Requests that are still
to be issued are issued first; where the context is to be pre-empted they are not, and what is issued is performed (R343). -/
def execBlockPerformed (c : CoreNum) (idx : Nat) (s : State) : Host.Outcome State Fault Refusal :=
  .next (match (s.core c).de.run with
    | some r =>
      match r.blocks[idx]? with
      | some b =>
        let n := b.pieces.length
        let last := if s.runs c then n else b.issued
        let near := (b.part b.done last).filter (fun ip => ip.2.near)
        let held := s.pieceLines (near.map (·.2))
        if b.performed || !s.drains c then s
        else if b.stale then (if s.runs c then s.renewBlock c r b else s)
        else if (b.part b.issued last).any (fun ip => !ip.2.near) then s.issueParts c r.cmd b n
        else if s.blockBusy c r.cmd.launch b.index || !near.all (fun ip => s.pieceReach c ip.2) then s
        else if !held.isEmpty then s.recall held
        else
          let s := s.meshFlit.copyParts c r.cmd b near
          if (s.core c).de.run.isNone then s
          else if last < n then s.updBlock c b.index (fun b => { b with done := last })
          else ((s.blurOverlap b).updBlock c b.index (fun b => { b with performed := true })).deSignals c (r.blocks.length + 1)
      | none => s
    | none => s)

/-! ## Stores and loads at their homes (R281, R302) -/

/-- A lane of a store performed at its home; what a release wrote is noted (R295). -/
def State.performLane (s : State) (c : CoreNum) (e : StoreEntry) (x : LaneAcc) : State :=
  match x.tgt with
  | .dev a =>
    if s.classOf a = .csr then s.csrStore (.job (s.ownerNiche c)) a x.bytes
    else if e.rel.isSome then (s.homeWrite a x.bytes).noteStore c e x
    else s.homeWrite a x.bytes
  | .host a => (s.noteStore c e x).hostWrite a x.bytes
  | .remote _ _ => s

/-- The lines that the host must give up before an outstanding access of n bytes (R461). -/
def State.laneHeld (s : State) (n : Nat) (write : Bool) (x : LaneAcc) : List Nat :=
  match x.tgt with
  | .dev a => s.linesHeld a n write
  | _ => []

/-- Whether an access on its way may be performed now: in its turn, and with its home awake (R52, R292). -/
def State.lands (s : State) (c : CoreNum) (x : LaneAcc) : Bool :=
  s.inTurn c x && (match x.tgt with | .dev a => s.awake (some (regionOf c)) a | _ => true)

/-- STORE_ACK: entry idx of the stores on their way is performed at its home and acknowledged, behind the accesses to that home
that were accepted before it (R292), once the host has given up its window lines (R461). -/
def execStoreAck (c : CoreNum) (idx : Nat) (s : State) : Host.Outcome State Fault Refusal :=
  .next (match (s.core c).storesOut[idx]? with
    | some e =>
      let held := e.lanes.flatMap (fun x => s.laneHeld x.bytes.length true x)
      if !s.drains c || !e.lanes.all (s.lands c) then s
      else if !held.isEmpty then s.recall held
      else ((e.lanes.foldl (fun s x => s.performLane c e x) s.meshFlit).updCore c (fun k => { k with storesOut := k.storesOut.eraseIdx idx })).goLoads c
    | none => s)

/-- The stream that an entry belongs to. -/
def streamOf (c : CoreNum) (slot : Option (BitVec 5)) : Strm :=
  match slot with
  | some g => .ve ⟨c, g⟩
  | none => .se c

/-- A lane of a load that still waits: its bytes from its home or from the cache, its poison, or nothing yet. -/
def State.answerLane (s : State) (c : CoreNum) (e : LoadEntry) (x : LaneAcc) : Got × State :=
  let n := e.size
  if x.cache then s.lineRead c (s.lineOf x.tgt) (x.tgt.addr % 64) n x.va
  else if x.port = 0 || !s.lands c x then (.wait, s)
  else
    let checked (bs : List Byte) (s : State) : State := if e.acq then s.scopeCheck (streamOf c e.slot) x.scope.toNat x.tgt bs x.va else s
    match x.tgt with
    | .dev a =>
      if s.classOf a = .csr then (.bytes (s.csrLoad (.job (s.ownerNiche c)) (some c) a n), s)
      else
        let ((bs, p), s) := s.homeRead a n
        (match p with
         | some w => (.poison (if x.va = 2 ^ 58 then paDetail w else vaDetail x.va .load), s)
         | none => (.bytes bs, checked bs s))
    | .host a =>
      let (bs, s) := s.hostRead a n
      (.bytes bs, checked bs s)
    | .remote _ _ => (.wait, s)

/-- An exception of a stream at an address, naming a lane. -/
def State.strmRaise (s : State) (t : Strm) (lane pc code : Nat) (detail : W64) : State :=
  match t with
  | .se c => s.seRaise c pc code detail
  | .ve g =>
    match s.group g.core g.slot.toNat with
    | some x => s.veRaise g x lane pc code detail
    | none => s

/-- The precise exception of an outstanding load (R142): it waits until the older loads of its stream are performed, and the older
stores performed or lost; the younger stores that have not left have no effect. -/
def State.loadFault (s : State) (c : CoreNum) (e : LoadEntry) (lane code : Nat) (detail : W64) : State :=
  let k := s.core c
  let mine (x : StoreEntry) : Bool := x.slot == e.slot
  if (k.buffer e.slot).any (fun x => mine x && decide (x.num < e.num)) || k.storesOut.any mine ||
      s.tr.ops.any (fun o => isStoreOp c e.slot false o.purpose) || k.loads.any (fun x => x.slot == e.slot && decide (x.num < e.num)) then s
  else
    let older (es : List StoreEntry) : List StoreEntry := es.filter (fun x => !(mine x && decide (e.num < x.num)))
    (s.updCore c (fun k => { k with loads := k.loads.filter (fun x => x.id != e.id)
                                    se := { k.se with buffer := older k.se.buffer }
                                    ve := { k.ve with buffer := older k.ve.buffer } })).strmRaise (streamOf c e.slot) lane e.pc.toNat code detail

/-- A change to an entry of the loads outstanding. -/
def State.updLoad (s : State) (c : CoreNum) (id : Nat) (f : LoadEntry → LoadEntry) : State :=
  s.updCore c (fun k => { k with loads := k.loads.map (fun e => if e.id = id then f e else e) })

/-- A lane's answer put in place. -/
def LoadEntry.answered (e : LoadEntry) (lane : Nat) (bs : List Byte) : LoadEntry :=
  { e with lanes := e.lanes.map (fun x => if x.lane = lane then { x with bytes := bs } else x) }

/-- The exception that a lane met. -/
def LoadEntry.fails (e : LoadEntry) (lane code : Nat) (detail : W64) : LoadEntry :=
  { e with lanes := e.lanes.map (fun x => if x.lane = lane then { x with bad := some (code, detail) } else x) }

/-- One lane more of a load answered. -/
def State.answerStep (c : CoreNum) (e : LoadEntry) (s : State) (x : LaneAcc) : State :=
  if !x.bytes.isEmpty || x.bad.isSome || e.atom.isSome then s
  else
    match s.answerLane c e x with
    | (.bytes bs, s) => s.updLoad c e.id (fun e => e.answered x.lane bs)
    | (.poison d, s) => s.updLoad c e.id (fun e => e.fails x.lane 6 d)
    | (_, s) => s

/-- LOAD_RESPONSE: entry idx of the loads outstanding takes what its homes on this device, the host and the cache give, each behind
the accesses accepted before it (R292). The load ends with its registers or with the exception of its lowest raising lane (R141). -/
def execLoadResponse (c : CoreNum) (idx : Nat) (s : State) : Host.Outcome State Fault Refusal :=
  .next (match (s.core c).loads[idx]? with
    | some e =>
      let held := (e.lanes.filter (fun x => !x.cache && x.bytes.isEmpty)).flatMap (s.laneHeld e.size false)
      if !s.drains c then s
      else if !held.isEmpty then s.recall held
      else
        let s := e.lanes.foldl (State.answerStep c e) s.meshFlit
        match (s.core c).loads.find? (fun x => x.id == e.id) with
        | some e =>
          match ended e.lanes with
          | .fault lane code d => s.loadFault c e lane code d
          | _ => (s.settleLoads c).goLoads c
        | none => s
    | none => s)

/-! ## Host accesses (R453 to R455) -/

/-- The doorbell that aperture 0 of a profile function reaches at an offset. -/
def State.profileBell (s : State) (n : NicheNum) (off bytes : Nat) (v : W64) : State :=
  let q : QueueNum := BitVec.ofNat 12 (off / 8)
  if off < 0x8000 ∧ (s.queue q).niche = n then s.csrWrite (.job n) (0x210_0000 + off) bytes v else s

/-- The memory of a niche in the Jexlor profile, as ranges of local physical addresses: its pools, its shelf segment and the
drawers of its region (R414, table Apertures). -/
def State.profileRanges (s : State) (n : NicheNum) : List (Nat × Nat) :=
  (s.poolsOf n).map (fun q => (q.2.1 % 2 ^ 48, q.2.2)) ++
    (s.granted n).flatMap (fun r => [(shelfBase (BitVec.ofNat 6 r), 0x200_0000), (drawerBase (coreAt (BitVec.ofNat 6 r) 0), 0x100_0000)])

/-- Whether an access lies in that memory. -/
def State.inProfile (s : State) (n : NicheNum) (a bytes : Nat) : Bool := (s.profileRanges n).any (fun q => within a bytes q.1 q.2)

/-- A host access through aperture 1 of a profile function: a place of the niche's memory, or a hole (R37, R453). Which place an
offset names is open. -/
def State.profileAccess (s : State) (n : NicheNum) (off bytes : Nat) (wr : Option W64) : State :=
  let a := Config.jexlorPlace (s.profileRanges n) off
  let there := s.inProfile n a bytes
  match wr with
  | some v =>
    let s := s.count 113 bytes
    if there then s.homeWrite a (leBytes bytes v.toNat) else s.hole a true
  | none =>
    let s := s.count 112 bytes
    let (bs, s) : List Byte × State := if there then (let ((bs, _), s) := s.homeRead a bytes; (bs, s)) else ([], s.hole a false)
    { s with qcl := { s.qcl with lastRead := BitVec.ofNat 64 (leNat bs) } }

/-- A host access of function 0: aperture 0 is the control and status space, aperture 1 the local physical addresses. What a
read returns is kept as the last data read. -/
def State.hostFn0 (s : State) (aperture : Bool) (off bytes : Nat) (wr : Option W64) : State :=
  let pa := if aperture then off else 0x3000_0000_0000 + off
  let isCsr := !aperture || decide (s.classOf pa = .csr)
  match wr with
  | some v =>
    let s := s.count 113 bytes
    if isCsr then s.csrStore .supervisor pa (leBytes bytes v.toNat) else s.homeWrite pa (leBytes bytes v.toNat)
  | none =>
    let s := s.count 112 bytes
    let (bs, s) : List Byte × State :=
      if isCsr then (s.csrLoad .supervisor none pa bytes, s)
      else let ((bs, _), s) := s.homeRead pa bytes; (bs, s)
    { s with qcl := { s.qcl with lastRead := BitVec.ofNat 64 (leNat bs) } }

/-- Whether the drawer that a host access reaches answers (R52). -/
def State.hostAwake (s : State) (x : HostAcc) : Bool :=
  let n : NicheNum := BitVec.ofNat 6 (x.func.toNat - 1)
  if !x.aperture then true
  else if x.func = 0 then s.awake none x.off
  else
    let a := Config.jexlorPlace (s.profileRanges n) x.off
    !s.inProfile n a x.bytes || s.awake none a

/-- A host access performed. -/
def State.hostServe (s : State) (x : HostAcc) : State :=
  let n : NicheNum := BitVec.ofNat 6 (x.func.toNat - 1)
  if x.func = 0 then (if !x.aperture && decide (2 ^ 32 ≤ x.off) then s else s.hostFn0 x.aperture x.off x.bytes x.wr)
  else if 64 < x.func.toNat ∨ bit (s.niche n).control 1 = false then s
  else if x.aperture then s.profileAccess n x.off x.bytes x.wr
  else
    match x.wr with
    | some v => (s.count 113 x.bytes).profileBell n x.off x.bytes v
    | none => { s.count 112 x.bytes with qcl := { s.qcl with lastRead := 0 } }

/-- A host access performed, or put last among those that wait: for a sleeping drawer, or behind an earlier one of its function
(R52, R454, R455). -/
def State.takeHost (s : State) (x : HostAcc) : State :=
  if s.qcl.hostWait.any (fun y => y.func == x.func) || !s.hostAwake x then
    { s with qcl := { s.qcl with hostWait := s.qcl.hostWait ++ [x] } }
  else s.hostServe x

/-- The host accesses that wait, tried again in order. -/
def State.serveHost (s : State) : State :=
  if s.qcl.hostWait.isEmpty then s
  else s.qcl.hostWait.foldl (fun s x => s.takeHost x) { s with qcl := { s.qcl with hostWait := [] } }

/-- HOST_ACCESS: an access by the host through an aperture of a function while the port carries traffic. -/
def execHostAccess (func : BitVec 7) (aperture : Bool) (off : BitVec 48) (bytes : Nat) (wr : Option W64) (s : State) :
    Host.Outcome State Fault Refusal :=
  .next (if s.hostUp then s.takeHost { func := func, aperture := aperture, off := off.toNat, bytes := bytes, wr := wr } else s)

end Sys2Proof.Machine
end

