-- ==== Sys2Proof/Machine/Branch.lean ====
section
/-! DEFINITION. Branches, jumps and exit, OP 0x10 (R132, R110). -/

namespace Sys2Proof.Machine

/-- The address of a relative branch: PC + 8 × IMM. -/
def branchTo (pc : W64) (imm : W32) : W64 := pc + 8 * imm.signExtend 64

/-- What is wrong with a jump target: 2 PAGE_FAULT when bits [63:57] are not zero, else 4 MISALIGNED (table Exceptions raised to a job). -/
def jumpFault (target : W64) : Option Nat :=
  if fld target 57 7 != 0 then some 2 else if target.toNat % 8 != 0 then some 4 else none

/-- A relative branch, with a link when asked. -/
def State.branch (s : State) (t : Strm) (link : Bool) (f : IFmt) : Host.Outcome State Fault Refusal :=
  let w := encI 0x10 link.toNat f
  match t with
  | .se c => s.seIssue c w [] (if link then some f.dst.toNat else none) false (fun s =>
      some (s.updCore c (fun k =>
        let e := if link then k.se.setReg f.dst.toNat (k.se.pc + 8) else k.se
        { k with se := { e with pc := branchTo k.se.pc f.imm } })))
  | .ve g => s.veIssue g w [] (if link then [f.dst.toNat, f.dst.toNat + 1] else []) false (fun s x pc act =>
      let y := if link then x.writePairs act f.dst.toNat (fun _ => BitVec.ofNat 64 pc + 8) else x
      some (s.setGroup g.core g.slot.toNat (y.mapLanes act (fun _ t => { t with pc := branchTo (BitVec.ofNat 64 pc) f.imm }))))

/-- A jump to a register's target, with a link when asked. -/
def State.jump (s : State) (t : Strm) (link : Bool) (f : IFmt) : Host.Outcome State Fault Refusal :=
  let w := encI 0x10 (if link then 3 else 2) f
  match t with
  | .se c => s.seIssue c w [(0, f.src1.toNat)] (if link then some f.dst.toNat else none) false (fun s =>
      let target := (s.core c).se.reg f.src1.toNat
      match jumpFault target with
      | some code => s.seFault c code (vaDetail target.toNat .fetch)
      | none =>
        some (s.updCore c (fun k =>
          let e := if link then k.se.setReg f.dst.toNat (k.se.pc + 8) else k.se
          { k with se := { e with pc := target } })))
  | .ve g =>
    s.veIssue g w [(1, f.src1.toNat), (1, f.src1.toNat + 1)] (if link then [f.dst.toNat, f.dst.toNat + 1] else []) false
      (fun s x pc act =>
        match act.find? (fun l => (jumpFault (x.pair l f.src1.toNat)).isSome) with
        | some l =>
          let target := x.pair l f.src1.toNat
          s.veFault g x l pc ((jumpFault target).getD 0) (vaDetail target.toNat .fetch)
        | none =>
          let y := if link then x.writePairs act f.dst.toNat (fun _ => BitVec.ofNat 64 pc + 8) else x
          some (s.setGroup g.core g.slot.toNat (y.mapLanes act (fun l t => { t with pc := x.pair l f.src1.toNat }))))

/-- BR: PC + 8 × IMM. -/
def execBr (t : Strm) (f : IFmt) (s : State) : Host.Outcome State Fault Refusal := s.branch t false f

/-- BL: as BR, with the link. -/
def execBl (t : Strm) (f : IFmt) (s : State) : Host.Outcome State Fault Refusal := s.branch t true f

/-- JR: to a register's target. -/
def execJr (t : Strm) (f : IFmt) (s : State) : Host.Outcome State Fault Refusal := s.jump t false f

/-- JLR: as JR, with the link. -/
def execJlr (t : Strm) (f : IFmt) (s : State) : Host.Outcome State Fault Refusal := s.jump t true f

/-- EXIT: the thread exits, or the SE's queue entry ends, subject to KERNEL_END (R110, R124). It waits while an older store toward
another device may still be refused there (R142, R437). -/
def execExit (t : Strm) (f : IFmt) (s : State) : Host.Outcome State Fault Refusal :=
  let w := encI 0x10 4 f
  match t with
  | .se c => s.seIssue c w [] none true (fun s => if s.farStores c none then none else some (s.updCore c (fun k => { k with se := { k.se with ended := true } })))
  | .ve g => s.veIssue g w [] [] true (fun s x pc act => if s.farStores g.core (some g.slot) then none else some (s.exitLanes g x pc act))

end Sys2Proof.Machine
end

