-- ==== Sys2Proof/Machine/Remote.lean ====
section
/-! DEFINITION. Packets of other devices as they arrive: remote reads, writes, atomics, contributions, fences and leases at
their home, answers to this device's own operations, and dead devices (R311, R414, R433, R436 to R440, R444 to R448). -/

namespace Sys2Proof.Machine

/-! ## For whom a packet is (R414, R433) -/

/-- The niche of the Jexlor profile that answers to an identifier (R414). -/
def State.profileFor (s : State) (d : BitVec 14) : Option NicheNum :=
  (s.niches.find? (fun p =>
    let n : NicheNum := BitVec.ofNat 6 p.1
    bit p.2.control 1 && fld p.2.profileId 0 14 == d.toNat && (s.granted n).length == 1)).map (fun p => BitVec.ofNat 6 p.1)

/-- Whether a packet ends here: at the device, or at a profile niche. -/
def State.mine (s : State) (d : BitVec 14) : Option (Option NicheNum) :=
  if s.disc.idValid && d == s.disc.deviceId then some none
  else (s.profileFor d).map some

/-- The answer to a request: a RESP (3) or an ACK (4) with its STATUS and data. -/
def State.answer (s : State) (kind : BitVec 4) (k : Packet) (status : Nat) (data : List Byte) : State :=
  s.send kind { Packet.empty with status := BitVec.ofNat 4 status, src := k.dst, dst := k.src, niche := k.niche, channel := k.channel,
                                  sys := k.sys, addr := k.addr, tag := k.tag, lengthM1 := BitVec.ofNat 12 (data.length - 1), data := data } none

/-! ## Admission (R437, R438, R448) -/

/-- Bytes that an access reaches at its home: the local address and the count that LENGTH_M1 gives. -/
def pktLocal (k : Packet) : Nat := fld k.addr 0 48
def pktBytes (k : Packet) : Nat := k.lengthM1.toNat + 1

/-- Whether word 0 of a valid export entry admits a packet's source device and niche. -/
def admitsSource (w : W64) (k : Packet) : Bool :=
  bit w 0 && (bit w 17 || fld w 3 14 == k.src.toNat) && (bit w 24 || fld w 18 6 == k.niche.toNat)

/-- Both words of a TR_EXPORT entry. -/
def State.export_ (s : State) (e : Nat) : W64 × W64 := (Sparse.getD s.tr.exports (2 * e) 0, Sparse.getD s.tr.exports (2 * e + 1) 0)

/-- An entry with a range, export window or donor pool, in force (R448). -/
def State.rangeEntry (s : State) (donor : Bool) (k : Packet) (w : W64 × W64) : Bool :=
  admitsSource w.1 k && bit w.1 1 == donor && !bit w.1 25 && (s.tierOf (exportRange w.2).1 (exportRange w.2).2).isSome

/-- Whether the whole access lies in a frame leased to the source, or in a window that admits it (R437). -/
def State.admitted (s : State) (prof : Option NicheNum) (write : Bool) (k : Packet) (a bytes : Nat) : Bool :=
  (s.tr.leases.any (fun l => l.device == k.src && l.niche == k.niche && within a bytes l.base 0x20_0000) ||
    (List.range 64).any (fun e =>
      let w := s.export_ e
      s.rangeEntry false k w && (!write || bit w.1 2) && within a bytes (exportRange w.2).1 (exportRange w.2).2)) &&
    (match prof with | some n => s.inProfile n a bytes | none => true)

/-- The host lines that an admitted access of a packet meets. -/
def State.packetLines (s : State) (write : Bool) (k : Packet) (bytes : Nat) : List Nat :=
  match s.mine k.dst with
  | some prof => if s.admitted prof write k (pktLocal k) bytes then s.linesHeld (pktLocal k) bytes write else []
  | none => []

/-- Whether the home that an admitted access of a packet reaches answers (R52). -/
def State.packetAwake (s : State) (write : Bool) (k : Packet) (bytes : Nat) : Bool :=
  match s.mine k.dst with
  | some prof => !s.admitted prof write k (pktLocal k) bytes || s.awake none (pktLocal k)
  | none => true

/-! ## READ, WRITE, ATOMIC at their home (R436, R437) -/

/-- A READ performed: its data, POISONED when a word of it is. -/
def State.serveRead (s : State) (prof : Option NicheNum) (k : Packet) : State :=
  if !s.admitted prof false k (pktLocal k) (pktBytes k) then s.answer 3 k 1 []
  else
    let ((bs, bad), s) := s.homeRead (pktLocal k) (pktBytes k)
    s.answer 3 k (if bad.isSome then 3 else 0) bs

/-- A WRITE performed, and its poison with it. -/
def State.serveWrite (s : State) (prof : Option NicheNum) (k : Packet) : State :=
  if !s.admitted prof true k (pktLocal k) (pktBytes k) then s.answer 4 k 1 []
  else
    let s := s.homeWrite (pktLocal k) (fitBytes (pktBytes k) k.data)
    let s : State := if k.status = 3 then { s with mem := s.mem.addPoison (wordsOf (pktLocal k) (pktBytes k)) } else s
    s.answer 4 k 0 []

/-- Width of an ATOMIC, and the bytes of each lane's operands: an expected value follows the new one for a compare and swap. -/
def pktWidth (k : Packet) : Nat := 2 ^ k.size.toNat
def pktLane (k : Packet) : Nat := if k.op = 9 then 2 * (pktWidth k) else (pktWidth k)

/-- The operands of an ATOMIC in lane order, with the expected values. -/
def pktOperands (k : Packet) : List (Nat × Nat) :=
  (List.range (k.lanes.toNat + 1)).map (fun i =>
    let d := (k.data.drop (i * (pktLane k))).take (pktLane k)
    (leNat (d.take (pktWidth k)), leNat (d.drop (pktWidth k))))

/-- An ATOMIC whose fields are those of an operation that exists: its FN, its SIZE, alignment, and an operand for each lane. -/
def pktAtomicOk (k : Packet) : Bool :=
  decide (k.op.toNat ≤ 10) && (k.size == 2 || k.size == 3) && !(k.op == 10 && k.size == 3) && decide ((pktLocal k) % (pktWidth k) = 0) &&
    decide (k.data.length = (k.lanes.toNat + 1) * (pktLane k))

/-- An ATOMIC performed: one old value for each lane; a poisoned word stays as it is (R313). -/
def State.serveAtomic (s : State) (prof : Option NicheNum) (k : Packet) : State :=
  if !(pktAtomicOk k) || !s.admitted prof true k (pktLocal k) (pktWidth k) then s.answer 3 k 1 []
  else
    let s := s.inject (pktLocal k) (pktWidth k)
    if s.mem.poisoned (pktLocal k) (pktWidth k) then s.answer 3 k 3 []
    else
      let ((olds, _), s) := s.atomAt (.dev (pktLocal k)) k.op.toNat (pktWidth k) (pktOperands k)
      s.answer 3 k 0 (olds.flatMap (leBytes (pktWidth k)))

/-! ## CONTRIB (R249, R354) -/

/-- The launch in flight whose context a contribution's channel names, with a reduction of the index. -/
def State.contribLaunch (s : State) (k : Packet) (idx : Nat) : Option Nat :=
  (s.fe.launches.find? (fun l => l.2.niche == k.niche && l.2.ctx.toNat == k.channel.toNat / 16 && l.2.ended.isNone &&
    ((s.maq? l.2.niche l.2.maq).bind (fun m => m.reds[idx]?)).isSome)).map (·.1)

/-- Values of a partial as a packet carries them; none marks a poisoned one. -/
def pktValues (k : Packet) (x80 : Bool) : List (Option X80) :=
  let w := if x80 then 16 else 8
  let bs := fitBytes (pktBytes k) k.data
  (List.range ((pktBytes k) / w)).map (fun i =>
    if k.status = 3 then none else some (BitVec.ofNat 80 (leNat ((bs.drop (i * w)).take (if x80 then 10 else 5)))))

/-- The partial of rank (f, g, c) of a reduction arrives, in as many packets as it needs, in order; a rank out of range or repeated,
or values that the declaration does not give, are refused (R249). Every addition behind it is made here (assumption log, 38). -/
def State.serveContrib (s : State) (k : Packet) : State :=
  let f := fld k.arg 30 14
  let g := fld k.arg 44 6
  let c := fld k.arg 50 7
  match s.contribLaunch k (fld k.arg 0 16) with
  | none => s.answer 4 k 1 []
  | some l =>
    match s.redFor l (fld k.arg 0 16) with
    | (none, s) => s.answer 4 k 1 []
    | (some i, s) =>
      match s.fe.reds[i]? with
      | none => s.answer 4 k 1 []
      | some r =>
        let flat := (f * r.g + g) * r.c + c
        let vs := ((r.arriving.find? (fun a => a.1 == flat)).map (·.2)).getD [] ++ pktValues k r.x80
        let others := r.arriving.filter (fun a => a.1 != flat)
        let w := if r.x80 then 16 else 8
        if !r.accepts r.x80 r.rows r.cols f g c || pktBytes k % w != 0 || decide (r.rows * r.cols < vs.length) then s.answer 4 k 1 []
        else if vs.length < r.rows * r.cols then (s.setRed { r with arriving := others ++ [(flat, vs)] }).answer 4 k 0 []
        else (s.accept i { r with arriving := others } flat vs).answer 4 k 0 []

/-! ## FENCE (R438) -/

/-- Whether an entry admits a FENCE packet. -/
def fenceEntry (k : Packet) (w : W64 × W64) : Bool :=
  admitsSource w.1 k && bit w.1 25 && !bit w.1 1 && !bit w.1 2 && fld w.2 0 48 == 0 && fld w.1 26 6 == fld k.addr 0 6

/-- A FENCE packet sets its fence, or is refused; its ACK travels on system channel 2. -/
def State.serveFence (s : State) (k : Packet) : State :=
  let back := { k with sys := true, channel := 2 }
  if (List.range 64).any (fun e => fenceEntry k (s.export_ e)) && decide (fld k.addr 6 56 < 1024) then
    (s.setFence (BitVec.ofNat 6 (fld k.addr 0 6)) (fld k.addr 6 10) k.arg (2 ^ 12)).answer 4 back 0 []
  else s.answer 4 back 1 []

/-! ## Leases (R439, R440) -/

/-- The lowest free frame of the donor entries that admit a requester. -/
def State.donorFrame (s : State) (k : Packet) : Option Nat :=
  let used := s.tr.leases.map (fun l => (l.base, 0x20_0000)) ++
    (s.place.frames.filter (fun f => s.isLocal f.2.1)).map (fun f => (f.2.1 % 2 ^ 48, f.2.2))
  (List.range 64).findSome? (fun e =>
    let w := s.export_ e
    if s.rangeEntry true k w then
      gapIn used ((exportRange w.2).1 + (exportRange w.2).2) 0x20_0000 (used.length + 1) (exportRange w.2).1
    else none)

/-- A LEASE packet back to the requester: a frame granted (count 1), or none (count 0). -/
def State.leaseReply (s : State) (k : Packet) (base count : Nat) : State :=
  s.send 7 { leasePacket k.src base k.niche 1 count with src := k.dst, tag := k.tag, addr := BitVec.ofNat 62 (k.dst.toNat * 2 ^ 48 + base) } none

/-- Up to a count of frames granted one by one, each zeroed first. -/
def State.grantFrames (s : State) (k : Packet) : Nat → State
  | 0 => s
  | n + 1 =>
    match s.donorFrame k with
    | some b =>
      let s : State := { s with mem := s.mem.zero b 0x20_0000
                                tr := { s.tr with leases := s.tr.leases ++ [{ device := k.src, niche := k.niche, base := b }] } }
      (s.leaseReply k b 1).grantFrames k n
    | none => s

/-- A donor takes a frame back: zeroed, and free. -/
def State.takeBack (s : State) (p : Lease → Bool) : State :=
  (s.tr.leases.filter p).foldl (fun s l => { s with mem := s.mem.zero l.base 0x20_0000 })
    { s with tr := { s.tr with leases := s.tr.leases.filter (fun l => !p l) } }

/-- A request for a frame that no peer serves is not made again in this epoch (DESIGN CHOICE, assumption log 84). -/
def State.leaseRefused (s : State) (n : NicheNum) : State :=
  { s with place := { s.place with refused := if s.place.refused.contains n then s.place.refused else s.place.refused ++ [n] } }

/-- A LEASE packet served: a request (0), a grant that answers this device's request (1), a return (2). -/
def State.serveLease (s : State) (k : Packet) : State :=
  match fld k.arg 0 8 with
  | 0 =>
    if (s.donorFrame k).isNone || fld k.arg 8 56 == 0 then s.leaseReply k 0 0
    else s.grantFrames k (fld k.arg 8 56)
  | 1 =>
    match s.tr.ops.find? (fun o => o.tag == k.tag && o.device == k.src) with
    | some o =>
      match o.purpose with
      | .lease n =>
        let s : State := { s with tr := { s.tr with
          ops := s.tr.ops.filter (fun x => x.tag != o.tag), heard := Sparse.put s.tr.heard k.src.toNat s.ns } }
        if fld k.arg 8 56 = 0 then s.leaseRefused n else { s with tr := { s.tr with held := s.tr.held ++ [(n, k.addr.toNat)] } }
      | _ => s
    | none => s
  | 2 =>
    let mine (l : Lease) : Bool := l.device == k.src && l.niche == k.niche && l.base == (pktLocal k)
    if s.tr.leases.any mine then (s.takeBack mine).answer 4 k 0 [] else s.answer 4 k 1 []
  | _ => s.answer 4 k 1 []

/-! ## Answers (R436, R437, R445) -/

/-- How an operation toward another device ended. -/
inductive Answer where
  | ok (bs : List Byte)
  | denied
  | poisoned (bs : List Byte)
  | dead
deriving DecidableEq, Repr

/-- Exception code of a load or atomic that ended so: ACCESS when denied, POISON otherwise. -/
def Answer.code : Answer → Nat
  | .denied => 3
  | _ => 6

/-- Bytes that an answer brought. -/
def Answer.bytes : Answer → List Byte
  | .ok bs => bs
  | .poisoned bs => bs
  | _ => []

/-- The entry of the loads outstanding with a number. -/
def State.loadEntry (s : State) (c : CoreNum) (id : Nat) : Option LoadEntry := (s.core c).loads.find? (fun e => e.id == id)

/-- The virtual address of a lane of an entry. -/
def LoadEntry.vaOf (e : LoadEntry) (lane : Nat) : Nat := ((e.lanes.find? (fun x => x.lane == lane)).map (·.va)).getD 0

/-- A lane of a load answered: of an LD.ACQ what it read is checked (R295). -/
def State.endLoad (s : State) (c : CoreNum) (id lane : Nat) (a : Answer) : State :=
  match s.loadEntry c id with
  | none => s
  | some e =>
    match a with
    | .ok bs =>
      let bs := fitBytes e.size bs
      let s := match e.acq, e.lanes.find? (fun x => x.lane == lane) with
        | true, some x => s.scopeCheck (streamOf c e.slot) x.scope.toNat x.tgt bs x.va
        | _, _ => s
      ((s.updLoad c id (fun e => e.answered lane bs)).settleLoads c).goLoads c
    | a => (s.updLoad c id (fun e => e.fails lane a.code (vaDetail (e.vaOf lane) .load))).goLoads c

/-- Whether the stream that issued an access is still there. -/
def State.streamThere (s : State) (c : CoreNum) (slot : Option (BitVec 5)) (gid : Nat) : Bool :=
  let k := s.core c
  match slot with
  | none => k.se.entry.isSome && k.se.gid == gid
  | some g => match Sparse.find k.ve.groups g.toNat with | some x => x.seed == gid | none => false

/-- The ACCESS of a store that its home refused, kept in the place of its instruction among the outstanding accesses: LOAD_RESPONSE
raises it once what is older has been performed (R142, R437). -/
def State.storeDenied (s : State) (c : CoreNum) (slot : Option (BitVec 5)) (gid lane : Nat) (pc : W64) (va num : Nat) : State :=
  if !s.streamThere c slot gid then s
  else
    let x : LaneAcc := { lane := lane, va := va, tgt := .dev 0, cache := false, bytes := [], bad := some (3, vaDetail va .store) }
    s.updCore c (fun k => { k with loads := k.loads ++
      [{ id := k.newLoad, num := num, slot := slot, dst := none, size := 1, sx := false, pc := pc, lanes := [x] }] })

/-- A store toward another device answered. -/
def State.endStore (s : State) (c : CoreNum) (slot : Option (BitVec 5)) (gid lane : Nat) (pc : W64) (va : Nat) (n : NicheNum)
    (num gpa : Nat) (a : Answer) : State :=
  match a with
  | .ok _ => s.goLoads c
  | .dead => (s.lostStore c n slot.isSome.toNat (match slot with | some g => g.toNat | none => 0) gid lane gpa).goLoads c
  | _ => (s.storeDenied c slot gid lane pc va num).goLoads c

/-- The buffered store lanes that wait for a line of another device leave, refused or lost. -/
def State.dropLineStores (s : State) (c : CoreNum) (line : Nat) (a : Answer) : State :=
  let own := s.myDevice
  let waits (x : LaneAcc) : Bool := x.cache && lineAddr x.tgt own == line
  let k := s.core c
  let es := k.se.buffer ++ k.ve.buffer
  let cut (es : List StoreEntry) : List StoreEntry :=
    (es.map (fun e => if e.rel.isSome then e else { e with lanes := e.lanes.filter (fun x => !waits x) })).filter
      (fun e => !e.lanes.isEmpty || e.stat.isSome)
  let s := s.updCore c (fun k => { k with se := { k.se with buffer := cut k.se.buffer }, ve := { k.ve with buffer := cut k.ve.buffer } })
  (es.filter (·.rel.isNone)).foldl (fun s e => (e.lanes.filter waits).foldl (fun s x =>
    s.endStore c e.slot e.gid x.lane e.pc x.va (s.ownerNiche c) e.num (line + x.tgt.addr % 64) a) s) s

/-- The line of a miss came from another device, or did not come (R84, R436, R445); one that comes waits for the write-back buffer
(R85). -/
def State.endFill (s : State) (c : CoreNum) (line : Nat) (a : Answer) : State :=
  let d := (s.core c).dc
  let come (bs : List Byte) (poison : List Nat) : State :=
    if d.fillWaits line then s.updCore c (fun k => { k with dc := { k.dc with arrived := some (fitBytes 64 bs, poison) } })
    else s.fillLine c line (fitBytes 64 bs) poison
  if d.miss.map (·.1) != some line then s
  else
    match a with
    | .ok bs => come bs []
    | .poisoned bs => come bs (List.range 8)
    | a =>
      let own := s.myDevice
      let s := s.updCore c (fun k => { k with
        dc := { k.dc with miss := none, arrived := none },
        loads := k.loads.map (fun e => (e.lanes.filter (fun x => x.cache && x.bytes.isEmpty && lineAddr x.tgt own == line)).foldl
          (fun e x => e.fails x.lane a.code (vaDetail x.va .load)) e) })
      ((s.dropLineStores c line a).flushGo c).goLoads c

/-- A line write-back answered: lost ones set their writers' flags (R305), the write-back buffer is free again (R85), and what waited
goes on. A refused one has no stream to raise ACCESS and is dropped (DESIGN CHOICE, assumption log 85). -/
def State.endBack (s : State) (c : CoreNum) (why : BackWhy) (n : NicheNum) (ws : List Writer) (gpa : Nat) (a : Answer) : State :=
  let s := if a = .dead then s.lostLine c n ws gpa else s
  let s := if why == .buffer && (s.core c).dc.wbSent && s.backsOf c .buffer == 0 then
      s.updCore c (fun k => { k with dc := { k.dc with wb := none, wbSent := false } })
    else s
  (s.flushGo c).goLoads c

/-- The streams of a core. -/
def State.streams (s : State) (c : CoreNum) : List Strm :=
  .se c :: (s.core c).ve.groups.map (fun p => .ve ⟨c, BitVec.ofNat 5 p.1⟩)

/-- A line of instructions came from another device, or did not: the streams that fetch from it raise their exception. -/
def State.endFetch (s : State) (c : CoreNum) (line : Nat) (a : Answer) : State :=
  match a with
  | .ok bs => if (s.core c).ic.has line then s else s.updCore c (fun k => { k with ic := k.ic.fill line (fitBytes 64 bs) })
  | a =>
    (s.streams c).foldl (fun s t =>
      match s.fetchAt t with
      | some (pc, lane) =>
        match (s.translate (some c) (s.ownerNiche c) pc .fetch).1 with
        | .ok tg _ => if s.lineOf tg = line then (s.strmFault t lane pc a.code (vaDetail pc .fetch)).getD s else s
        | _ => s
      | none => s) s

/-- A merged atomic answered: its old values in lane order, with the flags of an FADD; or its exception. -/
def State.endAtomic (s : State) (c : CoreNum) (id fn gpa : Nat) (lanes : List (Nat × W64)) (a : Answer) : State :=
  match s.loadEntry c id with
  | none => s
  | some e =>
    match a with
    | .ok bs =>
      let n := e.size
      let olds := lanes.mapIdx (fun i l => (l.1, fitBytes n ((bs.drop (i * n)).take n), l.2))
      let flags : Byte := if fn = 10 then olds.foldl (fun f o => f ||| (atomOp 10 n (leNat o.2.1) (o.2.2.toNat % 2 ^ 32) 0).2) 0 else 0
      let s := s.strmFlags (streamOf c e.slot) flags
      ((s.updLoad c id (fun e => olds.foldl (fun e o => e.answered o.1 o.2.1) e)).settleLoads c).goLoads c
    | a =>
      let t := streamOf c e.slot
      let s := if a = .dead then
          lanes.foldl (fun s l => s.lostStore c (s.ownerNiche c) e.slot.isSome.toNat (strmNum t) (s.gidOf t) l.1 gpa) s
        else s
      (s.updLoad c id (fun e => lanes.foldl (fun e l => e.fails l.1 a.code (vaDetail (e.vaOf l.1) .atomic)) e)).goLoads c

/-- The running block list of a launch on a core, its block and its part. -/
def State.blockPart (s : State) (c : CoreNum) (l index piece : Nat) : Option (DeRun × DeBlock × Piece) :=
  match (s.core c).de.run with
  | some r =>
    if r.cmd.launch != l then none
    else
      match r.blocks.find? (fun b => b.index == index) with
      | some b => (b.pieces[piece]?).map (fun p => (r, b, p))
      | none => none
  | none => none

/-- A part of a block answered: its source came, or its destination was written (R344, R345, R437). -/
def State.endBlock (s : State) (c : CoreNum) (l index piece : Nat) (isRead : Bool) (gpa : Nat) (a : Answer) : State :=
  match s.blockPart c l index piece with
  | none => if a = .dead && !isRead then s.lostStore c (s.ownerNiche c) 3 0 l 0 gpa else s
  | some (r, b, p) =>
    let ch := fld b.w2 46 4
    match isRead, a with
    | true, .ok bs => s.landPiece c r.cmd ch index piece p (fitBytes p.len bs) [] 0
    | true, .poisoned bs => s.landPiece c r.cmd ch index piece p (fitBytes p.len bs) (wordsOf p.dst.addr p.len) (p.poisonDetail 0)
    | true, .dead => s.poisonPiece c r.cmd ch index piece p
    | true, .denied => s.deRaise c 3 r.cmd (match p.srcVa with | some va => vaDetail va .load | none => paDetail gpa)
    | false, .ok _ => s
    | false, .dead => s.lostStore c (s.ownerNiche c) 3 0 l 0 gpa
    | false, _ => s.deRaise c 3 r.cmd (match p.dstVa with | some va => vaDetail va .store | none => paDetail gpa)

/-- An entry of a block list came, or did not. -/
def State.endListEntry (s : State) (c : CoreNum) (l index : Nat) (a : Answer) : State :=
  match (s.core c).de.run with
  | some r =>
    if r.cmd.launch != l then s
    else
      let keep (b : Option (List Byte)) : State := s.updDe c (fun m => { m with run := some { r with ahead := r.ahead ++ [(index, b)] } })
      match a with
      | .ok bs => keep (some (fitBytes 32 bs))
      | .denied => s.deRaise c 3 r.cmd (vaDetail (r.entryAt index) .load)
      | _ => keep none
  | none => s

/-- A result write of the armature answered (R251). -/
def State.endArmature (s : State) (l index va gpa : Nat) (a : Answer) : State :=
  match s.fe.reds.find? (fun r => r.launch == l && r.index == index) with
  | none => s
  | some r =>
    match a with
    | .ok _ => s
    | .dead => (s.logError { cause := 0x2A, loc := 0, niche := some r.niche, addr := gpa, aspace := 1 }).endLaunch l 0x0D
    | _ => s.redFault r 3 va

/-- A part of a page that moves came from the old frame, or reached the new one; a write that fails ends the move with the
old frame kept. A part of a zero fill that fails ends the backing (R268). -/
def State.endPage (s : State) (n : NicheNum) (va off : Nat) (isRead : Bool) (a : Answer) : State :=
  match s.fillOf n va, a with
  | some _, .ok _ => s
  | some g, _ =>
    ({ s with place := { s.place with fills := s.place.fills.filter (· != g) } } : State).freeFrameOf n g.frame
  | none, a =>
    match s.place.migs.findIdx? (fun g => g.niche == n && g.va == va && g.copying) with
    | none => s
    | some i =>
      match s.place.migs[i]? with
      | none => s
      | some g =>
        let to_ := g.newFrame.toNat % 2 ^ 48 + off
        match isRead, a with
        | true, .ok bs => { s with mem := s.mem.store to_ (fitBytes 4096 bs) }
        | true, a => { s with mem := (s.mem.store to_ (fitBytes 4096 a.bytes)).addPoison (wordsOf to_ 4096) }
        | false, .ok _ => s
        | false, _ =>
          let s := if s.mem.poisoned g.leafAddr 8 then s else s.setLeaf g.leafAddr (setBit (s.mem.word g.leafAddr) 10 false)
          s.dropMove i g

/-- What the answer to an operation completes. -/
def State.finishOp (s : State) (o : RemoteOp) (a : Answer) : State :=
  match o.purpose with
  | .load c id lane => s.endLoad c id lane a
  | .fill c line => s.endFill c line a
  | .fetch c line => s.endFetch c line a
  | .atomic c id fn lanes => s.endAtomic c id fn o.addr lanes a
  | .store c slot gid lane pc va n num => s.endStore c slot gid lane pc va n num o.addr a
  | .writeback c why n ws => s.endBack c why n ws o.addr a
  | .block c l index piece isRead => s.endBlock c l index piece isRead o.addr a
  | .listEntry c l index => s.endListEntry c l index a
  | .armature l index va => s.endArmature l index va o.addr a
  | .fenceSignal q seq =>
    match a with
    | .ok _ => s.conclude q seq 1 0
    | .dead => s.conclude q seq 0x0D 0
    | _ => s.conclude q seq 8 6
  | .completion q seq =>
    match a with
    | .ok _ => s
    | a =>
      let s := s.updEntry q seq (fun e => { e with cwLost := true })
      if a = .dead then s.queueLost (s.queue q).niche o.addr else s
  | .entry q seq =>
    let ws := match a with | .ok bs => some (wordsOfBytes bs 8) | _ => none
    s.updQueue q (fun x => { x with ahead := x.ahead ++ [(seq, ws)] })
  | .source q seq off =>
    let part := match a with | .ok bs => (off, bs, false) | _ => (off, [], true)
    let s := s.updEntry q seq (fun e => { e with got := e.got ++ [part] })
    if s.tr.ops.any (fun x => match x.purpose with | .source q' seq' _ => q' == q && seq' == seq | _ => false) then s
    else s.resumeSource q seq
  | .ring q =>
    match a with
    | .ok _ => s
    | a => (if a = .dead then s.queueLost (s.queue q).niche o.addr else s).ringFault q
  | .castList _ => s
  | .lease n => (match a with | .ok _ => s | _ => if o.addr % 2 ^ 48 = 0 then s.leaseRefused n else s)
  | .page n va off isRead => s.endPage n va off isRead a
  | .sink r => match a with | .ok _ => s.sinkCopied r | _ => s

/-- Whether an operation is answered by a RESP; else by an ACK (R436). -/
def RemoteUse.reads : RemoteUse → Bool
  | .load _ _ _ | .fill _ _ | .fetch _ _ | .atomic _ _ _ _ | .listEntry _ _ _ | .entry _ _ | .source _ _ _ => true
  | .block _ _ _ _ isRead => isRead
  | .page _ _ _ isRead => isRead
  | _ => false

/-- The operation that an answer is for. -/
def State.opOf (s : State) (isResp : Bool) (k : Packet) : Option RemoteOp :=
  s.tr.ops.find? (fun o => o.tag == k.tag && o.device == k.src && o.purpose.reads == isResp)

/-- The host lines that the data of an answer would land on. -/
def State.answerLines (s : State) (isResp : Bool) (k : Packet) : List Nat :=
  match s.opOf isResp k with
  | some o =>
    match o.purpose with
    | .block c l index piece true =>
      match s.blockPart c l index piece with
      | some (_, _, p) => (match p.dst with | .dev a => s.linesHeld a p.len true | _ => [])
      | none => []
    | .page n va off true =>
      match s.place.migs.find? (fun g => g.niche == n && g.va == va && g.copying) with
      | some g => s.linesHeld (g.newFrame.toNat % 2 ^ 48 + off) 4096 true
      | none => []
    | _ => []
  | none => []

/-- Whether the drawer that the data of an answer land in answers (R52). -/
def State.answerAwake (s : State) (isResp : Bool) (k : Packet) : Bool :=
  match (s.opOf isResp k).map (·.purpose) with
  | some (RemoteUse.block c l index piece true) =>
    (match s.blockPart c l index piece with
     | some (_, _, p) => (match p.dst with | .dev a => s.awake (some (regionOf c)) a | _ => true)
     | none => true)
  | _ => true

/-- An answer taken: UNREACHABLE is remembered and the operation stays (R444); any other ends it. -/
def State.serveAnswer (s : State) (isResp : Bool) (k : Packet) : State :=
  match s.opOf isResp k with
  | none => s
  | some o =>
    let t := k.src.toNat
    let done (a : Answer) : State :=
      ({ s with tr := { s.tr with ops := s.tr.ops.filter (fun x => x.tag != o.tag), unreachable := s.tr.unreachable.filter (· != t)
                                  heard := Sparse.put s.tr.heard t s.ns } } : State).finishOp o a
    match k.status.toNat with
    | 0 => done (.ok k.data)
    | 1 => done .denied
    | 2 => { s with tr := { s.tr with unreachable := insNat s.tr.unreachable t } }
    | 3 => done (.poisoned k.data)
    | _ => s

/-! ## The receive buffer of a port (R427, R429, R433) -/

/-- The frames that a request for leases would be given, one by one. -/
def State.donorFrames (s : State) (k : Packet) : Nat → List Nat
  | 0 => []
  | n + 1 =>
    match s.donorFrame k with
    | some b =>
      b :: ({ s with tr := { s.tr with leases := s.tr.leases ++ [{ device := k.src, niche := k.niche, base := b }] } } : State).donorFrames k n
    | none => []

/-- The host lines in the frames that a LEASE packet grants or gives back. -/
def State.leaseLines (s : State) (k : Packet) : List Nat :=
  match fld k.arg 0 8 with
  | 0 => (s.donorFrames k (fld k.arg 8 56)).flatMap (fun b => s.linesHeld b 0x20_0000 true)
  | 2 => s.linesHeld (pktLocal k) 0x20_0000 true
  | _ => []

/-- The host lines that serving a packet of a KIND meets (R461). -/
def State.packetHeld (s : State) (kind : BitVec 4) (k : Packet) : List Nat :=
  match kind.toNat with
  | 0 => s.packetLines false k (pktBytes k)
  | 1 => s.packetLines true k (pktBytes k)
  | 2 => s.packetLines true k (pktWidth k)
  | 3 => s.answerLines true k
  | 7 => s.leaseLines k
  | _ => []

/-- Whether the drawer that serving a packet reaches answers (R52). -/
def State.packetReady (s : State) (kind : BitVec 4) (k : Packet) : Bool :=
  match kind.toNat with
  | 0 => s.packetAwake false k (pktBytes k)
  | 1 => s.packetAwake true k (pktBytes k)
  | 2 => s.packetAwake true k (pktWidth k)
  | 3 => s.answerAwake true k
  | _ => true

/-- A packet served by its KIND, for the device or a profile niche. -/
def State.servePacket (s : State) (prof : Option NicheNum) (kind : BitVec 4) (k : Packet) : State :=
  match kind.toNat with
  | 0 => s.serveRead prof k
  | 1 => s.serveWrite prof k
  | 2 => s.serveAtomic prof k
  | 3 => s.serveAnswer true k
  | 4 => s.serveAnswer false k
  | 5 => s.serveContrib k
  | 6 => s.serveFence k
  | 7 => s.serveLease k
  | _ => s

/-- A packet in a port's receive buffer served, or sent on (R433), its units returned (R427); false where host lines must be recalled
first (R461), or a drawer sleeps (R52). -/
def State.tryPacket (s : State) (p : PortNum) (kind : BitVec 4) (k : Packet) : Bool × State :=
  match s.mine k.dst with
  | none => (true, (s.returnUnits p k).forwardPacket kind k (some p.toNat))
  | some prof =>
    if !(s.packetHeld kind k).isEmpty then (false, s.recall (s.packetHeld kind k))
    else if !s.packetReady kind k then (false, s)
    else (true, (s.returnUnits p k).servePacket prof kind k)

/-- Packets of one channel from one source to one destination, which keep their order (R429). -/
def sameFlow (a b : Packet) : Bool :=
  a.src == b.src && a.dst == b.dst && a.niche == b.niche && a.channel == b.channel && a.sys == b.sys

/-- A packet served, or put last into the receive buffer. -/
def State.takePacket (s : State) (p : PortNum) (kind : BitVec 4) (k : Packet) : State :=
  let keep (s : State) : State := s.updPort p (fun x => { x with rx := x.rx ++ [(kind, k)] })
  if (s.port p).rx.any (fun q => sameFlow q.2 k) then keep s
  else
    match s.tryPacket p kind k with
    | (true, s) => s
    | (false, s) => keep s

/-- The packets that wait in a port's receive buffer, tried again in order. -/
def State.servePort (s : State) (p : PortNum) : State :=
  (s.port p).rx.foldl (fun s q => s.takePacket p q.1 q.2) (s.updPort p (fun x => { x with rx := [] }))

/-- A packet of a KIND that arrives on a port (R521). -/
def State.packetIn (s : State) (p : PortNum) (kind : BitVec 4) (k : Packet) : State :=
  if (s.port p).state != 2 then s
  else (s.received p (packetUnits k)).takePacket p kind k

/-- READ. -/
def execRead (p : PortNum) (k : Packet) (s : State) : Host.Outcome State Fault Refusal := .next (s.packetIn p 0 k)

/-- WRITE. -/
def execWrite (p : PortNum) (k : Packet) (s : State) : Host.Outcome State Fault Refusal := .next (s.packetIn p 1 k)

/-- ATOMIC. -/
def execAtomic (p : PortNum) (k : Packet) (s : State) : Host.Outcome State Fault Refusal := .next (s.packetIn p 2 k)

/-- RESP. -/
def execResp (p : PortNum) (k : Packet) (s : State) : Host.Outcome State Fault Refusal := .next (s.packetIn p 3 k)

/-- ACK. -/
def execAck (p : PortNum) (k : Packet) (s : State) : Host.Outcome State Fault Refusal := .next (s.packetIn p 4 k)

/-- CONTRIB_PACKET. -/
def execContribPacket (p : PortNum) (k : Packet) (s : State) : Host.Outcome State Fault Refusal := .next (s.packetIn p 5 k)

/-- FENCE. -/
def execFence (p : PortNum) (k : Packet) (s : State) : Host.Outcome State Fault Refusal := .next (s.packetIn p 6 k)

/-- LEASE. -/
def execLease (p : PortNum) (k : Packet) (s : State) : Host.Outcome State Fault Refusal := .next (s.packetIn p 7 k)

/-- The packets that wait in the receive buffers, tried again. -/
def State.servePorts (s : State) : State :=
  (s.tr.ports.filter (fun p => !p.2.rx.isEmpty)).foldl (fun s p => s.servePort (BitVec.ofNat 6 p.1)) s

/-- What the block does while no command waits: a nanosecond passes, and packets, host accesses and line requests that wait are tried
again. -/
def State.idle (s : State) : State := s.tick.servePorts.serveLines.serveHost

/-! ## Dead devices (R444, R445) -/

/-- The ports of the first hop toward a device. -/
def State.hopPorts (s : State) (t : Nat) : List Nat :=
  if bit s.tr.control 0 then
    let e := Sparse.getD s.tr.routes t 0
    if bit e 0 then [fld e 1 6] else []
  else
    match torusHop s.torus.2.1 s.myDevice t with
    | some (dir, _) => s.bundle dir
    | none => []

/-- The second condition of R444: eight failed replays on the first hop, no port UP there, or UNREACHABLE. -/
def State.cutOff (s : State) (t : Nat) : Bool :=
  (s.hopPorts t).all (fun p => !s.portUp p) || (s.hopPorts t).any (fun p => decide (8 < (s.port (BitVec.ofNat 6 p)).replays)) ||
    s.tr.unreachable.contains t

/-- The INCARNATION that a device last gave. -/
def State.lastIncarnation (s : State) (t : BitVec 14) : BitVec 16 :=
  match s.tr.ports.find? (fun p => p.2.peerId == t) with
  | some p => p.2.peerInc
  | none => 0

/-- A target declared dead: its record, the end of every operation toward it, its leases taken back, its frames lost. -/
def State.declareDead (s : State) (t : BitVec 14) : State :=
  let inc := s.lastIncarnation t
  let ops := s.tr.ops.filter (fun o => o.device == t)
  let s := s.mapPorts (fun _ x => { x with parked := x.parked.filter (fun q => !(q.2.dst == t && q.2.src == s.disc.deviceId)) })
  let s : State := { s with tr := { s.tr with
    dead := Sparse.put s.tr.dead t.toNat inc, ops := s.tr.ops.filter (fun o => o.device != t),
    unreachable := s.tr.unreachable.filter (· != t.toNat), held := s.tr.held.filter (fun h => h.2 / 2 ^ 48 != t.toNat) } }
  let s := s.logError { cause := 0x2B, loc := 0, detail := pack [(0, 14, t.toNat), (14, 16, inc.toNat)] }
  let s := ops.foldl (fun s o => s.finishOp o .dead) s
  s.takeBack (fun l => l.device == t)

/-- The first condition of R444: a request to a device has been outstanding for 50 µs without an answer from it. -/
def State.silentDevice (s : State) (t : BitVec 14) : Bool :=
  s.tr.ops.any (fun o => o.device == t && decide (o.since + 50000 ≤ s.ns)) &&
    (match Sparse.find s.tr.heard t.toNat with | some n => decide (n + 50000 ≤ s.ns) | none => true)

/-- DEVICE_DEAD: nothing came from a device for 50 µs while a request to it is outstanding, and it is cut off. -/
def execDeviceDead (t : BitVec 14) (s : State) : Host.Outcome State Fault Refusal :=
  .next (if s.isDead t.toNat || !s.silentDevice t || !s.cutOff t.toNat then s else s.declareDead t)

end Sys2Proof.Machine
end

