-- ==== Sys2Proof/Machine/Scalar.lean ====
section
/-! DEFINITION. Scalar integer instructions, OP 0x01 to 0x05 (table Scalar, predicate and vector arithmetic). -/

namespace Sys2Proof.Machine

/-- The scalar registers that an instruction names in SRC1 and SRC2. -/
def sReads (f : RFmt) : List (Nat × Nat) := [(0, f.src1.toNat), (0, f.src2.toNat)]

/-- OP 0x01 FN 0 to 14: sD from sA and sB. -/
def State.salu (s : State) (c : CoreNum) (fn : Nat) (f : RFmt) : Host.Outcome State Fault Refusal :=
  s.seReg c (encR 1 fn f) (sReads f) f.dst.toNat (fun e =>
    let r := intOp 64 fn (f.sat == 1) (e.reg f.src1.toNat).toNat (e.reg f.src2.toNat).toNat
    (BitVec.ofNat 64 r.1, r.2))

/-- ADD: OP 0x01 FN 0. -/
def execAdd (c : CoreNum) (f : RFmt) (s : State) : Host.Outcome State Fault Refusal := s.salu c 0 f

/-- SUB: OP 0x01 FN 1. -/
def execSub (c : CoreNum) (f : RFmt) (s : State) : Host.Outcome State Fault Refusal := s.salu c 1 f

/-- MUL: OP 0x01 FN 2. -/
def execMul (c : CoreNum) (f : RFmt) (s : State) : Host.Outcome State Fault Refusal := s.salu c 2 f

/-- MULH: OP 0x01 FN 3. -/
def execMulh (c : CoreNum) (f : RFmt) (s : State) : Host.Outcome State Fault Refusal := s.salu c 3 f

/-- MULHU: OP 0x01 FN 4. -/
def execMulhu (c : CoreNum) (f : RFmt) (s : State) : Host.Outcome State Fault Refusal := s.salu c 4 f

/-- AND: OP 0x01 FN 5. -/
def execAnd (c : CoreNum) (f : RFmt) (s : State) : Host.Outcome State Fault Refusal := s.salu c 5 f

/-- OR: OP 0x01 FN 6. -/
def execOr (c : CoreNum) (f : RFmt) (s : State) : Host.Outcome State Fault Refusal := s.salu c 6 f

/-- XOR: OP 0x01 FN 7. -/
def execXor (c : CoreNum) (f : RFmt) (s : State) : Host.Outcome State Fault Refusal := s.salu c 7 f

/-- SHL: OP 0x01 FN 8. -/
def execShl (c : CoreNum) (f : RFmt) (s : State) : Host.Outcome State Fault Refusal := s.salu c 8 f

/-- SHR: OP 0x01 FN 9. -/
def execShr (c : CoreNum) (f : RFmt) (s : State) : Host.Outcome State Fault Refusal := s.salu c 9 f

/-- SRA: OP 0x01 FN 10. -/
def execSra (c : CoreNum) (f : RFmt) (s : State) : Host.Outcome State Fault Refusal := s.salu c 10 f

/-- MIN: OP 0x01 FN 11. -/
def execMin (c : CoreNum) (f : RFmt) (s : State) : Host.Outcome State Fault Refusal := s.salu c 11 f

/-- MAX: OP 0x01 FN 12. -/
def execMax (c : CoreNum) (f : RFmt) (s : State) : Host.Outcome State Fault Refusal := s.salu c 12 f

/-- MINU: OP 0x01 FN 13. -/
def execMinu (c : CoreNum) (f : RFmt) (s : State) : Host.Outcome State Fault Refusal := s.salu c 13 f

/-- MAXU: OP 0x01 FN 14. -/
def execMaxu (c : CoreNum) (f : RFmt) (s : State) : Host.Outcome State Fault Refusal := s.salu c 14 f

/-- SEL: sA when pC, named in SRC3, is 1, else sB. -/
def execSel (c : CoreNum) (f : RFmt) (s : State) : Host.Outcome State Fault Refusal :=
  s.seReg c (encR 1 15 f) (sReads f ++ [(2, f.src3.toNat)]) f.dst.toNat (fun e =>
    (if predOf e.preds f.src3.toNat then e.reg f.src1.toNat else e.reg f.src2.toNat, 0))

/-- SALUI: as OP 0x01 with IMM for sB. -/
def execSalui (c : CoreNum) (fn : BitVec 5) (f : IFmt) (s : State) : Host.Outcome State Fault Refusal :=
  s.seReg c (encI 2 fn.toNat f) [(0, f.src1.toNat)] f.dst.toNat (fun e =>
    (BitVec.ofNat 64 (intOp 64 fn.toNat false (e.reg f.src1.toNat).toNat (immFor 64 fn.toNat f.imm)).1, 0))

/-- SCMP: pD is sA cc sB. -/
def execScmp (c : CoreNum) (fn : BitVec 5) (f : RFmt) (s : State) : Host.Outcome State Fault Refusal :=
  s.sePred c (encR 3 fn.toNat f) (sReads f) f.dst.toNat (fun e =>
    intCmp 64 fn.toNat (e.reg f.src1.toNat).toNat (e.reg f.src2.toNat).toNat)

/-- SCMPI: as SCMP with IMM. -/
def execScmpi (c : CoreNum) (fn : BitVec 5) (f : IFmt) (s : State) : Host.Outcome State Fault Refusal :=
  s.sePred c (encI 4 fn.toNat f) [(0, f.src1.toNat)] f.dst.toNat (fun e =>
    intCmp 64 fn.toNat (e.reg f.src1.toNat).toNat (f.imm.signExtend 64).toNat)

/-- LI: IMM sign-extended. -/
def execLi (c : CoreNum) (f : IFmt) (s : State) : Host.Outcome State Fault Refusal :=
  s.seReg c (encI 5 0 f) [] f.dst.toNat (fun _ => (f.imm.signExtend 64, 0))

/-- LIH: sD[63:32] takes IMM. -/
def execLih (c : CoreNum) (f : IFmt) (s : State) : Host.Outcome State Fault Refusal :=
  s.seReg c (encI 5 1 f) [(0, f.dst.toNat)] f.dst.toNat (fun e =>
    (f.imm ++ (e.reg f.dst.toNat).setWidth 32, 0))

/-- OP 0x06: predicate logic, once on the SE and per thread on the VE. -/
def State.plog (s : State) (t : Strm) (fn : Nat) (f : RFmt) : Host.Outcome State Fault Refusal :=
  let reads := [(2, f.src1.toNat), (2, f.src2.toNat)]
  let op (p : Byte) : Bool := predOp fn (predOf p f.src1.toNat) (predOf p f.src2.toNat)
  match t with
  | .se c => s.sePred c (encR 6 fn f) reads f.dst.toNat (fun e => op e.preds)
  | .ve g => s.vePreds g (encR 6 fn f) reads f.dst.toNat (fun x l => op (x.thread l).preds)

/-- PAND: pA AND pB. -/
def execPand (t : Strm) (f : RFmt) (s : State) : Host.Outcome State Fault Refusal := s.plog t 0 f

/-- POR: pA OR pB. -/
def execPor (t : Strm) (f : RFmt) (s : State) : Host.Outcome State Fault Refusal := s.plog t 1 f

/-- PXOR: pA XOR pB. -/
def execPxor (t : Strm) (f : RFmt) (s : State) : Host.Outcome State Fault Refusal := s.plog t 2 f

/-- PANDN: pA AND NOT pB. -/
def execPandn (t : Strm) (f : RFmt) (s : State) : Host.Outcome State Fault Refusal := s.plog t 3 f

end Sys2Proof.Machine
end

