-- ==== Sys2Proof/Machine/SyncInstr.lean ====
section
/-! DEFINITION. Thread barriers, semaphores, command issue and system instructions, OP 0x28 to 0x31 and 0x3C, and words
that no engine accepts. -/

namespace Sys2Proof.Machine

/-! ## Thread barriers (R116 to R118, R296) -/

/-- OP 0x28: the active threads arrive, after their earlier stores have left the store buffer (a release at ENGINE scope). -/
def State.sync (s : State) (g : VeAt) (isBlock : Bool) (f : MFmt) : Host.Outcome State Fault Refusal :=
  s.veIssue g (encM 0x28 isBlock.toNat f) [] [] true (fun s x _ act =>
    if s.released g.core (some g.slot) 0 then some (s.arrive g x act isBlock) else none)

/-- SYNC.G. -/
def execSyncG (g : VeAt) (f : MFmt) (s : State) : Host.Outcome State Fault Refusal := s.sync g false f

/-- SYNC.B. -/
def execSyncB (g : VeAt) (f : MFmt) (s : State) : Host.Outcome State Fault Refusal := s.sync g true f

/-! ## Semaphores (R321 to R329) -/

/-- Who a stream is, as a waiter. -/
def strmWho : Strm → SemWho
  | .se _ => .se
  | .ve g => .ve g.slot

/-- The stream waits on a semaphore. -/
def State.strmWaits (s : State) (t : Strm) : State :=
  match t with
  | .se c => s.updCore c (fun k => { k with se := { k.se with semWait := true } })
  | .ve g =>
    match s.group g.core g.slot.toNat with
    | some x => s.setGroup g.core g.slot.toNat { x with semWait := true }
    | none => s

/-- A predicate result of a SEM.TRY or NSEM.TRY: the same value in every active lane (R323). -/
def State.tryResult (s : State) (t : Strm) (dst : Nat) (lanes : List Nat) (b : Bool) : State :=
  match t with
  | .se c => s.sePredResult c dst b
  | .ve g =>
    match s.group g.core g.slot.toNat with
    | some x => s.veNext g (x.writePreds lanes dst (fun _ => b)) lanes
    | none => s

/-- The issue of an I-format instruction on either engine. -/
def State.ctlIssue (s : State) (t : Strm) (w : W64) (reads : List (Nat × Nat)) (dsts : List Nat) (effectful : Bool)
    (body : State → Nat → List Nat → Option State) : Host.Outcome State Fault Refusal :=
  s.memIssue t w reads dsts effectful body

/-- SEM.SIG: a release at CORE scope. -/
def execSemSig (t : Strm) (f : IFmt) (s : State) : Host.Outcome State Fault Refusal :=
  s.ctlIssue t (encI 0x29 0 f) [] [] true (fun s _ ls =>
    if s.released (strmCore t) (strmSlot t) 1 then
      some ((s.strmNext t ls).semSignal (strmCore t) (fld f.imm 16 6) (fld f.imm 0 16) (strmWho t).engine)
    else none)

/-- SEM.WAIT: taken at once when the queue is empty and the count suffices; else the stream queues. -/
def execSemWait (t : Strm) (f : IFmt) (s : State) : Host.Outcome State Fault Refusal :=
  s.ctlIssue t (encI 0x29 1 f) [] [] true (fun s _ ls =>
    let c := strmCore t
    let i := fld f.imm 16 6
    let n := fld f.imm 0 16
    if s.semCan c i n then some ((s.semSub c i n).strmNext t ls)
    else some ((s.strmWaits t).semQueue c i (strmWho t) n ls))

/-- SEM.TRY. -/
def execSemTry (t : Strm) (f : IFmt) (s : State) : Host.Outcome State Fault Refusal :=
  s.ctlIssue t (encI 0x29 2 f) [] [] true (fun s _ ls =>
    let c := strmCore t
    let i := fld f.imm 16 6
    let n := fld f.imm 0 16
    if s.semCan c i n then some ((s.semSub c i n).tryResult t f.dst.toNat ls true)
    else some (s.tryResult t f.dst.toNat ls false))

/-- The index of a niche semaphore instruction: of the SE, or of the lowest active lane (R327). -/
def State.nsemIndex (s : State) (t : Strm) (f : IFmt) (ls : List Nat) : Nat := (s.operand t (ls.headD 0) 2 f.src1).toNat

/-- OP 0x2A: an index of 4,096 or above raises SEM_RANGE. -/
def State.nsemIssue (s : State) (t : Strm) (fn : Nat) (f : IFmt) (body : State → Nat → List Nat → Option State) :
    Host.Outcome State Fault Refusal :=
  s.ctlIssue t (encI 0x2A fn f) [(fileOf t, f.src1.toNat)] [] true (fun s pc ls =>
    let i := s.nsemIndex t f ls
    if 4096 ≤ i then s.strmFault t (ls.headD 0) pc 0x0A (BitVec.ofNat 64 i) else body s i ls)

/-- NSEM.SIG: a release at DEVICE scope that also waits for stores to other devices; discarded when one was lost (R306, R329). -/
def execNsemSig (t : Strm) (f : IFmt) (s : State) : Host.Outcome State Fault Refusal :=
  s.nsemIssue t 0 f (fun s i ls =>
    let c := strmCore t
    if !s.released c (strmSlot t) 4 then none
    else
      match s.lostOf t ls with
      | some a =>
        let (e, slot) := (strmWho t).engine
        some ((s.strmNext t ls).logError
          { cause := 0x2A, loc := dieLoc (regionOf c), core := some c, niche := (s.owner c).map (·.1), addr := a.toNat,
            aspace := 1, detail := pack [(0, 2, e), (2, 5, slot), (7, 5, s.lostLane t ls)] })
      | none => some ((s.strmNext t ls).nsemSignal (s.ownerNiche c) i (fld f.imm 0 16)
          (some (c, (strmWho t).engine))))

/-- NSEM.WAIT. -/
def execNsemWait (t : Strm) (f : IFmt) (s : State) : Host.Outcome State Fault Refusal :=
  s.nsemIssue t 1 f (fun s i ls =>
    let c := strmCore t
    let n := s.ownerNiche c
    let k := fld f.imm 0 16
    if s.nsemCan n i k then some ((s.nsemSub n i c k).strmNext t ls)
    else some ((s.strmWaits t).nsemQueue n i c (strmWho t) k ls))

/-- NSEM.TRY. -/
def execNsemTry (t : Strm) (f : IFmt) (s : State) : Host.Outcome State Fault Refusal :=
  s.nsemIssue t 2 f (fun s i ls =>
    let c := strmCore t
    let n := s.ownerNiche c
    let k := fld f.imm 0 16
    if s.nsemCan n i k then some ((s.nsemSub n i c k).tryResult t f.dst.toNat ls true)
    else some (s.tryResult t f.dst.toNat ls false))

/-! ## Command issue (R68, R69, R140) -/

/-- The command {sB, sA} of an SE instruction. -/
def Se.command (e : Se) (f : RFmt) : FifoCmd :=
  { lo := e.reg f.src1.toNat, hi := e.reg f.src2.toNat, issuer := .insn e.pc, launch := launchOf e.entry,
    rank := (match e.entry with | some x => x.rank | none => 0), node := (match e.entry with | some x => x.node | none => 0),
    super := (match e.entry with | some x => x.super | none => false) }

/-- OP 0x30 and 0x31: a release at CORE scope; a full FIFO stalls the SE (R69). -/
def State.cmdIssue (s : State) (c : CoreNum) (op : Nat) (f : RFmt) (fifo : Core → List FifoCmd)
    (put : Core → FifoCmd → Core) : Host.Outcome State Fault Refusal :=
  s.seIssue c (encR op 0 f) [(0, f.src1.toNat), (0, f.src2.toNat)] none true (fun s =>
    if 8 ≤ (fifo (s.core c)).length || !s.released c none 1 then none
    else some ((s.updCore c (fun k => put k (k.se.command f))).seNext c))

/-- MXI: into the ME issue FIFO. -/
def execMxi (c : CoreNum) (f : RFmt) (s : State) : Host.Outcome State Fault Refusal :=
  s.cmdIssue c 0x30 f (fun k => k.me.fifo) (fun k x => { k with me := { k.me with fifo := k.me.fifo ++ [x] } })

/-- DMAI: into the DE issue FIFO. -/
def execDmai (c : CoreNum) (f : RFmt) (s : State) : Host.Outcome State Fault Refusal :=
  s.cmdIssue c 0x31 f (fun k => k.de.fifo) (fun k x => { k with de := { k.de with fifo := k.de.fifo ++ [x] } })

/-! ## System (OP 0x3C) -/

/-- A 64-bit result: a scalar register, or the pair of each active lane. -/
def State.wideResult (s : State) (t : Strm) (dst : Nat) (lanes : List Nat) (v : W64) : State :=
  match t with
  | .se c => s.seResult c dst v
  | .ve g =>
    match s.group g.core g.slot.toNat with
    | some x => s.veNext g (x.writePairs lanes dst (fun _ => v)) lanes
    | none => s

/-- The destination registers of a 64-bit result. -/
def wideDst (t : Strm) (r : Nat) : List Nat := if strmVe t then [r, r + 1] else [r]

/-- TLR: the region's timeline copy (R53). -/
def execTlr (t : Strm) (f : IFmt) (s : State) : Host.Outcome State Fault Refusal :=
  s.ctlIssue t (encI 0x3C 0 f) [] (wideDst t f.dst.toNat) false (fun s _ ls =>
    some (s.wideResult t f.dst.toNat ls (s.region (regionOf (strmCore t))).tl))

/-- ARITH_FLAGS of a stream's engine. -/
def State.flagsOf (s : State) (t : Strm) : Byte :=
  let k := s.core (strmCore t)
  if strmVe t then k.ve.flags else k.se.flags

/-- Whether a transcendental result of the stream's group is still to come. -/
def State.xfPending (s : State) (t : Strm) : Bool :=
  match t with
  | .se _ => false
  | .ve g => (s.core g.core).ve.xf.any (fun x => x.slot == g.slot)

/-- ARITH_FLAGS as a group's FLGR reads it. Whether the value includes a flag of another group's instruction in flight is
unpredictable (R175): each flag that such an instruction may set goes by a free bit. -/
def State.flagsSeen (s : State) (g : VeAt) : Byte × State :=
  let k := s.core g.core
  let xfs := (k.ve.xf.filter (fun x => x.slot != g.slot)).foldl (fun f x => f ||| x.flags) 0
  let adds := k.loads.any (fun e => e.slot.isSome && e.slot != some g.slot && (match e.atom with | some (fn, _) => fn == 10 | none => false))
  let others := if adds then xfs ||| flNV ||| flIV ||| flOF ||| flUF ||| flNX else xfs
  if others = 0 then (k.ve.flags, s)
  else
    let (w, s) := s.takeWord
    (k.ve.flags ||| (w.setWidth 8 &&& others), s)

/-- FLGR: ARITH_FLAGS, once every older instruction of the stream has completed (R175). -/
def execFlgr (t : Strm) (f : IFmt) (s : State) : Host.Outcome State Fault Refusal :=
  s.ctlIssue t (encI 0x3C 1 f) [] [f.dst.toNat] true (fun s _ ls =>
    if s.xfPending t then none
    else
      match t with
      | .se c => some (s.seResult c f.dst.toNat ((s.flagsOf t).setWidth 64))
      | .ve g =>
        match s.group g.core g.slot.toNat with
        | some x =>
          let (v, s) := s.flagsSeen g
          some (s.veNext g (x.writeLanes ls f.dst.toNat (fun _ => v.setWidth 32)) ls)
        | none => none)

/-- FLGC: the bits of ARITH_FLAGS where the mask is 1 are cleared. -/
def execFlgc (t : Strm) (f : IFmt) (s : State) : Host.Outcome State Fault Refusal :=
  s.ctlIssue t (encI 0x3C 2 f) [] [] true (fun s _ ls =>
    let m := f.imm.setWidth 8
    let s := match t with
      | .se c => s.updCore c (fun k => { k with se := { k.se with flags := k.se.flags &&& ~~~m } })
      | .ve g => s.updCore g.core (fun k => { k with ve := { k.ve with flags := k.ve.flags &&& ~~~m } })
    some (s.strmNext t ls))

/-- CYC: REG_CYCLES of the region (R54). -/
def execCyc (t : Strm) (f : IFmt) (s : State) : Host.Outcome State Fault Refusal :=
  s.ctlIssue t (encI 0x3C 3 f) [] (wideDst t f.dst.toNat) false (fun s _ ls =>
    some (s.wideResult t f.dst.toNat ls (s.cyclesOf (strmCore t))))

/-- BRK: raises BREAK with its code. -/
def execBrk (t : Strm) (f : IFmt) (s : State) : Host.Outcome State Fault Refusal :=
  s.ctlIssue t (encI 0x3C 4 f) [] [] true (fun s pc ls => s.strmFault t (ls.headD 0) pc 0x0C ((f.imm &&& 0xFFFF).setWidth 64))

/-! ## Words that no engine accepts -/

/-- REGS of the launch, for the test of R131. -/
def State.regsOf (s : State) (t : Strm) : Nat :=
  match t with
  | .se _ => 0
  | .ve g => match s.group g.core g.slot.toNat with | some x => x.regs | none => 0

/-- ILLEGAL_INSTR: a word that breaks R130 raises the exception whatever its predicate. -/
def execIllegalInstr (t : Strm) (w : W64) (s : State) : Host.Outcome State Fault Refusal :=
  if legal (strmVe t) (s.regsOf t) w then .next s
  else s.memIssue t w [] [] false (fun _ _ _ => none)

end Sys2Proof.Machine
end

