-- ==== Sys2Proof/Machine/Dispatch.lean ====
section
/-! DEFINITION. The dispatch: one arm per command, each a direct call of its meaning. -/

namespace Sys2Proof.Machine

/-- The effect of a command on everything but the queue. -/
def exec (i : Instr) (s : State) : Host.Outcome State Fault Refusal :=
  match i with
  | .registerWrite a off bytes v => Sys2Proof.Machine.execRegisterWrite a off bytes v s
  | .tppsEdge phase => Sys2Proof.Machine.execTppsEdge phase s
  | .loadArm a => Sys2Proof.Machine.execLoadArm a s
  | .sourceLostTimeout => Sys2Proof.Machine.execSourceLostTimeout s
  | .holdoverExpiry => Sys2Proof.Machine.execHoldoverExpiry s
  | .bookedSlotStart port => Sys2Proof.Machine.execBookedSlotStart port s
  | .tlBookWrite a ofRegion n idx v => Sys2Proof.Machine.execTlBookWrite a ofRegion n idx v s
  | .regClockWrite a region v => Sys2Proof.Machine.execRegClockWrite a region v s
  | .clockTransitionDone region => Sys2Proof.Machine.execClockTransitionDone region s
  | .droopCycle region => Sys2Proof.Machine.execDroopCycle region s
  | .frameEnd counts => Sys2Proof.Machine.execFrameEnd counts s
  | .engineEntryFetch core e => Sys2Proof.Machine.execEngineEntryFetch core e s
  | .launchEntryStart core => Sys2Proof.Machine.execLaunchEntryStart core s
  | .kernelStart core e => Sys2Proof.Machine.execKernelStart core e s
  | .blockAdmit core => Sys2Proof.Machine.execBlockAdmit core s
  | .kernelEnd core e => Sys2Proof.Machine.execKernelEnd core e s
  | .entryComplete core e => Sys2Proof.Machine.execEntryComplete core e s
  | .barrierWatchdogExpiry core whole slot => Sys2Proof.Machine.execBarrierWatchdogExpiry core whole slot s
  | .transcendentalResult core => Sys2Proof.Machine.execTranscendentalResult core s
  | .drawerCeWriteback core => Sys2Proof.Machine.execDrawerCeWriteback core s
  | .scrubRead core word f => Sys2Proof.Machine.execScrubRead core word f s
  | .dcacheFill core => Sys2Proof.Machine.execDcacheFill core s
  | .dcacheWriteback core => Sys2Proof.Machine.execDcacheWriteback core s
  | .icacheFill t => Sys2Proof.Machine.execIcacheFill t s
  | .dcacheInitDone core => Sys2Proof.Machine.execDcacheInitDone core s
  | .icacheInitDone core => Sys2Proof.Machine.execIcacheInitDone core s
  | .dcacheWbi a core => Sys2Proof.Machine.execDcacheWbi a core s
  | .icacheInv a core => Sys2Proof.Machine.execIcacheInv a core s
  | .illegalInstr t w => Sys2Proof.Machine.execIllegalInstr t w s
  | .add core f => Sys2Proof.Machine.execAdd core f s
  | .sub core f => Sys2Proof.Machine.execSub core f s
  | .mul core f => Sys2Proof.Machine.execMul core f s
  | .mulh core f => Sys2Proof.Machine.execMulh core f s
  | .mulhu core f => Sys2Proof.Machine.execMulhu core f s
  | .and core f => Sys2Proof.Machine.execAnd core f s
  | .or core f => Sys2Proof.Machine.execOr core f s
  | .xor core f => Sys2Proof.Machine.execXor core f s
  | .shl core f => Sys2Proof.Machine.execShl core f s
  | .shr core f => Sys2Proof.Machine.execShr core f s
  | .sra core f => Sys2Proof.Machine.execSra core f s
  | .min core f => Sys2Proof.Machine.execMin core f s
  | .max core f => Sys2Proof.Machine.execMax core f s
  | .minu core f => Sys2Proof.Machine.execMinu core f s
  | .maxu core f => Sys2Proof.Machine.execMaxu core f s
  | .sel core f => Sys2Proof.Machine.execSel core f s
  | .salui core fn f => Sys2Proof.Machine.execSalui core fn f s
  | .scmp core fn f => Sys2Proof.Machine.execScmp core fn f s
  | .scmpi core fn f => Sys2Proof.Machine.execScmpi core fn f s
  | .li core f => Sys2Proof.Machine.execLi core f s
  | .lih core f => Sys2Proof.Machine.execLih core f s
  | .pand t f => Sys2Proof.Machine.execPand t f s
  | .por t f => Sys2Proof.Machine.execPor t f s
  | .pxor t f => Sys2Proof.Machine.execPxor t f s
  | .pandn t f => Sys2Proof.Machine.execPandn t f s
  | .valu g fn f => Sys2Proof.Machine.execValu g fn f s
  | .valui g fn f => Sys2Proof.Machine.execValui g fn f s
  | .addp g f => Sys2Proof.Machine.execAddp g f s
  | .popc g f => Sys2Proof.Machine.execPopc g f s
  | .clz g f => Sys2Proof.Machine.execClz g f s
  | .fadd g f => Sys2Proof.Machine.execFadd g f s
  | .fsub g f => Sys2Proof.Machine.execFsub g f s
  | .fmul g f => Sys2Proof.Machine.execFmul g f s
  | .fma g f => Sys2Proof.Machine.execFma g f s
  | .fmin g f => Sys2Proof.Machine.execFmin g f s
  | .fmax g f => Sys2Proof.Machine.execFmax g f s
  | .fabs g f => Sys2Proof.Machine.execFabs g f s
  | .fneg g f => Sys2Proof.Machine.execFneg g f s
  | .vcmp g fn f => Sys2Proof.Machine.execVcmp g fn f s
  | .vcmpFloat g fn f => Sys2Proof.Machine.execVcmpFloat g fn f s
  | .cvt g f => Sys2Proof.Machine.execCvt g f s
  | .rcp g f => Sys2Proof.Machine.execRcp g f s
  | .rsq g f => Sys2Proof.Machine.execRsq g f s
  | .sqrt g f => Sys2Proof.Machine.execSqrt g f s
  | .exp2 g f => Sys2Proof.Machine.execExp2 g f s
  | .log2 g f => Sys2Proof.Machine.execLog2 g f s
  | .sinpi g f => Sys2Proof.Machine.execSinpi g f s
  | .cospi g f => Sys2Proof.Machine.execCospi g f s
  | .vli g f => Sys2Proof.Machine.execVli g f s
  | .shfl g f => Sys2Proof.Machine.execShfl g f s
  | .bcast g f => Sys2Proof.Machine.execBcast g f s
  | .ballot g f => Sys2Proof.Machine.execBallot g f s
  | .id g f => Sys2Proof.Machine.execId g f s
  | .br t f => Sys2Proof.Machine.execBr t f s
  | .bl t f => Sys2Proof.Machine.execBl t f s
  | .jr t f => Sys2Proof.Machine.execJr t f s
  | .jlr t f => Sys2Proof.Machine.execJlr t f s
  | .exit t f => Sys2Proof.Machine.execExit t f s
  | .ld t f => Sys2Proof.Machine.execLd t f s
  | .st t f => Sys2Proof.Machine.execSt t f s
  | .ldAcq t f => Sys2Proof.Machine.execLdAcq t f s
  | .stRel t f => Sys2Proof.Machine.execStRel t f s
  | .atomAdd t f => Sys2Proof.Machine.execAtomAdd t f s
  | .atomMin t f => Sys2Proof.Machine.execAtomMin t f s
  | .atomMax t f => Sys2Proof.Machine.execAtomMax t f s
  | .atomMinu t f => Sys2Proof.Machine.execAtomMinu t f s
  | .atomMaxu t f => Sys2Proof.Machine.execAtomMaxu t f s
  | .atomAnd t f => Sys2Proof.Machine.execAtomAnd t f s
  | .atomOr t f => Sys2Proof.Machine.execAtomOr t f s
  | .atomXor t f => Sys2Proof.Machine.execAtomXor t f s
  | .atomXchg t f => Sys2Proof.Machine.execAtomXchg t f s
  | .atomCas t f => Sys2Proof.Machine.execAtomCas t f s
  | .atomFadd t f => Sys2Proof.Machine.execAtomFadd t f s
  | .ordL t f => Sys2Proof.Machine.execOrdL t f s
  | .ordS t f => Sys2Proof.Machine.execOrdS t f s
  | .ordLs t f => Sys2Proof.Machine.execOrdLs t f s
  | .cwb t f => Sys2Proof.Machine.execCwb t f s
  | .cinv t f => Sys2Proof.Machine.execCinv t f s
  | .cwbi t f => Sys2Proof.Machine.execCwbi t f s
  | .hot t f => Sys2Proof.Machine.execHot t f s
  | .cold t f => Sys2Proof.Machine.execCold t f s
  | .willNeed t f => Sys2Proof.Machine.execWillNeed t f s
  | .dontNeed t f => Sys2Proof.Machine.execDontNeed t f s
  | .tierShelf t f => Sys2Proof.Machine.execTierShelf t f s
  | .tierHbm t f => Sys2Proof.Machine.execTierHbm t f s
  | .tierBulk t f => Sys2Proof.Machine.execTierBulk t f s
  | .tierRemote t f => Sys2Proof.Machine.execTierRemote t f s
  | .pin t f => Sys2Proof.Machine.execPin t f s
  | .unpin t f => Sys2Proof.Machine.execUnpin t f s
  | .near t f => Sys2Proof.Machine.execNear t f s
  | .hintProcess n => Sys2Proof.Machine.execHintProcess n s
  | .syncG g f => Sys2Proof.Machine.execSyncG g f s
  | .syncB g f => Sys2Proof.Machine.execSyncB g f s
  | .semSig t f => Sys2Proof.Machine.execSemSig t f s
  | .semWait t f => Sys2Proof.Machine.execSemWait t f s
  | .semTry t f => Sys2Proof.Machine.execSemTry t f s
  | .nsemSig t f => Sys2Proof.Machine.execNsemSig t f s
  | .nsemWait t f => Sys2Proof.Machine.execNsemWait t f s
  | .nsemTry t f => Sys2Proof.Machine.execNsemTry t f s
  | .mxi core f => Sys2Proof.Machine.execMxi core f s
  | .dmai core f => Sys2Proof.Machine.execDmai core f s
  | .qcvt g f => Sys2Proof.Machine.execQcvt g f s
  | .qst g f => Sys2Proof.Machine.execQst g f s
  | .tlr t f => Sys2Proof.Machine.execTlr t f s
  | .flgr t f => Sys2Proof.Machine.execFlgr t f s
  | .flgc t f => Sys2Proof.Machine.execFlgc t f s
  | .cyc t f => Sys2Proof.Machine.execCyc t f s
  | .brk t f => Sys2Proof.Machine.execBrk t f s
  | .storeBufferDrain core ve idx => Sys2Proof.Machine.execStoreBufferDrain core ve idx s
  | .storeAck core idx => Sys2Proof.Machine.execStoreAck core idx s
  | .loadResponse core idx => Sys2Proof.Machine.execLoadResponse core idx s
  | .translationWalk core e slot va k => Sys2Proof.Machine.execTranslationWalk core e slot va k s
  | .multiply core => Sys2Proof.Machine.execMultiply core s
  | .drain core => Sys2Proof.Machine.execDrain core s
  | .flags core => Sys2Proof.Machine.execFlags core s
  | .spill core => Sys2Proof.Machine.execSpill core s
  | .resume core => Sys2Proof.Machine.execResume core s
  | .weightLoadDone core => Sys2Proof.Machine.execWeightLoadDone core s
  | .drainRowWrite at_ => Sys2Proof.Machine.execDrainRowWrite at_ s
  | .meCommandComplete core => Sys2Proof.Machine.execMeCommandComplete core s
  | .list core => Sys2Proof.Machine.execList core s
  | .contrib core => Sys2Proof.Machine.execContrib core s
  | .blockStart core => Sys2Proof.Machine.execBlockStart core s
  | .blockPerformed core idx => Sys2Proof.Machine.execBlockPerformed core idx s
  | .lateData core => Sys2Proof.Machine.execLateData core s
  | .armatureAdd red lo hi => Sys2Proof.Machine.execArmatureAdd red lo hi s
  | .pageBacking n va => Sys2Proof.Machine.execPageBacking n va s
  | .epochEnd => Sys2Proof.Machine.execEpochEnd s
  | .migrationComplete idx => Sys2Proof.Machine.execMigrationComplete idx s
  | .nplShoot a n v => Sys2Proof.Machine.execNplShoot a n v s
  | .shootdownDone n => Sys2Proof.Machine.execShootdownDone n s
  | .nplConfigWrite a n reg v => Sys2Proof.Machine.execNplConfigWrite a n reg v s
  | .nsemCountWrite a n k v => Sys2Proof.Machine.execNsemCountWrite a n k v s
  | .doorbell a q tail => Sys2Proof.Machine.execDoorbell a q tail s
  | .nop q => Sys2Proof.Machine.execNop q s
  | .install q => Sys2Proof.Machine.execInstall q s
  | .launch q => Sys2Proof.Machine.execLaunch q s
  | .patch q => Sys2Proof.Machine.execPatch q s
  | .abort q => Sys2Proof.Machine.execAbort q s
  | .fenceWait q => Sys2Proof.Machine.execFenceWait q s
  | .fenceSignal q => Sys2Proof.Machine.execFenceSignal q s
  | .remove q => Sys2Proof.Machine.execRemove q s
  | .nodeRelease l node => Sys2Proof.Machine.execNodeRelease l node s
  | .engineEntryWrite l node rank e => Sys2Proof.Machine.execEngineEntryWrite l node rank e s
  | .nodeComplete l node => Sys2Proof.Machine.execNodeComplete l node s
  | .entryFinal q seq => Sys2Proof.Machine.execEntryFinal q seq s
  | .fenceCycle n => Sys2Proof.Machine.execFenceCycle n s
  | .fenceTimeout q => Sys2Proof.Machine.execFenceTimeout q s
  | .feFenceWrite a n fence v => Sys2Proof.Machine.execFeFenceWrite a n fence v s
  | .queueEnable a q v => Sys2Proof.Machine.execQueueEnable a q v s
  | .queueDisable a q => Sys2Proof.Machine.execQueueDisable a q s
  | .queueResume a q => Sys2Proof.Machine.execQueueResume a q s
  | .queueReset a q => Sys2Proof.Machine.execQueueReset a q s
  | .nicheGrantWrite a n v => Sys2Proof.Machine.execNicheGrantWrite a n v s
  | .nicheControlWrite a ofQueue idx v => Sys2Proof.Machine.execNicheControlWrite a ofQueue idx v s
  | .grantClear a n v => Sys2Proof.Machine.execGrantClear a n v s
  | .grantClearDone n => Sys2Proof.Machine.execGrantClearDone n s
  | .contextPlace region n ctx => Sys2Proof.Machine.execContextPlace region n ctx s
  | .sliceEnd region => Sys2Proof.Machine.execSliceEnd region s
  | .saveComplete region => Sys2Proof.Machine.execSaveComplete region s
  | .restore region => Sys2Proof.Machine.execRestore region s
  | .suspend a n ctx => Sys2Proof.Machine.execSuspend a n ctx s
  | .hello port h => Sys2Proof.Machine.execHello port h s
  | .credit port n channel sys dl units => Sys2Proof.Machine.execCredit port n channel sys dl units s
  | .replay port seq => Sys2Proof.Machine.execReplay port seq s
  | .time port t1 t2 t3 t4 => Sys2Proof.Machine.execTime port t1 t2 t3 t4 s
  | .book port idx dir n channel valid => Sys2Proof.Machine.execBook port idx dir n channel valid s
  | .flitReject port => Sys2Proof.Machine.execFlitReject port s
  | .retrainDone port ok => Sys2Proof.Machine.execRetrainDone port ok s
  | .portEnable a port v => Sys2Proof.Machine.execPortEnable a port v s
  | .portRetrain a port => Sys2Proof.Machine.execPortRetrain a port s
  | .read port p => Sys2Proof.Machine.execRead port p s
  | .write port p => Sys2Proof.Machine.execWrite port p s
  | .atomic port p => Sys2Proof.Machine.execAtomic port p s
  | .resp port p => Sys2Proof.Machine.execResp port p s
  | .ack port p => Sys2Proof.Machine.execAck port p s
  | .contribPacket port p => Sys2Proof.Machine.execContribPacket port p s
  | .fence port p => Sys2Proof.Machine.execFence port p s
  | .lease port p => Sys2Proof.Machine.execLease port p s
  | .assign port p => Sys2Proof.Machine.execAssign port p s
  | .channelReclaim port n channel => Sys2Proof.Machine.execChannelReclaim port n channel s
  | .deviceDead dev => Sys2Proof.Machine.execDeviceDead dev s
  | .trIdWrite a v => Sys2Proof.Machine.execTrIdWrite a v s
  | .routeConfigWrite a which dev v => Sys2Proof.Machine.execRouteConfigWrite a which dev v s
  | .qclTraining peerMin peerMax => Sys2Proof.Machine.execQclTraining peerMin peerMax s
  | .qclReplay => Sys2Proof.Machine.execQclReplay s
  | .qclRetrain requested ok => Sys2Proof.Machine.execQclRetrain requested ok s
  | .hostAccess func aperture off bytes wr => Sys2Proof.Machine.execHostAccess func aperture off bytes wr s
  | .hostLineRequest line excl => Sys2Proof.Machine.execHostLineRequest line excl s
  | .hostWriteback line data => Sys2Proof.Machine.execHostWriteback line data s
  | .recallTimeout line => Sys2Proof.Machine.execRecallTimeout line s
  | .msgUnmask a m v => Sys2Proof.Machine.execMsgUnmask a m v s
  | .qclWinWrite a w v => Sys2Proof.Machine.execQclWinWrite a w v s
  | .getVersion => Sys2Proof.Machine.execGetVersion s
  | .getCapabilities => Sys2Proof.Machine.execGetCapabilities s
  | .negotiateAlgorithms => Sys2Proof.Machine.execNegotiateAlgorithms s
  | .getDigests => Sys2Proof.Machine.execGetDigests s
  | .getCertificate => Sys2Proof.Machine.execGetCertificate s
  | .challenge => Sys2Proof.Machine.execChallenge s
  | .getMeasurements => Sys2Proof.Machine.execGetMeasurements s
  | .deviceFatalRecovery cause dimms => Sys2Proof.Machine.execDeviceFatalRecovery cause dimms s
  | .firmwareWatchdog => Sys2Proof.Machine.execFirmwareWatchdog s
  | .regulatorFault region => Sys2Proof.Machine.execRegulatorFault region s
  | .errRelease a v => Sys2Proof.Machine.execErrRelease a v s
  | .errorInject a v => Sys2Proof.Machine.execErrorInject a v s
  | .patinaSecond p => Sys2Proof.Machine.execPatinaSecond p s
  | .marginProbe region p => Sys2Proof.Machine.execMarginProbe region p s
  | .lifetimeSet => Sys2Proof.Machine.execLifetimeSet s
  | .shutdownReq a => Sys2Proof.Machine.execShutdownReq a s
  | .journalFault status => Sys2Proof.Machine.execJournalFault status s
  | .patinaReadLatest smb => Sys2Proof.Machine.execPatinaReadLatest smb s
  | .patinaReadBySeq smb => Sys2Proof.Machine.execPatinaReadBySeq smb s
  | .patinaReadLive smb => Sys2Proof.Machine.execPatinaReadLive smb s
  | .smbusSelect d seq => Sys2Proof.Machine.execSmbusSelect d seq s
  | .smbusStatus => Sys2Proof.Machine.execSmbusStatus s
  | .smbusReadChunk off => Sys2Proof.Machine.execSmbusReadChunk off s
  | .friezeArm a region v => Sys2Proof.Machine.execFriezeArm a region v s
  | .frzTriggerWrite a v => Sys2Proof.Machine.execFrzTriggerWrite a v s
  | .trigTick region => Sys2Proof.Machine.execTrigTick region s
  | .sinkCopy region => Sys2Proof.Machine.execSinkCopy region s
  | .timeSync region => Sys2Proof.Machine.execTimeSync region s
  | .perstNDeassert p => Sys2Proof.Machine.execPerstNDeassert p s
  | .perstNAssert => Sys2Proof.Machine.execPerstNAssert s
  | .supplyFault rail mv ns => Sys2Proof.Machine.execSupplyFault rail mv ns s
  | .version => Sys2Proof.Machine.execVersion s
  | .claim => Sys2Proof.Machine.execClaim s
  | .release => Sys2Proof.Machine.execRelease s
  | .reset dimms => Sys2Proof.Machine.execReset dimms s
  | .flashWrite => Sys2Proof.Machine.execFlashWrite s
  | .setBoot => Sys2Proof.Machine.execSetBoot s
  | .confirm => Sys2Proof.Machine.execConfirm s
  | .commitSvn => Sys2Proof.Machine.execCommitSvn s
  | .powerCap => Sys2Proof.Machine.execPowerCap s
  | .getCert => Sys2Proof.Machine.execGetCert s
  | .powerCapControl watts => Sys2Proof.Machine.execPowerCapControl watts s
  | .thermalControl region temp => Sys2Proof.Machine.execThermalControl region temp s
  | .thermalTrip => Sys2Proof.Machine.execThermalTrip s
  | .hbmRepair stack row => Sys2Proof.Machine.execHbmRepair stack row s
  | .memoryPatrolScrub pa f => Sys2Proof.Machine.execMemoryPatrolScrub pa f s
  | .meshFlitReject link again => Sys2Proof.Machine.execMeshFlitReject link again s
  | .flitAccept port seq ack => Sys2Proof.Machine.execFlitAccept port seq ack s
  | .hostRecallAnswer line => Sys2Proof.Machine.execHostRecallAnswer line s
  | .restoreComplete region => Sys2Proof.Machine.execRestoreComplete region s
  | .journalFaultCleared => Sys2Proof.Machine.execJournalFaultCleared s
  | .smbusAlertResponse => Sys2Proof.Machine.execSmbusAlertResponse s
  | .reservedOpcode q => Sys2Proof.Machine.execReservedOpcode q s
  | .reservedCommandKind core de => Sys2Proof.Machine.execReservedCommandKind core de s

end Sys2Proof.Machine
end

