-- ==== Sys2Proof/Safety.lean ====
section
/-! DEFINITION. What counts as a sound state, and the terms in which the statements are made: when an instruction issues and
takes its own effect, and what a completed instruction leaves. -/

namespace Sys2Proof.Machine

/-- Both memories keep their canonical form. -/
def State.memWf (s : State) : Prop := s.mem.wf = true ∧ s.hostMem.wf = true

/-- BULK_GIB is at most 4,096, so that the address classes of the table Local physical address map do not meet. -/
def State.bulkOk (s : State) : Prop := s.disc.bulkGib.toNat ≤ 4096

/-! ## The SE -/

/-- An instruction of the SE issues and takes its own effect: its entry runs (R564), the word is the one that the
instruction cache holds at its address (R91) and is legal (R130), its predicate holds (R132), no outstanding access is still to write
a register it reads (R564), its loads have arrived where it acts outside the registers, and no register-file error is injected
(R573). Its destination `dst` puts no condition: a younger write does not wait (R564). -/
structure State.SeGo (s : State) (c : CoreNum) (w : W64) (reads : List (Nat × Nat)) (dst : Option Nat) (effectful : Bool) : Prop where
  ready : s.seReady c = true
  fetched : s.iword (.se c) (s.core c).se.pc.toNat = some w
  lawful : legal false 0 w = true
  test : seTest (s.core c).se.preds w = true
  free : s.awaits c none ((reads.filter (fun r => r.1 == 0)).map (·.2)) = false
  loads : (effectful && s.loadsPending c none) = false
  noReplay : s.armed 2 = false
  noFlip : s.armed 14 = false

/-- The SE past an instruction that gave a register a value and raised sticky flags; the instruction is counted (R520). What an
outstanding load was still to write there does not reach it (R564). -/
def State.seDone (s : State) (c : CoreNum) (d : Nat) (v : W64) (fl : Byte) : State :=
  (s.overwrite c none [0] [d]).updCore c (fun k => { k with
    se := { k.se.setReg d v with pc := k.se.pc + 8, flags := k.se.flags ||| fl }
    self := Sparse.put k.self 2 (Sparse.getD k.self 2 0 + 1) })

/-- The SE past an instruction that gave a predicate a value. -/
def State.sePredDone (s : State) (c : CoreNum) (d : Nat) (b : Bool) : State :=
  s.updCore c (fun k => { k with
    se := { k.se with preds := setPred k.se.preds d b, pc := k.se.pc + 8 }
    self := Sparse.put k.self 2 (Sparse.getD k.self 2 0 + 1) })

/-! ## The VE -/

/-- An instruction of a group issues and takes its own effect in the lanes `act`: the scheduler chooses the address `pc`
(R112), the word is the one that the instruction cache holds there (R91) and is legal (R130), some lane at that address has its predicate (R114, R132), no outstanding access is still
to write a register it reads (R564), and no register-file error is injected (R573); its destinations `dsts` put no condition. `x` is the group with the lanes that only advance
already past the instruction. -/
structure State.VeGo (s : State) (g : VeAt) (w : W64) (reads : List (Nat × Nat)) (dsts : List Nat) (effectful : Bool)
    (x : Group) (pc : Nat) (act : List Nat) : Prop where
  chosen : ∃ x0 y lanes, s.veReady g = some x0 ∧ x0.choose = some (y, pc, lanes) ∧ s.iword (.ve g) pc = some w ∧ legal true y.regs w = true ∧
    act = lanes.filter (y.test w) ∧ x = y.advance (lanes.filter (fun l => !y.test w l))
  someLane : act ≠ []
  free : s.awaits g.core (some g.slot) ((reads.filter (fun r => r.1 == 1)).map (·.2)) = false
  loads : (effectful && s.loadsPending g.core (some g.slot)) = false
  noReplay : s.armed 2 = false
  noFlip : s.armed 14 = false

/-- The VE past an instruction of a group: the group as it now is, the sticky flags raised, the issue counted. -/
def State.veDone (s : State) (g : VeAt) (x : Group) (fl : Byte) (lanes : Nat) : State :=
  s.updCore g.core (fun k => { k with
    ve := { k.ve with groups := Sparse.put k.ve.groups g.slot.toNat x, flags := k.ve.flags ||| fl, lastSlot := g.slot.toNat,
                         issuedAt := Sparse.put k.ve.issuedAt g.slot.toNat (s.cyclesOf g.core) }
    self := Sparse.put (Sparse.put k.self 3 (Sparse.getD k.self 3 0 + 1)) 4
      (Sparse.getD (Sparse.put k.self 3 (Sparse.getD k.self 3 0 + 1)) 4 0 + BitVec.ofNat 64 lanes) })

/-- A state in which what the outstanding accesses of a group were still to write to some registers of its active lanes does not
reach them any more (R564). -/
def State.over (s : State) (g : VeAt) (act regs : List Nat) : State := s.overwrite g.core (some g.slot) act regs

/-! ## Either engine -/

/-- An instruction of a stream issues and takes its own effect in the lanes `ls` (lane 0 stands for the SE): `s0` is the
state it acts on, where the lanes of a group that only advance are already past it and no older access is still to write its
destination, and `pc` its address. -/
def State.StrmGo (s : State) (t : Strm) (w : W64) (reads : List (Nat × Nat)) (dsts : List Nat) (effectful : Bool)
    (s0 : State) (pc : Nat) (ls : List Nat) : Prop :=
  match t with
  | .se c => s.SeGo c w reads dsts.head? effectful ∧ s0 = s.overwrite c none [0] dsts.head?.toList ∧ pc = (s.core c).se.pc.toNat ∧ ls = [0]
  | .ve g => ∃ x, s.VeGo g w reads dsts effectful x pc ls ∧ s0 = (s.over g ls dsts).setGroup g.core g.slot.toNat x

/-- The instruction counted: on the SE one instruction, on the VE one issue of some lanes (R520, R111). -/
def State.counted (s : State) (t : Strm) (ls : List Nat) : State :=
  match t with
  | .se c => s.selfAdd c 2 1
  | .ve g => s.veIssued g ls.length

/-- The merged operation of one word at its home: `ops` gives each lane's operand and expected value, `done` the lanes that have
their old values. -/
def State.atomHome (s : State) (t : Strm) (fn n : Nat) (ops : Nat → Nat × Nat) (done : List (Nat × List Byte)) (w : Tgt × List Nat) :
    List (Nat × List Byte) × State :=
  let x := s.atomAt w.1 fn n (w.2.map ops)
  (done ++ (w.2.zip x.1.1).map (fun p => (p.1, leBytes n p.2)), x.2.strmFlags t x.1.2)

/-! ## Integer results (table Scalar, predicate and vector arithmetic) -/

/-- The nearest signed n-bit integer. -/
def clamp (n : Nat) (v : Int) : Int := max (-(2 : Int) ^ (n - 1)) (min ((2 : Int) ^ (n - 1) - 1) v)

/-- A result that saturates when SAT is 1 and else wraps: `v` exact, `w` wrapped. -/
def satVal {n : Nat} (sat : BitVec 2) (v : Int) (w : BitVec n) : BitVec n := if sat = 1 then BitVec.ofInt n (clamp n v) else w

/-- The SAT flag of such a result (R173). -/
def satFl (n : Nat) (sat : BitVec 2) (v : Int) : Byte := if sat = 1 ∧ clamp n v ≠ v then flSAT else 0

/-- What FN 0 to 14 of OP 0x01, 0x02, 0x08 and 0x09 give without saturation: ADD, SUB, MUL, MULH, MULHU, AND, OR, XOR, SHL,
SHR, SRA, MIN, MAX, MINU, MAXU. -/
def aluOp {n : Nat} (fn : Nat) (a b : BitVec n) : BitVec n :=
  match fn with
  | 0 => a + b
  | 1 => a - b
  | 2 => a * b
  | 3 => ((a.signExtend (2 * n) * b.signExtend (2 * n)) >>> n).setWidth n
  | 4 => ((a.setWidth (2 * n) * b.setWidth (2 * n)) >>> n).setWidth n
  | 5 => a &&& b
  | 6 => a ||| b
  | 7 => a ^^^ b
  | 8 => a <<< (b.toNat % n)
  | 9 => a >>> (b.toNat % n)
  | 10 => a.sshiftRight (b.toNat % n)
  | 11 => if b.slt a then b else a
  | 12 => if a.slt b then b else a
  | 13 => if b.ult a then b else a
  | _ => if a.ult b then b else a

/-- The exact result of FN 0 to 2 on signed operands. -/
def exactOp (fn : Nat) (a b : Int) : Int :=
  match fn with
  | 0 => a + b
  | 1 => a - b
  | _ => a * b

/-- The comparisons EQ, NE, LT, LE, LTU and LEU by FN. -/
def cmpOp {n : Nat} (fn : Nat) (a b : BitVec n) : Bool :=
  match fn with
  | 0 => a == b
  | 1 => a != b
  | 2 => a.slt b
  | 3 => a.sle b
  | 4 => a.ult b
  | _ => a.ule b

end Sys2Proof.Machine
end

