-- ==== Sys2Proof/Certificates/Slice0/Obligations.lean ====
section
/-! DEFINITION. The statements for the provers. Each speaks of every state and every operand that meets its hypotheses; its
docstring says which part of the spec it formalises. -/

open Sys2Proof Sys2Proof.Machine

/-! ## The scalar engine -/

/-- ADD, SUB, MUL, MULH, MULHU on the SE: the 64-bit result in sD, wrapping, or with SAT 1 the nearest signed limit and the
SAT flag; the SE goes on to the next instruction and nothing else changes (`State.seDone`). -/
def Obligations.ScalarArithmetic : Prop :=
  ∀ (s : State) (c : CoreNum) (f : RFmt),
    let a := (s.core c).se.reg f.src1.toNat
    let b := (s.core c).se.reg f.src2.toNat
    let d := f.dst.toNat
    (s.SeGo c (encR 1 0 f) (sReads f) (some d) false → exec (.add c f) s =
      .next (s.seDone c d (satVal f.sat (a.toInt + b.toInt) (a + b)) (satFl 64 f.sat (a.toInt + b.toInt)))) ∧
    (s.SeGo c (encR 1 1 f) (sReads f) (some d) false → exec (.sub c f) s =
      .next (s.seDone c d (satVal f.sat (a.toInt - b.toInt) (a - b)) (satFl 64 f.sat (a.toInt - b.toInt)))) ∧
    (s.SeGo c (encR 1 2 f) (sReads f) (some d) false → exec (.mul c f) s =
      .next (s.seDone c d (satVal f.sat (a.toInt * b.toInt) (a * b)) (satFl 64 f.sat (a.toInt * b.toInt)))) ∧
    (s.SeGo c (encR 1 3 f) (sReads f) (some d) false → exec (.mulh c f) s =
      .next (s.seDone c d (((a.signExtend 128 * b.signExtend 128) >>> 64).setWidth 64) 0)) ∧
    (s.SeGo c (encR 1 4 f) (sReads f) (some d) false → exec (.mulhu c f) s =
      .next (s.seDone c d (((a.setWidth 128 * b.setWidth 128) >>> 64).setWidth 64) 0))

/-- AND, OR, XOR and the shifts of the SE, whose shift amount is the low six bits of sB; MIN, MAX, MINU, MAXU and SEL of the SE. -/
def Obligations.ScalarLogicShiftAndSelect : Prop :=
  (∀ (s : State) (c : CoreNum) (f : RFmt),
    let a := (s.core c).se.reg f.src1.toNat
    let b := (s.core c).se.reg f.src2.toNat
    let d := f.dst.toNat
    (s.SeGo c (encR 1 5 f) (sReads f) (some d) false → exec (.and c f) s = .next (s.seDone c d (a &&& b) 0)) ∧
    (s.SeGo c (encR 1 6 f) (sReads f) (some d) false → exec (.or c f) s = .next (s.seDone c d (a ||| b) 0)) ∧
    (s.SeGo c (encR 1 7 f) (sReads f) (some d) false → exec (.xor c f) s = .next (s.seDone c d (a ^^^ b) 0)) ∧
    (s.SeGo c (encR 1 8 f) (sReads f) (some d) false → exec (.shl c f) s = .next (s.seDone c d (a <<< (b.toNat % 64)) 0)) ∧
    (s.SeGo c (encR 1 9 f) (sReads f) (some d) false → exec (.shr c f) s = .next (s.seDone c d (a >>> (b.toNat % 64)) 0)) ∧
    (s.SeGo c (encR 1 10 f) (sReads f) (some d) false → exec (.sra c f) s = .next (s.seDone c d (a.sshiftRight (b.toNat % 64)) 0))) ∧
  (∀ (s : State) (c : CoreNum) (f : RFmt),
    let e := (s.core c).se
    let a := e.reg f.src1.toNat
    let b := e.reg f.src2.toNat
    let d := f.dst.toNat
    (s.SeGo c (encR 1 11 f) (sReads f) (some d) false → exec (.min c f) s = .next (s.seDone c d (if b.slt a then b else a) 0)) ∧
    (s.SeGo c (encR 1 12 f) (sReads f) (some d) false → exec (.max c f) s = .next (s.seDone c d (if a.slt b then b else a) 0)) ∧
    (s.SeGo c (encR 1 13 f) (sReads f) (some d) false → exec (.minu c f) s = .next (s.seDone c d (if b.ult a then b else a) 0)) ∧
    (s.SeGo c (encR 1 14 f) (sReads f) (some d) false → exec (.maxu c f) s = .next (s.seDone c d (if a.ult b then b else a) 0)) ∧
    (s.SeGo c (encR 1 15 f) (sReads f ++ [(2, f.src3.toNat)]) (some d) false → exec (.sel c f) s =
      .next (s.seDone c d (if predOf e.preds f.src3.toNat then a else b) 0)))

/-- SALUI takes IMM for sB, zero-extended by AND, OR and XOR and else sign-extended, and wraps; SCMP and SCMPI write
predicate pD with the comparison; LI takes IMM sign-extended; LIH puts IMM into bits [63:32] of sD. -/
def Obligations.ScalarImmediateAndCompare : Prop :=
  ∀ (s : State) (c : CoreNum) (fn : BitVec 5) (f : IFmt) (r : RFmt),
    let e := (s.core c).se
    let d := f.dst.toNat
    let k := fn.toNat
    (s.SeGo c (encI 2 k f) [(0, f.src1.toNat)] (some d) false → exec (.salui c fn f) s =
      .next (s.seDone c d (aluOp k (e.reg f.src1.toNat) (if 5 ≤ k ∧ k ≤ 7 then f.imm.setWidth 64 else f.imm.signExtend 64)) 0)) ∧
    (s.SeGo c (encR 3 k r) (sReads r) none false → exec (.scmp c fn r) s =
      .next (s.sePredDone c r.dst.toNat (cmpOp k (e.reg r.src1.toNat) (e.reg r.src2.toNat)))) ∧
    (s.SeGo c (encI 4 k f) [(0, f.src1.toNat)] none false → exec (.scmpi c fn f) s =
      .next (s.sePredDone c d (cmpOp k (e.reg f.src1.toNat) (f.imm.signExtend 64)))) ∧
    (s.SeGo c (encI 5 0 f) [] (some d) false → exec (.li c f) s = .next (s.seDone c d (f.imm.signExtend 64) 0)) ∧
    (s.SeGo c (encI 5 1 f) [(0, d)] (some d) false → exec (.lih c f) s =
      .next (s.seDone c d (f.imm ++ (e.reg d).setWidth 32) 0))

/-- What a completed register instruction of the SE leaves (the frame of the four statements before): sD holds the result,
s0 reads zero whatever is written to it, every other register, every predicate, the store buffer, every other core, every
byte of memory and everything outside the cores are as before. A load of the stream that was still to write sD no longer
writes it; no other load changes. -/
def Obligations.ScalarFrame : Prop :=
  ∀ (s : State) (c : CoreNum) (d : Nat) (v : W64) (fl : Byte),
    let t := s.seDone c d v fl
    let e := (s.core c).se
    let e' := (t.core c).se
    e'.reg 0 = 0 ∧ (d ≠ 0 → e'.reg d = v) ∧ (∀ i, i ≠ d → e'.reg i = e.reg i) ∧
    e'.preds = e.preds ∧ e'.pc = e.pc + 8 ∧ e'.flags = e.flags ||| fl ∧ e'.buffer = e.buffer ∧ e'.ended = e.ended ∧
    (t.core c).ve = (s.core c).ve ∧ (t.core c).me = (s.core c).me ∧ (t.core c).de = (s.core c).de ∧
    (t.core c).loads = (if s.awaits c none [d] then
      (s.core c).loads.map (fun e => if e.slot = none then { e with skip := e.skip ++ [(0, d)] } else e) else (s.core c).loads) ∧
    (t.core c).sems = (s.core c).sems ∧ (t.core c).dc = (s.core c).dc ∧
    (∀ c', c' ≠ c → t.core c' = s.core c') ∧ (∀ a, t.mem.byte a = s.mem.byte a) ∧ t = { s with cores := t.cores }

/-- PAND, POR, PXOR and PANDN: on the SE once, on the VE in every active lane, into predicate pD; a write to p0 is discarded. -/
def Obligations.PredicateLogic : Prop :=
  ∀ (s : State) (c : CoreNum) (g : VeAt) (f : RFmt) (x : Group) (pc : Nat) (act : List Nat),
    let rd := [(2, f.src1.toNat), (2, f.src2.toNat)]
    let d := f.dst.toNat
    let se (op : Bool → Bool → Bool) := s.sePredDone c d (op (predOf (s.core c).se.preds f.src1.toNat) (predOf (s.core c).se.preds f.src2.toNat))
    let ve (op : Bool → Bool → Bool) := s.veDone g ((x.writePreds act d (fun l =>
      op (predOf (x.thread l).preds f.src1.toNat) (predOf (x.thread l).preds f.src2.toNat))).advance act) 0 act.length
    (s.SeGo c (encR 6 0 f) rd none false → exec (.pand (.se c) f) s = .next (se fun p q => p && q)) ∧
    (s.SeGo c (encR 6 1 f) rd none false → exec (.por (.se c) f) s = .next (se fun p q => p || q)) ∧
    (s.SeGo c (encR 6 2 f) rd none false → exec (.pxor (.se c) f) s = .next (se fun p q => p ^^ q)) ∧
    (s.SeGo c (encR 6 3 f) rd none false → exec (.pandn (.se c) f) s = .next (se fun p q => p && !q)) ∧
    (s.VeGo g (encR 6 0 f) rd [] false x pc act → exec (.pand (.ve g) f) s = .next (ve fun p q => p && q)) ∧
    (s.VeGo g (encR 6 1 f) rd [] false x pc act → exec (.por (.ve g) f) s = .next (ve fun p q => p || q)) ∧
    (s.VeGo g (encR 6 2 f) rd [] false x pc act → exec (.pxor (.ve g) f) s = .next (ve fun p q => p ^^ q)) ∧
    (s.VeGo g (encR 6 3 f) rd [] false x pc act → exec (.pandn (.ve g) f) s = .next (ve fun p q => p && !q))

/-! ## Three rules as the spec states them -/

/-- R71: a read of s0 returns zero and a write to s0 is discarded; a read of p0 returns 1, for every thread and for the SE, and a
write to p0 is discarded. Every other register or predicate holds what was written. -/
def Obligations.RegisterZeroAndPredicateZero : Prop :=
  (∀ (e : Se) (v : W64), e.reg 0 = 0 ∧ e.setReg 0 v = e ∧ ∀ i j, i ≠ 0 → (e.setReg i v).reg j = if j = i then v else e.reg j) ∧
  (∀ (p : Byte) (b : Bool), predOf p 0 = true ∧ setPred p 0 b = p ∧
    ∀ i j, 0 < i → i < 8 → 0 < j → j < 8 → predOf (setPred p i b) j = if j = i then b else predOf p j) ∧
  (∀ (x : Group) (ls : List Nat) (f : Nat → Bool) (l : Nat),
    predOf (x.thread l).preds 0 = true ∧ ((x.writePreds ls 0 f).thread l).preds = (x.thread l).preds)

/-- R150: a BS8 code with exponent field E and tilt T has the value 2^(E − 32) × (1 + T ÷ 4), for the codes 0x00 to 0xFE; code 0xFF
is VOID. -/
def Obligations.BlockScaleCodes : Prop :=
  (∀ code, code < 0xFF → ∃ (m : Nat) (e : Int), decodeFmt 0xF code = .fin false m e ∧
    (m : ℚ) * (2 : ℚ) ^ e = (2 : ℚ) ^ ((code / 4 : Nat) - 32 : Int) * (1 + ((code % 4 : Nat) : ℚ) / 4)) ∧
  decodeFmt 0xF 0xFF = .nan

/-- R65: only the placement unit writes the port booking tables and only firmware the region booking tables, whatever the value
written, its VALID and KIND bits included: the entry then reads as written, with the KIND of its table; a write by any other actor
changes nothing. -/
def Obligations.BookingRights : Prop :=
  ∀ (s : State) (a : Actor) (ofRegion : Bool) (n : BitVec 6) (idx : BitVec 10) (v : W32),
    let mayWrite := (a = .placement ∧ ofRegion = false) ∨ (a = .firmware ∧ ofRegion = true)
    (¬ mayWrite → exec (.tlBookWrite a ofRegion n idx v) s = .next s) ∧
    (mayWrite → ∃ t, exec (.tlBookWrite a ofRegion n idx v) s = .next t ∧
      t.tl.readBook ofRegion (n.toNat * 1024 + idx.toNat) = ((v &&& 0x1_FFFD) ||| (if ofRegion then 2 else 0)))

/-! ## The vector engine -/

/-- VALU FN 0 to 14 and SEL, VALUI, ADDP, POPC and CLZ: the 32-bit result of every active lane in vD (ADDP: 64 bits in the
pair vD, vD + 1), with SAT as on the SE; the lanes go on and the flags of the lanes are ORed (R134). -/
def Obligations.VectorInteger : Prop :=
  ∀ (s : State) (g : VeAt) (fn : BitVec 5) (f : RFmt) (i : IFmt) (x : Group) (pc : Nat) (act : List Nat),
    let a (l : Nat) := x.reg l f.src1.toNat
    let b (l : Nat) := x.reg l f.src2.toNat
    let d := f.dst.toNat
    let k := fn.toNat
    let exact (l : Nat) := exactOp k (a l).toInt (b l).toInt
    let out (v : Nat → W32) (fl : Byte) := (s.over g act [d]).veDone g ((x.writeLanes act d v).advance act) fl act.length
    (k ≤ 2 → s.VeGo g (encR 8 k f) (vReads f) [d] false x pc act → exec (.valu g fn f) s =
      .next (out (fun l => satVal f.sat (exact l) (aluOp k (a l) (b l))) (act.foldl (fun z l => z ||| satFl 32 f.sat (exact l)) 0))) ∧
    (3 ≤ k → k ≤ 14 → s.VeGo g (encR 8 k f) (vReads f) [d] false x pc act → exec (.valu g fn f) s =
      .next (out (fun l => aluOp k (a l) (b l)) 0)) ∧
    (k = 15 → s.VeGo g (encR 8 k f) (vReads f ++ [(2, f.src3.toNat)]) [d] false x pc act → exec (.valu g fn f) s =
      .next (out (fun l => if predOf (x.thread l).preds f.src3.toNat then a l else b l) 0)) ∧
    (s.VeGo g (encI 9 k i) [(1, i.src1.toNat)] [i.dst.toNat] false x pc act → exec (.valui g fn i) s =
      .next ((s.over g act [i.dst.toNat]).veDone g ((x.writeLanes act i.dst.toNat (fun l => aluOp k (x.reg l i.src1.toNat) i.imm)).advance act) 0 act.length)) ∧
    (s.VeGo g (encR 8 16 f) (pairRegs f.src1 ++ pairRegs f.src2) [d, d + 1] false x pc act → exec (.addp g f) s =
      .next ((s.over g act [d, d + 1]).veDone g ((x.writePairs act d (fun l => x.pair l f.src1.toNat + x.pair l f.src2.toNat)).advance act) 0 act.length)) ∧
    (s.VeGo g (encR 8 17 f) [(1, f.src1.toNat)] [d] false x pc act → exec (.popc g f) s =
      .next (out (fun l => BitVec.ofNat 32 ((List.range 32).filter (fun j => (a l).getLsbD j)).length) 0)) ∧
    (s.VeGo g (encR 8 18 f) [(1, f.src1.toNat)] [d] false x pc act → exec (.clz g f) s =
      .next (out (fun l => BitVec.ofNat 32 (if a l = 0 then 32 else 31 - (a l).toNat.log2)) 0))

/-- What a completed register instruction of a group leaves: each active lane's vD holds its result, every other register of
every lane, the other groups and everything outside the core are as before; the active lanes are 8 bytes further. Accesses of the
group that were still to write vD no longer write it in those lanes; where there is none, every outstanding access is as before, and
those of the other streams always are. -/
def Obligations.VectorFrame : Prop :=
  ∀ (s : State) (g : VeAt) (x : Group) (act : List Nat) (d : Nat) (v : Nat → W32) (fl : Byte) (n : Nat),
    d < 256 → act.Nodup → (∀ l ∈ act, l < x.threads.length) →
    let y := (x.writeLanes act d v).advance act
    let t := (s.over g act [d]).veDone g y fl n
    t.group g.core g.slot.toNat = some y ∧
    (∀ l ∈ act, y.reg l d = v l) ∧ (∀ l r, r < 256 → (l ∉ act ∨ r ≠ d) → y.reg l r = x.reg l r) ∧
    (∀ l ∈ act, y.thread l = { x.thread l with pc := (x.thread l).pc + 8 }) ∧ (∀ l, l ∉ act → y.thread l = x.thread l) ∧
    (∀ j, j ≠ g.slot.toNat → t.group g.core j = s.group g.core j) ∧ (t.core g.core).se = (s.core g.core).se ∧
    (t.core g.core).ve.flags = (s.core g.core).ve.flags ||| fl ∧ (∀ c, c ≠ g.core → t.core c = s.core c) ∧
    (s.awaits g.core (some g.slot) [d] = false → (t.core g.core).loads = (s.core g.core).loads ∧ (t.core g.core).ve.xf = (s.core g.core).ve.xf) ∧
    (t.core g.core).loads.filter (fun e => e.slot ≠ some g.slot) = (s.core g.core).loads.filter (fun e => e.slot ≠ some g.slot) ∧
    (∀ a, t.mem.byte a = s.mem.byte a) ∧ t = { s with cores := t.cores }

/-- FADD, FSUB, FMUL, FMA: one fused sum per element (R162), rounded once as RND asks; FMIN, FMAX, FABS, FNEG per element.
H16 and W16 have two elements a register; the SR count of each lane advances by its elements under RND SR (R160). -/
def Obligations.VectorFloat : Prop :=
  ∀ (s : State) (g : VeAt) (f : RFmt) (x : Group) (pc : Nat) (act : List Nat),
    let m := f.fmt.toNat
    let d := f.dst.toNat
    let a (l : Nat) := x.num l f.src1
    let b (i l : Nat) := element m i (x.num l f.src2)
    let c (i l : Nat) := element m i (x.num l f.src3)
    let put (r : Nat → Nat × Byte) := x.writeLanes act d (fun l => BitVec.ofNat 32 (r l).1)
    let fl (r : Nat → Nat × Byte) := act.foldl (fun z l => z ||| (r l).2) (0 : Byte)
    let sum (fn l : Nat) := perElement m (fun i e => floatOp m fn (s.laneMode g.core x f l i) e (b i l) (c i l)) (a l)
    let rounded (fn : Nat) := (s.over g act [d]).veDone g (((put (sum fn)).srAdvance act f (elements m)).advance act) (fl (sum fn)) act.length
    let plain (r : Nat → Nat × Byte) := (s.over g act [d]).veDone g ((put r).advance act) (fl r) act.length
    (s.VeGo g (encR 0xA 0 f) (vReads f) [d] false x pc act → exec (.fadd g f) s = .next (rounded 0)) ∧
    (s.VeGo g (encR 0xA 1 f) (vReads f) [d] false x pc act → exec (.fsub g f) s = .next (rounded 1)) ∧
    (s.VeGo g (encR 0xA 2 f) (vReads f) [d] false x pc act → exec (.fmul g f) s = .next (rounded 2)) ∧
    (s.VeGo g (encR 0xA 3 f) (vReads f ++ [(1, f.src3.toNat)]) [d] false x pc act → exec (.fma g f) s = .next (rounded 3)) ∧
    (s.VeGo g (encR 0xA 4 f) (vReads f) [d] false x pc act → exec (.fmin g f) s =
      .next (plain (fun l => perElement m (fun i e => fminmax m false f.flush e (b i l)) (a l)))) ∧
    (s.VeGo g (encR 0xA 5 f) (vReads f) [d] false x pc act → exec (.fmax g f) s =
      .next (plain (fun l => perElement m (fun i e => fminmax m true f.flush e (b i l)) (a l)))) ∧
    (s.VeGo g (encR 0xA 6 f) [(1, f.src1.toNat)] [d] false x pc act → exec (.fabs g f) s =
      .next (plain (fun l => perElement m (fun _ e => (e % 2 ^ (fmtWidth m - 1), 0)) (a l)))) ∧
    (s.VeGo g (encR 0xA 7 f) [(1, f.src1.toNat)] [d] false x pc act → exec (.fneg g f) s =
      .next (plain (fun l => perElement m (fun _ e => (if e < 2 ^ (fmtWidth m - 1) then e + 2 ^ (fmtWidth m - 1) else e - 2 ^ (fmtWidth m - 1), 0)) (a l))))

/-- VCMP and VCMP.F write predicate pD of every active lane; CVT converts a code of FMT2 to FMT and advances the SR count by
one under RND SR. -/
def Obligations.VectorCompareAndConvert : Prop :=
  ∀ (s : State) (g : VeAt) (fn : BitVec 5) (f : RFmt) (x : Group) (pc : Nat) (act : List Nat),
    let k := fn.toNat
    let d := f.dst.toNat
    let w := fmtWidth f.fmt.toNat
    let out (v : Nat → Bool) := s.veDone g ((x.writePreds act d v).advance act) 0 act.length
    let cv (l : Nat) := convert f.fmt.toNat f.fmt2.toNat (s.laneMode g.core x f l 0) (x.num l f.src1 % 2 ^ fmtWidth f.fmt2.toNat)
    (k ≤ 5 → s.VeGo g (encR 0xB k f) (vReads f) [] false x pc act → exec (.vcmp g fn f) s =
      .next (out (fun l => cmpOp k (x.reg l f.src1.toNat) (x.reg l f.src2.toNat)))) ∧
    (8 ≤ k → k ≤ 11 → s.VeGo g (encR 0xB k f) (vReads f) [] false x pc act → exec (.vcmpFloat g fn f) s =
      .next (out (fun l => fcompare (k - 8) f.fmt.toNat (x.num l f.src1 % 2 ^ w) (x.num l f.src2 % 2 ^ w)))) ∧
    (s.VeGo g (encR 0xC 0 f) [(1, f.src1.toNat)] [d] false x pc act → exec (.cvt g f) s =
      .next ((s.over g act [d]).veDone g (((x.writeLanes act d (fun l => placeCode f.fmt.toNat (cv l).1)).srAdvance act f 1).advance act)
        (act.foldl (fun z l => z ||| (cv l).2) 0) act.length))

/-- RCP, RSQ, SQRT, EXP2, LOG2, SINPI and COSPI enter the transcendental unit as one slice for every eight lanes that have an
active one; TRANSCENDENTAL_RESULT writes the slice that entered first into its registers and raises its flags (R94). -/
def Obligations.TranscendentalUnit : Prop :=
  ∀ (s : State) (g : VeAt) (f : RFmt) (x : Group) (pc : Nat) (act : List Nat),
    let slices (fn : Nat) : List XfSlice := (((List.range 4).map (fun k => act.filter (fun l => l / 8 == k))).filter (fun ls => !ls.isEmpty)).map
      (fun ls => { slot := g.slot, dst := f.dst, results := ls.map (fun l => (l, BitVec.ofNat 32 (transcendental fn (x.num l f.src1)).1)),
                   flags := ls.foldl (fun z l => z ||| (transcendental fn (x.num l f.src1)).2) 0 })
    let go (fn : Nat) := s.VeGo g (encR 0xD fn f) [(1, f.src1.toNat)] [f.dst.toNat] false x pc act
    let out (fn : Nat) := ((s.over g act [f.dst.toNat]).updCore g.core (fun k => { k with ve := { k.ve with xf := k.ve.xf ++ slices fn } })).veDone g (x.advance act) 0 act.length
    (go 0 → exec (.rcp g f) s = .next (out 0)) ∧ (go 1 → exec (.rsq g f) s = .next (out 1)) ∧
    (go 2 → exec (.sqrt g f) s = .next (out 2)) ∧ (go 3 → exec (.exp2 g f) s = .next (out 3)) ∧
    (go 4 → exec (.log2 g f) s = .next (out 4)) ∧ (go 5 → exec (.sinpi g f) s = .next (out 5)) ∧
    (go 6 → exec (.cospi g f) s = .next (out 6)) ∧
    (∀ z zs y, (s.core g.core).ve.xf = z :: zs → s.clocked g.core = true → s.group g.core z.slot.toNat = some y →
      exec (.transcendentalResult g.core) s = .next (s.updCore g.core (fun k => { k with ve := { k.ve with
        xf := zs, flags := k.ve.flags ||| z.flags,
        groups := Sparse.put k.ve.groups z.slot.toNat (z.results.foldl (fun y r => y.setReg r.1 z.dst.toNat r.2) y) } })))

/-- VLI, SHFL (vA of lane vB mod 32), BCAST (vA of the lowest active lane), BALLOT (the mask of active lanes whose pA is 1)
and ID (LANE, GROUP, THREAD, BLOCK, the block's drawer base, THREADS, BLOCKS). -/
def Obligations.VectorLanes : Prop :=
  ∀ (s : State) (g : VeAt) (f : RFmt) (i : IFmt) (x : Group) (pc : Nat) (act : List Nat),
    let d := f.dst.toNat
    let out (v : Nat → W32) := (s.over g act [d]).veDone g ((x.writeLanes act d v).advance act) 0 act.length
    let b := Sparse.getD (s.core g.core).ve.blocks x.blockSlot {}
    let go := s.VeGo g (encR 0xE 3 f) [] [d] false x pc act
    (s.VeGo g (encI 0xF 0 i) [] [i.dst.toNat] false x pc act → exec (.vli g i) s =
      .next ((s.over g act [i.dst.toNat]).veDone g ((x.writeLanes act i.dst.toNat (fun _ => i.imm)).advance act) 0 act.length)) ∧
    (s.VeGo g (encR 0xE 0 f) (vReads f) [d] false x pc act → exec (.shfl g f) s =
      .next (out (fun l => x.reg ((x.reg l f.src2.toNat).toNat % 32) f.src1.toNat))) ∧
    (s.VeGo g (encR 0xE 1 f) [(1, f.src1.toNat)] [d] false x pc act → exec (.bcast g f) s =
      .next (out (fun _ => x.reg (act.headD 0) f.src1.toNat))) ∧
    (s.VeGo g (encR 0xE 2 f) [(2, f.src1.toNat)] [d] false x pc act → exec (.ballot g f) s =
      .next (out (fun _ => BitVec.ofNat 32 (act.foldl (fun m l => m + if predOf (x.thread l).preds f.src1.toNat then 2 ^ l else 0) 0)))) ∧
    (f.src2 = 0 → go → exec (.id g f) s = .next (out (fun l => BitVec.ofNat 32 l))) ∧
    (f.src2 = 1 → go → exec (.id g f) s = .next (out (fun _ => BitVec.ofNat 32 x.index))) ∧
    (f.src2 = 2 → go → exec (.id g f) s = .next (out (fun l => BitVec.ofNat 32 (x.index * 32 + l)))) ∧
    (f.src2 = 3 → go → exec (.id g f) s = .next (out (fun _ => BitVec.ofNat 32 b.block))) ∧
    (f.src2 = 4 → go → exec (.id g f) s = .next (out (fun _ => BitVec.ofNat 32 b.base))) ∧
    (∀ e, (s.core g.core).ve.entry = some e → f.src2 = 5 → go → exec (.id g f) s = .next (out (fun _ => BitVec.ofNat 32 e.threads))) ∧
    (∀ e, (s.core g.core).ve.entry = some e → f.src2 = 6 → go → exec (.id g f) s = .next (out (fun _ => BitVec.ofNat 32 e.blocks)))

/-! ## Control flow and system instructions -/

/-- BR and BL go to the address of the branch plus 8 × IMM, BL with the address after it in the link register; JR and JLR go
to the target in a register that is 8-byte aligned with bits [63:57] zero. On the VE the active lanes go, each with its own
target of a jump. -/
def Obligations.BranchesAndJumps : Prop :=
  ∀ (s : State) (c : CoreNum) (g : VeAt) (f : IFmt) (x : Group) (pc : Nat) (act : List Nat),
    let d := f.dst.toNat
    let e := (s.core c).se
    let seTo (link : Bool) (target : W64) := ((if link then s.overwrite c none [0] [d] else s).updCore c (fun k =>
      { k with se := { (if link then k.se.setReg d (k.se.pc + 8) else k.se) with pc := target } })).selfAdd c 2 1
    let veTo (link : Bool) (target : Nat → W64) := (if link then s.over g act [d, d + 1] else s).veDone g
      (((if link then x.writePairs act d (fun _ => BitVec.ofNat 64 pc + 8) else x)).mapLanes act (fun l th => { th with pc := target l })) 0 act.length
    let rel (p : W64) := p + 8 * f.imm.signExtend 64
    let good (a : W64) := fld a 57 7 = 0 ∧ a.toNat % 8 = 0
    let tgt := e.reg f.src1.toNat
    let pair := [(1, f.src1.toNat), (1, f.src1.toNat + 1)]
    (s.SeGo c (encI 0x10 0 f) [] none false → exec (.br (.se c) f) s = .next (seTo false (rel e.pc))) ∧
    (s.SeGo c (encI 0x10 1 f) [] (some d) false → exec (.bl (.se c) f) s = .next (seTo true (rel e.pc))) ∧
    (good tgt → s.SeGo c (encI 0x10 2 f) [(0, f.src1.toNat)] none false → exec (.jr (.se c) f) s = .next (seTo false tgt)) ∧
    (good tgt → s.SeGo c (encI 0x10 3 f) [(0, f.src1.toNat)] (some d) false → exec (.jlr (.se c) f) s = .next (seTo true tgt)) ∧
    (s.VeGo g (encI 0x10 0 f) [] [] false x pc act → exec (.br (.ve g) f) s = .next (veTo false (fun _ => rel (BitVec.ofNat 64 pc)))) ∧
    (s.VeGo g (encI 0x10 1 f) [] [d, d + 1] false x pc act → exec (.bl (.ve g) f) s = .next (veTo true (fun _ => rel (BitVec.ofNat 64 pc)))) ∧
    ((∀ l ∈ act, good (x.pair l f.src1.toNat)) → s.VeGo g (encI 0x10 2 f) pair [] false x pc act →
      exec (.jr (.ve g) f) s = .next (veTo false (fun l => x.pair l f.src1.toNat))) ∧
    ((∀ l ∈ act, good (x.pair l f.src1.toNat)) → s.VeGo g (encI 0x10 3 f) pair [d, d + 1] false x pc act →
      exec (.jlr (.ve g) f) s = .next (veTo true (fun l => x.pair l f.src1.toNat)))

/-- EXIT ends the SE's kernel or the active threads of a group, where no older store of the stream may still be refused by another
device. BRK raises BREAK (code 12) with its code in DETAIL; ILLEGAL_INSTR raises
ILLEGAL (code 1) with the word in DETAIL, whatever the word's predicate (R130). Both are precise: the stream's earlier accesses are
performed (R142). -/
def Obligations.ExitBreakAndIllegal : Prop :=
  (∀ (s : State) (c : CoreNum) (g : VeAt) (f : IFmt) (x : Group) (pc : Nat) (act : List Nat),
    (s.SeGo c (encI 0x10 4 f) [] none true → s.farStores c none = false →
      exec (.exit (.se c) f) s = .next ((s.updCore c (fun k => { k with se := { k.se with ended := true } })).selfAdd c 2 1)) ∧
    (s.VeGo g (encI 0x10 4 f) [] [] true x pc act → s.farStores g.core (some g.slot) = false → act.Nodup → (∀ l ∈ act, l < x.threads.length) →
      (∃ l, l < 32 ∧ l ∉ act ∧ (x.thread l).exited = false) → (∀ l, (x.thread l).arrived = .no) →
      (∀ p ∈ (s.core g.core).ve.groups, ∀ l, (p.2.thread l).arrived = .no) →
      ∃ t y, exec (.exit (.ve g) f) s = .next t ∧ t.group g.core g.slot.toNat = some y ∧
        (∀ l ∈ act, y.thread l = { x.thread l with exited := true }) ∧ (∀ l, l ∉ act → y.thread l = x.thread l) ∧
        (∀ l r, y.reg l r = x.reg l r) ∧ t.mem = s.mem)) ∧
  (∀ (s : State) (c : CoreNum) (g : VeAt) (f : IFmt) (w : W64) (x : Group) (pc : Nat) (act : List Nat),
    let job := launchOf (s.core c).se.entry
    let at_ : Exc := { code := 0, engine := 0, pc := (s.core c).se.pc.toNat }
    (s.SeGo c (encI 0x3C 4 f) [] none true → s.storesPending c none = false →
      exec (.brk (.se c) f) s = .next ((s.raise c job { at_ with code := 0x0C, detail := (f.imm &&& 0xFFFF).setWidth 64 }).selfAdd c 2 1)) ∧
    (s.seReady c = true → s.iword (.se c) (s.core c).se.pc.toNat = some w → legal false 0 w = false → s.olderPending c none = false →
      exec (.illegalInstr (.se c) w) s = .next (s.raise c job { at_ with code := 1, detail := w })) ∧
    (s.VeGo g (encI 0x3C 4 f) [] [] true x pc act → s.storesPending g.core (some g.slot) = false →
      exec (.brk (.ve g) f) s = .next (((s.setGroup g.core g.slot.toNat x).raise g.core (launchOf (s.core g.core).ve.entry)
        { code := 0x0C, engine := 1, group := x.index, block := s.blockOf g.core x, lane := act.headD 0, pc := pc,
          detail := (f.imm &&& 0xFFFF).setWidth 64 }).veIssued g act.length)) ∧
    (∀ x0 lanes, s.veReady g = some x0 → x0.choose = some (x, pc, lanes) → s.iword (.ve g) pc = some w → legal true x0.regs w = false →
      s.olderPending g.core (some g.slot) = false →
      exec (.illegalInstr (.ve g) w) s = .next (s.raise g.core (launchOf (s.core g.core).ve.entry)
        { code := 1, engine := 1, group := x.index, block := s.blockOf g.core x, lane := lanes.headD 0, pc := pc, detail := w })))

/-- TLR reads the region's timeline copy (R53) and CYC its cycle count (R54) into sD, or the pair of every active lane;
FLGR reads the engine's ARITH_FLAGS, for a group with the flags that an instruction in flight of another group may set each by a free
bit (`State.flagsSeen`), and exactly ARITH_FLAGS where none is in flight; FLGC clears the flags that its mask names (R175). -/
def Obligations.SystemReads : Prop :=
  ∀ (s : State) (c : CoreNum) (g : VeAt) (f : IFmt) (x : Group) (pc : Nat) (act : List Nat),
    let d := f.dst.toNat
    let m : Byte := f.imm.setWidth 8
    let r := s.region (regionOf c)
    let r' := s.region (regionOf g.core)
    let pairs (v : W64) := (s.over g act [d, d + 1]).veDone g ((x.writePairs act d (fun _ => v)).advance act) 0 act.length
    (s.SeGo c (encI 0x3C 0 f) [] (some d) false → exec (.tlr (.se c) f) s = .next (s.seDone c d r.tl 0)) ∧
    (s.SeGo c (encI 0x3C 3 f) [] (some d) false → exec (.cyc (.se c) f) s = .next (s.seDone c d r.cycles 0)) ∧
    (s.SeGo c (encI 0x3C 1 f) [] (some d) true → exec (.flgr (.se c) f) s = .next (s.seDone c d ((s.core c).se.flags.setWidth 64) 0)) ∧
    (s.SeGo c (encI 0x3C 2 f) [] none true → exec (.flgc (.se c) f) s =
      .next (((s.updCore c (fun k => { k with se := { k.se with flags := k.se.flags &&& ~~~m } })).seNext c).selfAdd c 2 1)) ∧
    (s.VeGo g (encI 0x3C 0 f) [] [d, d + 1] false x pc act → exec (.tlr (.ve g) f) s = .next (pairs r'.tl)) ∧
    (s.VeGo g (encI 0x3C 3 f) [] [d, d + 1] false x pc act → exec (.cyc (.ve g) f) s = .next (pairs r'.cycles)) ∧
    (s.VeGo g (encI 0x3C 1 f) [] [d] true x pc act → (∀ z ∈ (s.core g.core).ve.xf, z.slot ≠ g.slot) →
      let u := (s.over g act [d]).setGroup g.core g.slot.toNat x
      exec (.flgr (.ve g) f) s =
        .next ((u.flagsSeen g).2.veDone g ((x.writeLanes act d (fun _ => (u.flagsSeen g).1.setWidth 32)).advance act) 0 act.length) ∧
      ((∀ z ∈ (s.core g.core).ve.xf, z.flags = 0) → (∀ z ∈ (s.core g.core).loads, z.atom = none) →
        u.flagsSeen g = ((s.core g.core).ve.flags, u))) ∧
    (s.VeGo g (encI 0x3C 2 f) [] [] true x pc act → ∃ t, exec (.flgc (.ve g) f) s = .next t ∧
      (t.core g.core).ve.flags = (s.core g.core).ve.flags &&& ~~~m ∧ t.group g.core g.slot.toNat = some (x.advance act))

/-! ## Memory -/

/-- The addresses of SPACE 1 (R135, R136): the register's low 32 bits plus the offset; one that is no multiple of the access raises
MISALIGNED (4), one outside the 128 KiB drawer DRAWER_RANGE (5), any other is the drawer's byte (R35); the sum does not wrap (the
model's choice, log entry 91). LD of the SE from its own drawer, with nothing buffered or on its way there: sD takes the bytes at the
address (where some are unpredictable, as this one read finds them, R3), zero-extended, or sign-extended with SX 1, the SE goes on, and
no byte of memory changes. -/
def Obligations.DrawerLoads : Prop :=
  (∀ (s : State) (t : Strm) (base : W64) (off : BitVec 16) (z : Nat) (k : AccKind),
    let a : Int := ((base.toNat % 2 ^ 32 : Nat) : Int) + off.toInt
    let n : Nat := 2 ^ z
    let d := drawerBase (strmCore t)
    (a % (n : Int) ≠ 0 → ∃ x, s.resolve t base off true n k = (.fault 4 x, s)) ∧
    (a % (n : Int) = 0 → (a < 0 ∨ 0x2_0000 ≤ a) → s.resolve t base off true n k = (.fault 5 0, s)) ∧
    (a % (n : Int) = 0 → 0 ≤ a → a < 0x2_0000 → s.resolve t base off true n k = (.ok (.dev (d + a.toNat)) false, s))) ∧
  (∀ (s : State) (c : CoreNum) (f : MFmt),
    let n : Nat := 2 ^ f.size.toNat
    let a : Int := ((((s.core c).se.reg f.src1.toNat).toNat % 2 ^ 32 : Nat) : Int) + f.off.toInt
    let pa := drawerBase c + a.toNat
    let known := s.mem.known pa n
    let v := leNat (if known then s.mem.bytes pa n else s.mem.bytesAt (s.fresh + 1) pa n)
    let u : State := { s with fresh := s.fresh + (if known then 1 else 2) }
    s.SeGo c (encM 0x20 0 f) [(0, f.src1.toNat)] (some f.dst.toNat) false → f.space = true → s.bulkOk →
    a % (n : Int) = 0 → 0 ≤ a → a < 0x2_0000 → bit s.err.inject 0 = false → s.mem.poisoned pa n = false →
    (s.core c).loads = [] → (s.core c).se.buffer = [] → (s.core c).storesOut = [] → (s.core c).pathBad = 0 →
    exec (.ld (.se c) f) s =
      .next (u.seDone c f.dst.toNat (if f.sx then BitVec.ofInt 64 (sextI (8 * n) v) else BitVec.ofNat 64 v) 0))

/-- At the home of an address in the device's memory, with no error injected: a store leaves its bytes and no other byte
changed; where it is aligned to 8 bytes the words it covers whole lose their poison, and no other word gains or loses any (R80); a
read gives the bytes, each unpredictable one drawn anew (R3), names the lowest poisoned word it touches (R79), and changes no memory. -/
def Obligations.HomeAccess : Prop :=
  ∀ (s : State) (a n : Nat) (bs : List Byte), s.mem.wf = true → (s.classOf a).isMemory = true → bit s.err.inject 0 = false →
    let t := s.homeWrite a bs
    t.mem.bytes a bs.length = bs ∧ (∀ j, ¬ (a ≤ j ∧ j < a + bs.length) → t.mem.byte j = s.mem.byte j) ∧
    (∀ w, w ∈ t.mem.poison ↔ w ∈ s.mem.poison ∧ ¬ (a % 8 = 0 ∧ w ∈ wholeWords a bs.length)) ∧ t.mem.wf = true ∧
    (s.homeRead a n).1.1 = (if s.mem.known a n then s.mem.bytes a n else s.mem.bytesAt s.fresh a n) ∧
    (s.homeRead a n).1.2 = s.mem.firstPoison a n ∧ (s.homeRead a n).2.mem = s.mem

/-- ST: the lanes' stores, each at the address that its translation gives, enter the engine's store buffer as one entry when
it has room (R300) and nothing holds the stream back (R293, R301, R302); the stream goes on, and no byte of memory has changed
since the translation. -/
def Obligations.StoreIssue : Prop :=
  ∀ (s s0 s1 : State) (t : Strm) (f : MFmt) (pc : Nat) (ls : List Nat) (va : Nat → Nat) (tg : Nat → Tgt) (ca : Nat → Bool),
    let c := strmCore t
    let sl := strmSlot t
    let n := 2 ^ f.size.toNat
    s.StrmGo t (encM 0x21 0 f) (addrReads t f ++ dataReads t f.size.toNat f.src2.toNat) [] false s0 pc ls →
    s0.heldBack c sl = false →
    s0.resolveAll t (s0.bases t f ls) f.off f.space n .store = (ls.map (fun l => (l, va l, Acc.ok (tg l) (ca l))), s1) →
    ((∃ l ∈ ls, s1.isStrong (tg l) = true) → s1.storesPending c sl = false) → s1.bufferRoom c sl = true →
    let e : StoreEntry := { slot := sl, pc := BitVec.ofNat 64 pc, gid := s1.gidOf t, num := s1.order, lanes := ls.map (fun l =>
      { lane := l, va := va l, tgt := tg l, cache := ca l, bytes := leBytes n (s0.operand t l f.size.toNat f.src2).toNat }) }
    let u := { s1 with order := s1.order + 1 }.updCore c (fun k =>
      if sl.isSome then { k with ve := { k.ve with buffer := k.ve.buffer ++ [e] } } else { k with se := { k.se with buffer := k.se.buffer ++ [e] } })
    exec (.st t f) s = .next ((u.strmNext t ls).counted t ls) ∧ ((u.strmNext t ls).counted t ls).mem = s1.mem

/-- LD: when every lane's bytes are at hand (the parameter window, the stream's own buffered stores, its drawer, its cache)
they are extended into the destination registers at once, with no mismatch on the data path (text after R74); when some are not, the
load joins the loads outstanding, which go on their way as far as their engine's transfers let them (R70, `State.goLoads`). -/
def Obligations.LoadIssue : Prop :=
  ∀ (s s0 s1 s2 s3 : State) (t : Strm) (f : MFmt) (pc : Nat) (ls : List Nat) (va : Nat → Nat) (ac : Nat → Acc) (bs : Nat → List Byte)
    (q : Nat → Got),
    let c := strmCore t
    let sl := strmSlot t
    let n := 2 ^ f.size.toNat
    let as := ls.map (fun l => (l, va l, ac l))
    let lanes : List LaneAcc := ls.map (fun l => gotLane (l, va l, ac l, q l))
    let e : LoadEntry := { id := (s2.core c).newLoad, num := s2.order, slot := sl, dst := some f.dst, size := n, sx := f.sx,
                           pc := BitVec.ofNat 64 pc, lanes := lanes }
    let u := ({ s2 with order := s2.order + 1 }.updCore c (fun k => { k with loads := k.loads ++ [e] })).goLoads c
    s.StrmGo t (encM 0x20 0 f) (addrReads t f) (dataRegs t f.size.toNat f.dst.toNat) false s0 pc ls →
    s0.heldBack c sl = false → s0.resolveAll t (s0.bases t f ls) f.off f.space n .load = (as, s1) →
    (∀ l ∈ ls, (∃ g k, ac l = .ok g k) ∨ ∃ o, ac l = .window o) →
    ((∃ l ∈ ls, ∃ g k, ac l = .ok g k ∧ s2.isStrong g = true) → s2.storesPending c sl = false) →
    s1.loadLanes t as n = (ls.map (fun l => (l, va l, ac l, q l)), s2) →
    (∀ l ∈ ls, (q l = .bytes (bs l) ∧ bs l ≠ []) ∨ (q l = .miss ∧ bs l = [])) →
    ((∀ l ∈ ls, bs l ≠ []) → s2.pathRead c = (false, s3) → exec (.ld t f) s =
      .next (((s3.loadResult c sl (some f.dst) n f.sx (ls.map (fun l => (l, bs l)))).strmNext t ls).counted t ls)) ∧
    ((∃ l ∈ ls, bs l = []) → exec (.ld t f) s = .next ((u.strmNext t ls).counted t ls))

/-- STORE_BUFFER_DRAIN of an entry that may leave (`State.mayLeave`: behind the older entries that it overlaps, R278, and behind the
older loads of its stream, R142): stores to the core's own drawer are performed lane by lane; uncached stores to other homes on the
device or the host go into the mesh in lane order, where the engine's transfers let them (R70), and STORE_ACK performs such an entry at
its home, in its turn there (R292), in lane order; a store to a line that the data cache holds updates the line. The entry leaves the
buffer. -/
def Obligations.StoresLeaveTheBuffer : Prop :=
  ∀ (s : State) (c : CoreNum) (ve : Bool) (idx : Nat) (e : StoreEntry),
    let buf := if ve then (s.core c).ve.buffer else (s.core c).se.buffer
    let left (t : State) : List StoreEntry := if ve then (t.core c).ve.buffer else (t.core c).se.buffer
    s.bulkOk → e.rel = none → e.stat = none →
    (buf[idx]? = some e → e.slot.isSome = ve → s.mayLeave c (buf.take idx) e = true →
      ((∀ x ∈ e.lanes, x.cache = false ∧ ∃ pa, x.tgt = .dev pa ∧ drawerBase c ≤ pa ∧ pa < drawerBase c + 0x2_0000) →
        bit s.err.inject 0 = false →
        ∃ t, exec (.storeBufferDrain c ve idx) s = .next t ∧
          t.mem = (e.lanes.foldl (fun u x => u.homeWrite x.tgt.addr x.bytes) s).mem ∧
          left t = buf.eraseIdx idx ∧ (t.core c).storesOut = (s.core c).storesOut) ∧
      ((∀ x ∈ e.lanes, x.cache = false ∧ ((∃ pa, x.tgt = .dev pa ∧ s.classOf pa ≠ .drawer) ∨ ∃ pa, x.tgt = .host pa)) →
        s.transfers c ve + e.lanes.length ≤ 6 →
        ∃ t, exec (.storeBufferDrain c ve idx) s = .next t ∧ t.mem = s.mem ∧ left t = buf.eraseIdx idx ∧
          (t.core c).storesOut = (s.core c).storesOut ++
            e.lanes.mapIdx (fun i x => { e with lanes := [{ x with port := s.order + i, cache := false }], stat := none })) ∧
      (∀ x l, e.lanes = [x] → x.cache = true → (s.core c).dc.shut = false →
        let u := s.readSet c (s.lineOf x.tgt)
        (u.core c).dc.hit (s.lineOf x.tgt) = some l →
        let who : Writer := { slot := e.slot, gid := e.gid, lane := x.lane }
        ∃ t, exec (.storeBufferDrain c ve idx) s = .next t ∧ t.mem = u.mem ∧ left t = (left u).eraseIdx idx ∧
          (t.core c).dc = (u.core c).dc.storeHit (s.lineOf x.tgt) (x.tgt.addr % 64) x.bytes who)) ∧
    ((s.core c).storesOut[idx]? = some e → s.drains c = true → (∀ x ∈ e.lanes, s.lands c x = true) →
      s.armed 11 = false → (∀ x ∈ e.lanes, ∀ a, x.tgt = .dev a → s.linesHeld a x.bytes.length true = []) →
      exec (.storeAck c idx) s = .next (((e.lanes.foldl (fun u x => match x.tgt with
          | .dev a => if u.classOf a = .csr then u.csrStore (.job (u.ownerNiche c)) a x.bytes else u.homeWrite a x.bytes
          | .host a => (u.unmark (.host a) x.bytes.length).hostWrite a x.bytes
          | .remote _ _ => u) s).updCore c (fun k => { k with storesOut := k.storesOut.eraseIdx idx })).goLoads c))

/-- LOAD_RESPONSE: the one lane that a load still waits for, uncached at a home in the device's memory, takes its bytes there in its
turn (R292), with R295's check where it is an LD.ACQ; the loads that then have all their bytes finish, and the others go on. -/
def Obligations.LoadResponse : Prop :=
  ∀ (s : State) (c : CoreNum) (idx : Nat) (e : LoadEntry) (x : LaneAcc) (pa : Nat),
    (s.core c).loads[idx]? = some e → (∀ z ∈ (s.core c).loads, z.id = e.id → z = e) → s.drains c = true → e.atom = none →
    e.lanes.filter (fun y => y.bytes.isEmpty) = [x] → (∀ y ∈ e.lanes, y.bad = none) → x.cache = false → x.port ≠ 0 → s.lands c x = true →
    x.tgt = .dev pa → (s.classOf pa).isMemory = true → s.linesHeld pa e.size false = [] →
    s.mem.poisoned pa e.size = false → bit s.err.inject 0 = false →
    let bs := if s.mem.known pa e.size then s.mem.bytes pa e.size else s.mem.bytesAt s.fresh pa e.size
    let r := (s.homeRead pa e.size).2
    let u := if e.acq then r.scopeCheck (streamOf c e.slot) x.scope.toNat x.tgt bs x.va else r
    exec (.loadResponse c idx) s = .next (((u.updCore c (fun k => { k with loads := k.loads.map (fun z =>
      if z.id = e.id then { z with lanes := z.lanes.map (fun y => if y.lane = x.lane then { y with bytes := bs } else y) }
      else z) })).settleLoads c).goLoads c)

/-! ## Ordering, atomics, caches, hints -/

/-- LD.ACQ at homes on this device or the host that the access reaches: every lane's bytes are read there, after the line is written
back and dropped (R293, R297), and the stream goes on; lanes whose home it does not reach yet, or on another device, leave the load
outstanding, and it holds later accesses back. ST.REL enters the store buffer with its scope (R300). It leaves no earlier than the
stream's older loads are performed and its older stores have reached what its scope asks (R293); then, to the core's own drawer, its
lanes are performed in order and the entry is gone. -/
def Obligations.AcquireAndRelease : Prop :=
  (∀ (s s0 s1 s2 s3 : State) (t : Strm) (f : MFmt) (pc : Nat) (ls : List Nat) (va : Nat → Nat) (tg : Nat → Tgt) (ca : Nat → Bool),
    let c := strmCore t
    let sl := strmSlot t
    let n := 2 ^ f.size.toNat
    let as := ls.map (fun l => (l, va l, Acc.ok (tg l) (ca l)))
    s0.heldBack c sl = false →
    (s.StrmGo t (encM 0x22 0 f) (addrReads t f) (dataRegs t f.size.toNat f.dst.toNat) false s0 pc ls →
      s0.resolveAll t (s0.bases t f ls) f.off f.space n .load = (as, s1) → s1.heldLines (ls.map tg) n false = [] →
      ∀ (q : Nat → Got) (bs : Nat → List Byte),
        s1.acqLanes t f.scope.toNat as n = (ls.map (fun l => (l, va l, Acc.ok (tg l) (ca l), q l)), s2) →
        ((∃ l ∈ ls, s2.isStrong (tg l) = true) → s2.storesPending c sl = false) →
        (∀ l ∈ ls, (q l = .bytes (bs l) ∧ bs l ≠ []) ∨ (q l = .miss ∧ bs l = [])) →
        let e : LoadEntry :=
          { id := (s2.core c).newLoad, num := s2.order, slot := sl, acq := true, dst := some f.dst, size := n, sx := f.sx,
            pc := BitVec.ofNat 64 pc,
            lanes := ls.map (fun l => { gotLane (l, va l, Acc.ok (tg l) (ca l), q l) with cache := false, scope := BitVec.ofNat 3 f.scope.toNat }) }
        let u := ({ s2 with order := s2.order + 1 }.updCore c (fun k => { k with loads := k.loads ++ [e] })).goLoads c
        ((∀ l ∈ ls, bs l ≠ []) → s2.pathRead c = (false, s3) → exec (.ldAcq t f) s =
          .next (((s3.loadResult c sl (some f.dst) n f.sx (ls.map (fun l => (l, bs l)))).strmNext t ls).counted t ls)) ∧
        ((∃ l ∈ ls, bs l = []) → exec (.ldAcq t f) s = .next ((u.strmNext t ls).counted t ls))) ∧
    (s.StrmGo t (encM 0x23 0 f) (addrReads t f ++ dataReads t f.size.toNat f.src2.toNat) [] false s0 pc ls →
      s0.resolveAll t (s0.bases t f ls) f.off f.space n .store = (as, s1) →
      ((∃ l ∈ ls, s1.isStrong (tg l) = true) → s1.storesPending c sl = false) → s1.bufferRoom c sl = true →
      let e : StoreEntry := { slot := sl, pc := BitVec.ofNat 64 pc, gid := s1.gidOf t, num := s1.order, rel := some f.scope, lanes := ls.map (fun l =>
        { lane := l, va := va l, tgt := tg l, cache := ca l, bytes := leBytes n (s0.operand t l f.size.toNat f.src2).toNat }) }
      let u := { s1 with order := s1.order + 1 }.updCore c (fun k =>
        if sl.isSome then { k with ve := { k.ve with buffer := k.ve.buffer ++ [e] } } else { k with se := { k.se with buffer := k.se.buffer ++ [e] } })
      exec (.stRel t f) s = .next ((u.strmNext t ls).counted t ls))) ∧
  (∀ (s : State) (c : CoreNum) (ve : Bool) (idx : Nat) (e : StoreEntry) (scope : BitVec 3),
    let buf := if ve then (s.core c).ve.buffer else (s.core c).se.buffer
    buf[idx]? = some e → e.rel = some scope →
    ((s.releasedTo c e.slot scope.toNat e.num = false ∨ ∃ l ∈ (s.core c).loads, l.slot = e.slot ∧ l.num < e.num) →
      exec (.storeBufferDrain c ve idx) s = .next s) ∧
    (s.bulkOk → e.stat = none → scope ≠ 4 → s.mayLeave c (buf.take idx) e = true → bit s.err.inject 0 = false →
      (∀ x ∈ e.lanes, x.cache = false ∧ ∃ pa, x.tgt = .dev pa ∧ drawerBase c ≤ pa ∧ pa < drawerBase c + 0x2_0000) →
      ∃ t, exec (.storeBufferDrain c ve idx) s = .next t ∧ t.mem = (e.lanes.foldl (fun u x => u.homeWrite x.tgt.addr x.bytes) s).mem ∧
        (if ve then (t.core c).ve.buffer else (t.core c).se.buffer) = buf.eraseIdx idx))

/-- The value that each ATOM leaves at its word (table Atomic operations), on 4 or 8 bytes: the old value v, the operand a and the
expected value e give the new value. ADD wraps; MIN and MAX compare signed, MINU and MAXU unsigned; CAS writes only where v is e; FADD
adds two F32 values with one rounding. A merged operation (R317) takes them lane by lane in order, each on the value that the lane
before it left; each lane's old value is the value it found, and the word is left with the last. At a word of this device's memory
where no error is injected, the word's bytes become that value and no byte outside it changes; an unpredictable old byte is drawn by
that one access (R3). -/
def Obligations.MergedAtomics : Prop :=
  (∀ (z : Nat) (v a e : BitVec (8 * z)), (z = 4 ∨ z = 8) →
    let new (fn : Nat) : BitVec (8 * z) := BitVec.ofNat (8 * z) (atomOp fn z v.toNat a.toNat e.toNat).1
    new 0 = v + a ∧ new 1 = (if a.slt v then a else v) ∧ new 2 = (if v.slt a then a else v) ∧
    new 3 = (if a.ult v then a else v) ∧ new 4 = (if v.ult a then a else v) ∧ new 5 = v &&& a ∧ new 6 = v ||| a ∧
    new 7 = v ^^^ a ∧ new 8 = a ∧ new 9 = (if v = e then a else v) ∧ (∀ fn, fn ≤ 9 → (atomOp fn z v.toNat a.toNat e.toNat).2 = 0) ∧
    atomOp 10 4 v.toNat a.toNat e.toNat = fusedTo 0xC {} [[decodeFmt 0xC v.toNat], [decodeFmt 0xC a.toNat]]) ∧
  ((∀ (fn n : Nat) (ops : List (Nat × Nat)) (o : Nat × Nat) (v : Nat),
    (mergedAtom fn n [] v = ([], v, 0)) ∧
    (mergedAtom fn n (ops ++ [o]) v).1 = (mergedAtom fn n ops v).1 ++ [(mergedAtom fn n ops v).2.1] ∧
    (mergedAtom fn n (ops ++ [o]) v).2.1 = (atomOp fn n (mergedAtom fn n ops v).2.1 o.1 o.2).1) ∧
  (∀ (s : State) (pa fn n : Nat) (ops : List (Nat × Nat)), s.mem.wf = true → (s.classOf pa).isMemory = true →
    bit s.err.inject 0 = false →
    let r := s.atomAt (.dev pa) fn n ops
    let m := mergedAtom fn n ops (leNat (if s.mem.known pa n then s.mem.bytes pa n else s.mem.bytesAt s.fresh pa n))
    r.1.1 = m.1 ∧ r.2.mem.bytes pa n = leBytes n m.2.1 ∧ (∀ a, ¬ (pa ≤ a ∧ a < pa + n) → r.2.mem.byte a = s.mem.byte a)))

/-- The eleven ATOMs on words of this device's memory that the access reaches (R292), with room in the store buffer (R300): a line
that the cache holds is first written back and dropped (R297); then every word is performed as one merged operation, in lane order
(R317), each lane's DST takes the value it found, and the stream goes on. -/
def Obligations.AtomicsAtHome : Prop :=
  ∀ (s s0 s1 : State) (t : Strm) (f : MFmt) (pc : Nat) (ls : List Nat) (va : Nat → Nat) (pa : Nat → Nat) (ca : Nat → Bool),
    let c := strmCore t
    let sl := strmSlot t
    let z := f.size.toNat
    let n := 2 ^ z
    let num (v : W64) : Nat := v.toNat % 2 ^ (8 * n)
    let as := ls.map (fun l => (l, va l, Acc.ok (.dev (pa l)) (ca l)))
    let go (fn : Nat) (reads : List (Nat × Nat)) := s.StrmGo t (encM 0x24 fn f)
      (addrReads t f ++ dataReads t z f.src2.toNat ++ reads) (dataRegs t z f.dst.toNat) true s0 pc ls
    let ops (l : Nat) := (num (s0.operand t l z f.src2), num (s0.operand t l z f.dst))
    let cached := (ls.map (fun l => Tgt.dev (pa l))).filter (fun x => !s1.uncachedNow c x)
    let s2 := cached.foldl (fun u x => u.bypassFor c (strmVe t) x) s1
    let words (fn : Nat) := (byWord (ls.map (fun l => (l, Tgt.dev (pa l))))).foldl
      (fun (r : List (Nat × List Byte) × State) w => r.2.atomHome t fn n ops r.1 w) ([], s2)
    let out (fn : Nat) := .next ((((words fn).2.loadResult c sl (some f.dst) n false (words fn).1).strmNext t ls).counted t ls)
    s0.heldBack c sl = false → s0.bufferRoom c sl = true → s0.resolveAll t (s0.bases t f ls) f.off false n .atomic = (as, s1) →
    (cached ≠ [] → (s1.core c).dc.shut = false) → (∀ l ∈ ls, s1.linesHeld (pa l) n true = []) →
    bit s2.err.inject 0 = false → (∀ l ∈ ls, s2.isStrong (.dev (pa l)) = false ∧ s2.mem.poisoned (pa l) n = false ∧
      s2.ownStores c sl (.dev (pa l)) n = false ∧ s2.uncachedNow c (.dev (pa l)) = true ∧ s2.reaches c (.dev (pa l)) = true) →
    (go 0 [] → exec (.atomAdd t f) s = out 0) ∧ (go 1 [] → exec (.atomMin t f) s = out 1) ∧ (go 2 [] → exec (.atomMax t f) s = out 2) ∧
    (go 3 [] → exec (.atomMinu t f) s = out 3) ∧ (go 4 [] → exec (.atomMaxu t f) s = out 4) ∧ (go 5 [] → exec (.atomAnd t f) s = out 5) ∧
    (go 6 [] → exec (.atomOr t f) s = out 6) ∧ (go 7 [] → exec (.atomXor t f) s = out 7) ∧ (go 8 [] → exec (.atomXchg t f) s = out 8) ∧
    (go 9 (dataReads t z f.dst.toNat) → exec (.atomCas t f) s = out 9) ∧ (go 10 [] → exec (.atomFadd t f) s = out 10)

/-- ORD.L, ORD.S and ORD.LS: the stream goes on once its earlier loads (ORD.L, ORD.LS), or stores and write-backs (ORD.S,
ORD.LS), have been performed (R288); a lost store raises BARRIER_LOSS instead and clears the flag (R305). CWB, CINV and CWBI on a line of each lane, on a range, or on
the whole cache (SIZE 0, 1, 2; table Cache operations): the lines named are written back, dropped, or both, and the stream goes on
once each write-back has been acknowledged; with SX 1 lines of the instruction cache are dropped. -/
def Obligations.OrderingAndCacheOperations : Prop :=
  (∀ (s s0 : State) (t : Strm) (f : MFmt) (pc : Nat) (ls : List Nat),
    let c := strmCore t
    let on := .next ((s0.strmNext t ls).counted t ls)
    let go (fn : Nat) := s.StrmGo t (encM 0x25 fn f) [] [] (fn != 1) s0 pc ls
    let clear := s0.storesPending c (strmSlot t) = false ∧ s0.backsPending c = false
    (go 0 → exec (.ordL t f) s = on) ∧
    (go 1 → clear → s0.lostOf t ls = none → exec (.ordS t f) s = on) ∧
    (go 2 → clear → s0.lostOf t ls = none → exec (.ordLs t f) s = on) ∧
    (∀ a u, clear → s0.lostOf t ls = some a →
      (s0.clearLost t ls).strmFault t (s0.lostLane t ls) pc 0x08 (a &&& mask 0 62) = some u →
      (go 1 → exec (.ordS t f) s = .next (u.counted t ls)) ∧ (go 2 → exec (.ordLs t f) s = .next (u.counted t ls)))) ∧
  (∀ (s s0 : State) (t : Strm) (f : MFmt) (pc : Nat) (ls : List Nat),
    let c := strmCore t
    let ad := addrReads t { f with space := false }
    let va (l : Nat) : Nat := (s0.base t l false f.src1 + f.off.signExtend 64).toNat
    let n := (s0.operand t (ls.headD 0) 2 f.src2).toNat
    let go (fn : Nat) (reads : List (Nat × Nat)) := s.StrmGo t (encM 0x26 fn f) reads [] true s0 pc ls
    let fin (u : State) := Host.Outcome.next (φ := Fault) (ρ := Refusal) ((u.strmNext t ls).counted t ls)
    let w (p : Nat → Bool) (u : State) := u.cleanLines c (.engine (strmVe t)) p
    let finished (fn : Nat) (p : Nat → Bool) (u : State) : Prop := f.sx = true ∨ fn = 1 ∨ (w p u).cleaned c (.engine (strmVe t)) p = true
    let act (fn : Nat) (p : Nat → Bool) (u : State) : State := if f.sx then u.updCore c (fun k => { k with ic := { k.ic with
        lines := k.ic.lines.filter (fun x => !p x.2.addr), loose := none } })
      else match fn with | 0 => w p u | 1 => u.dropLines c p | _ => (w p u).dropLines c p
    let ran (fn : Nat) (reads : List (Nat × Nat)) (p : Nat → Bool) (u : State) : Prop := go fn reads → finished fn p u →
      match fn with
      | 0 => exec (.cwb t f) s = fin (act 0 p u)
      | 1 => exec (.cinv t f) s = fin (act 1 p u)
      | _ => exec (.cwbi t f) s = fin (act 2 p u)
    let lines (fn : Nat) (rs : List (Nat × Nat)) (u : State) : Prop :=
      s0.laneLines c (cacheKind fn f.sx) f.sx (ls.map (fun l => (l, va l))) = (.ok rs, u)
    let range (fn : Nat) (rs : List (Nat × Nat)) (u : State) : Prop :=
      s0.rangeLines c (cacheKind fn f.sx) f.sx (n / 0x1_0000 + 2) (va (ls.headD 0)) n [] none = (.ok rs, u)
    let rd := ad ++ [(fileOf t, f.src2.toNat)]
    (s0.core c).dc.shut = false → (∀ e ∈ (s0.core c).buffer (strmSlot t), e.slot ≠ strmSlot t) →
    (f.size = 2 → ran 0 [] (fun _ => true) s0 ∧ ran 1 [] (fun _ => true) s0 ∧ ran 2 [] (fun _ => true) s0) ∧
    (f.size = 0 → ∀ rs u, (lines 0 rs u → ran 0 ad (inRanges rs) u) ∧ (lines 1 rs u → ran 1 ad (inRanges rs) u) ∧
      (lines 2 rs u → ran 2 ad (inRanges rs) u)) ∧
    (f.size = 1 → ∀ rs u, (range 0 rs u → ran 0 rd (inRanges rs) u) ∧ (range 1 rs u → ran 1 rd (inRanges rs) u) ∧
      (range 2 rs u → ran 2 rd (inRanges rs) u)))

/-- The eleven HINTs join the niche's hint queue with their FN, address, length and region, while it holds fewer than 256; a
full queue drops the hint and counts it (R272, R273). HINT_PROCESS takes the oldest hint and applies it at each of its pages, in
ascending address: not where its address has no translation (R139), and not as a PIN beyond PIN_LIMIT, which is counted (R273). -/
def Obligations.Hints : Prop :=
  ∀ (s s0 : State) (t : Strm) (f : MFmt) (pc : Nat) (ls : List Nat) (n : NicheNum),
    let c := strmCore t
    let o := s0.ownerNiche c
    let h (fn : BitVec 5) : Hint :=
      { fn := fn, va := (s0.base t (ls.headD 0) false f.src1 + f.off.signExtend 64).toNat,
        len := (s0.operand t (ls.headD 0) 2 f.src2).toNat, region := regionOf c }
    let put (fn : BitVec 5) := if (s0.niche o).hints.length < 256 then s0.updNiche o (fun x => { x with hints := x.hints ++ [h fn] })
      else { s0 with place := { s0.place with hintsDropped := satAdd s0.place.hintsDropped 1 } }
    let go (fn : BitVec 5) := s.StrmGo t (encM 0x27 fn.toNat f) (addrReads t f ++ [(fileOf t, f.src2.toNat)]) [] true s0 pc ls
    let out (fn : BitVec 5) := Host.Outcome.next (φ := Fault) (ρ := Refusal) (((put fn).strmNext t ls).counted t ls)
    (go 0 → exec (.hot t f) s = out 0) ∧ (go 1 → exec (.cold t f) s = out 1) ∧ (go 2 → exec (.willNeed t f) s = out 2) ∧
    (go 3 → exec (.dontNeed t f) s = out 3) ∧ (go 4 → exec (.tierShelf t f) s = out 4) ∧ (go 5 → exec (.tierHbm t f) s = out 5) ∧
    (go 6 → exec (.tierBulk t f) s = out 6) ∧ (go 7 → exec (.tierRemote t f) s = out 7) ∧ (go 8 → exec (.pin t f) s = out 8) ∧
    (go 9 → exec (.unpin t f) s = out 9) ∧ (go 10 → exec (.near t f) s = out 10) ∧
    (∀ x xs, (s.niche n).hints = x :: xs →
      let u := s.updNiche n (fun y => { y with hints := xs })
      let vas := u.hintVas n (x.va + x.len) (x.len / 0x1_0000 + 2) x.va
      let tooMany := x.fn = 8 ∧ fld (u.niche n).nplControl 4 20 < (u.niche n).pinned.toNat + u.pinUnits n vas
      ((u.walk n x.va).isLeaf = false → exec (.hintProcess n) s = .next u) ∧
      ((u.walk n x.va).isLeaf = true → tooMany →
        exec (.hintProcess n) s = .next (u.updNiche n (fun y => { y with pinRefused := satAdd y.pinRefused 1 }))) ∧
      ((u.walk n x.va).isLeaf = true → ¬ tooMany →
        exec (.hintProcess n) s = .next (vas.foldl (fun u va => u.hintPage n x.fn.toNat va x.region) u)))

/-! ## Barriers, semaphores, command issue, quantising -/

/-- SYNC.G and SYNC.B, once the group's earlier stores have left the buffer: the active threads arrive. While a live thread of
the group (of the block) has not arrived, the arrived threads wait where they stand. When all have, every thread that waits at
that barrier leaves it, past its SYNC (R116, R117, R118); the other groups are as before. -/
def Obligations.ThreadBarriers : Prop :=
  ∀ (s : State) (g : VeAt) (f : MFmt) (x : Group) (pc : Nat) (act : List Nat),
    let s0 := s.setGroup g.core g.slot.toNat x
    let here (k : Arrival) := x.mapLanes act (fun _ t => { t with arrived := k })
    s0.released g.core (some g.slot) 0 = true → x.live ≠ [] →
    (s.VeGo g (encM 0x28 0 f) [] [] true x pc act →
      let y := here .group
      ∃ t, exec (.syncG g f) s = .next t ∧
        ((∃ l ∈ y.live, (y.thread l).arrived ≠ .group) → ∃ z, t.group g.core g.slot.toNat = some z ∧ z.threads = y.threads ∧ z.vregs = y.vregs) ∧
        ((∀ l ∈ y.live, (y.thread l).arrived = .group) → y.live ≠ [] → ∃ z, t.group g.core g.slot.toNat = some z ∧
          z.threads = (y.leave .group).threads ∧ z.vregs = y.vregs) ∧
        ∀ i, i ≠ g.slot.toNat → t.group g.core i = s.group g.core i) ∧
    (s.VeGo g (encM 0x28 1 f) [] [] true x pc act → Sparse.rising (s.core g.core).ve.groups = true →
      let y := here .block
      let of (i : Nat) (p : Group) : Prop := (if i = g.slot.toNat then p = y else s.group g.core i = some p) ∧ p.blockSlot = x.blockSlot
      y.live ≠ [] → ∃ t, exec (.syncB g f) s = .next t ∧
        ((∃ i p, of i p ∧ ∃ l ∈ p.live, (p.thread l).arrived ≠ .block) →
          ∀ i p, of i p → ∃ z, t.group g.core i = some z ∧ z.threads = p.threads ∧ z.vregs = p.vregs) ∧
        ((∀ i p, of i p → ∀ l ∈ p.live, (p.thread l).arrived = .block) →
          ∀ i p, of i p → ∃ z, t.group g.core i = some z ∧ z.threads = (p.leave .block).threads ∧ z.vregs = p.vregs) ∧
        ∀ i p, s.group g.core i = some p → i ≠ g.slot.toNat → p.blockSlot ≠ x.blockSlot → t.group g.core i = some p)

/-- SEM.SIG, SEM.WAIT and SEM.TRY on semaphore i of the core with count n (R321, R323): the signal follows the stream's stores; a take
succeeds at once when no waiter is queued and the count suffices, and subtracts n; else SEM.WAIT queues the stream at the tail (R324)
and SEM.TRY writes 0 and changes nothing. NSEM.SIG, NSEM.WAIT and NSEM.TRY do so on the niche semaphore that the index register names,
of those below 4,096 (R327); a signal after a lost store is discarded with an error record (R306, R329). -/
def Obligations.Semaphores : Prop :=
  (∀ (s s0 : State) (t : Strm) (f : IFmt) (pc : Nat) (ls : List Nat),
    let c := strmCore t
    let i := (f.imm.toNat / 2 ^ 16) % 64
    let n := f.imm.toNat % 2 ^ 16
    let x := (s0.core c).sem i
    let go (fn : Nat) := s.StrmGo t (encI 0x29 fn f) [] [] true s0 pc ls
    let take := s0.updCore c (fun k => k.setSem i { x with count := x.count - n })
    let w : Waiter := { who := strmWho t, need := n, lanes := ls, since := (s0.region (regionOf c)).tl, cyc := (s0.region (regionOf c)).cycles }
    let queued := (s0.strmWaits t).updCore c (fun k => k.setSem i { x with queue := x.queue ++ [w] })
    let can := x.queue = [] ∧ n ≤ x.count
    (go 0 → s0.released c (strmSlot t) 1 = true →
      exec (.semSig t f) s = .next (((s0.strmNext t ls).semSignal c i n (strmWho t).engine).counted t ls)) ∧
    (go 1 → (can → exec (.semWait t f) s = .next ((take.strmNext t ls).counted t ls)) ∧
      (¬ can → exec (.semWait t f) s = .next (queued.counted t ls))) ∧
    (go 2 → (can → exec (.semTry t f) s = .next ((take.tryResult t f.dst.toNat ls true).counted t ls)) ∧
      (¬ can → exec (.semTry t f) s = .next ((s0.tryResult t f.dst.toNat ls false).counted t ls)))) ∧
  (∀ (s s0 : State) (t : Strm) (f : IFmt) (pc : Nat) (ls : List Nat),
    let c := strmCore t
    let o := s0.ownerNiche c
    let i := (s0.operand t (ls.headD 0) 2 f.src1).toNat
    let n := f.imm.toNat % 2 ^ 16
    let x := (s0.niche o).nsem i
    let go (fn : Nat) := s.StrmGo t (encI 0x2A fn f) [(fileOf t, f.src1.toNat)] [] true s0 pc ls
    let w : NWaiter := { core := c, who := strmWho t, need := n, lanes := ls, since := (s0.region (regionOf c)).tl }
    let can := x.queue = [] ∧ n ≤ x.count
    let take := s0.updNsem o i (fun _ => { x with
      count := x.count - n
      takes := match s0.owner c with
        | some (_, ctx) => x.takes.put ctx.toNat (min (x.count - n) (x.takes.getD ctx.toNat (x.count - n)))
        | none => x.takes })
    i < 4096 →
    (go 0 → s0.released c (strmSlot t) 4 = true → (s0.lostOf t ls = none →
        exec (.nsemSig t f) s = .next (((s0.strmNext t ls).nsemSignal o i n (some (c, (strmWho t).engine))).counted t ls)) ∧
      (∀ a, s0.lostOf t ls = some a → ∃ e, e.cause = 0x2A ∧ e.core = some c ∧ e.addr = a.toNat ∧
        exec (.nsemSig t f) s = .next (((s0.strmNext t ls).logError e).counted t ls))) ∧
    (go 1 → (can → exec (.nsemWait t f) s = .next ((take.strmNext t ls).counted t ls)) ∧
      (¬ can → exec (.nsemWait t f) s =
        .next (((s0.strmWaits t).updNsem o i (fun y => { y with queue := y.queue ++ [w] })).counted t ls))) ∧
    (go 2 → (can → exec (.nsemTry t f) s = .next ((take.tryResult t f.dst.toNat ls true).counted t ls)) ∧
      (¬ can → exec (.nsemTry t f) s = .next ((s0.tryResult t f.dst.toNat ls false).counted t ls))))

/-- A signal of a core semaphore (R321, R322, R324): the count rises by n, to at most 0xFFFF, past which OVERFLOW is set; then
waiters take from the head of the queue while its count suffices, and none behind a head that must wait. No other
semaphore of the core changes. -/
def Obligations.SignalServesTheQueue : Prop :=
  ∀ (s : State) (c : CoreNum) (i n : Nat) (by_ : Nat × Nat),
    let x := (s.core c).sem i
    let total := min 0xFFFF (x.count + n)
    let y := ((s.semSignal c i n by_).core c).sem i
    (∃ k, y.queue = x.queue.drop k ∧ y.count + ((x.queue.take k).map (·.need)).sum = total) ∧
    (∀ w ∈ y.queue.head?, y.count < w.need) ∧
    y.overflow = (x.overflow || decide (0xFFFF < x.count + n)) ∧
    ∀ j, j ≠ i → ((s.semSignal c i n by_).core c).sem j = (s.core c).sem j

/-- MXI and DMAI: the command {sB, sA} joins the tail of the issue FIFO of the ME or the DE, which has room for eight (R68,
R69), with the issuing pc, once the SE's stores have left the buffer. -/
def Obligations.CommandIssue : Prop :=
  ∀ (s : State) (c : CoreNum) (f : RFmt),
    let k := s.core c
    let go (op : Nat) := s.SeGo c (encR op 0 f) [(0, f.src1.toNat), (0, f.src2.toNat)] none true ∧ s.released c none 1 = true
    let cmd : FifoCmd :=
      { lo := k.se.reg f.src1.toNat, hi := k.se.reg f.src2.toNat, issuer := .insn k.se.pc, launch := launchOf k.se.entry,
        rank := (k.se.entry.map (·.rank)).getD 0, node := (k.se.entry.map (·.node)).getD 0,
        super := (k.se.entry.map (·.super)).getD false }
    let n := Sparse.put k.self 2 (Sparse.getD k.self 2 0 + 1)
    (go 0x30 → k.me.fifo.length < 8 → exec (.mxi c f) s = .next (s.setCore c { k with
      me := { k.me with fifo := k.me.fifo ++ [cmd] }, se := { k.se with pc := k.se.pc + 8 }, self := n })) ∧
    (go 0x31 → k.de.fifo.length < 8 → exec (.dmai c f) s = .next (s.setCore c { k with
      de := { k.de with fifo := k.de.fifo ++ [cmd] }, se := { k.se with pc := k.se.pc + 8 }, self := n }))

/-- QCVT and QST of a source column under one scale, with no fault of an offset (R182 to R187): QCVT writes each active lane's code to
its vD. QST enters the store buffer (R300) with the block's codes, packed, and its scale byte, each for its place in the drawer. With a
record offset other than 0xFFFF_FFFF, the entry, of QCVT too, carries what the lanes add to the 32 bytes of the statistics record. -/
def Obligations.Quantising : Prop :=
  ∀ (s : State) (g : VeAt) (f : RFmt) (x : Group) (pc : Nat) (act : List Nat),
    let qs := s.quantLanes g x f act
    let code (l : Nat) : Nat := ((qs.find? (fun q => q.1 == l)).map (·.2.code)).getD 0
    let rec_ := x.num (act.headD 0) f.src3
    let stat := if rec_ = 0xFFFF_FFFF then none else some (rec_, statAdds f.fmt.toNat (scaleOf x f act) (qs.map (·.2)))
    let a := x.num (act.headD 0) f.dst
    let n := 4 * fmtWidth f.fmt.toNat
    let part (at_ : Nat) (bs : List Byte) : LaneAcc :=
      { lane := act.headD 0, va := 2 ^ 58, tgt := .dev (drawerBase g.core + at_), cache := false, bytes := bs }
    let entered (u : State) (y : Group) (lanes : List LaneAcc) : State :=
      State.updCore { u with order := u.order + 1 } g.core (fun k => { k with ve := { k.ve with buffer := k.ve.buffer ++
        [{ slot := some g.slot, pc := BitVec.ofNat 64 pc, gid := y.seed, num := u.order, lanes := lanes, all := true, stat := stat }] } })
    let free (dsts : List Nat) : Prop :=
      let s0 := (s.over g act dsts).setGroup g.core g.slot.toNat x
      s0.heldBack g.core (some g.slot) = false ∧ s0.bufferRoom g.core (some g.slot) = true
    act.Nodup →
    (s.VeGo g (encR 0x38 0 f) (qReads f false) [f.dst.toNat] false x pc act → recordFault rec_ = none →
      let y := ((x.writeLanes act f.dst.toNat (fun l => BitVec.ofNat 32 (code l))).srAdvance act f 1).advance act
      let t := (s.over g act [f.dst.toNat]).veDone g y (quantFlags qs) act.length
      (rec_ = 0xFFFF_FFFF → exec (.qcvt g f) s = .next t) ∧
      (rec_ ≠ 0xFFFF_FFFF → free [f.dst.toNat] → exec (.qcvt g f) s = .next (entered t y []))) ∧
    (s.VeGo g (encR 0x39 0 f) (qReads f true) [] false x pc act → qstFault f.fmt.toNat a rec_ = none → free [] →
      let y := (x.srAdvance act f 1).advance act
      exec (.qst g f) s = .next (entered (s.veDone g y (quantFlags qs) act.length) y
        [part (a % 0x2_0000 + a / 2 ^ 24 % 32 * n) (packCodes (fmtWidth f.fmt.toNat) ((List.range 32).map code)),
         part (a % 0x2_0000 + 32 * n + a / 2 ^ 24 % 32) [BitVec.ofNat 8 (scaleOf x f act)]]))
/-! ## The matrix engine, the DMA engine, the armature -/

/-- Commands that the ME starts from the head of its FIFO with no count to wait for, valid and with no poison, behind those it has
started (R218): each becomes a run with its drain record, read once (R221). MULTIPLY loads the shadow weights of its first chunk
(R206); DRAIN and a draining RESUME read rows until a dovetail buffer is full (R210); FLAGS, SPILL and RESUME take what they convert; a
reserved KIND is CMD_INVALID (R217). WEIGHT_LOAD_DONE makes the next chunk's shadow weights active, takes its steps and loads those of
the chunk behind it (R206, R216); DRAIN_ROW_WRITE performs a waiting column group's write, which no group before it shares a column
with (R210); ME_COMMAND_COMPLETE ends a run, all steps, rows and writes done (R219). -/
def Obligations.MatrixCommands : Prop :=
  ∀ (s : State) (c : CoreNum) (f : FifoCmd) (rest : List FifoCmd),
    let k := s.core c
    let s1 := s.updMe c (fun m => { m with fifo := rest })
    let a := drawerBase c + f.paramOff
    let run (r : List Byte) : MeRun :=
      { cmd := f, chunk := 0, chunks := if f.kind = 0 then f.chunks else 0, rows := f.rowsToRead, record := r, dest := f.dest r,
        since := s.cyclesOf c }
    let on (r : List Byte) (u : State) := u.updMe c (fun m => { m with runs := m.runs ++ [run r] })
    let opened (r : List Byte) (u : State) : Prop :=
      (f.doesDrain = false ∧ r = [] ∧ u = s1) ∨
      (f.doesDrain = true ∧ s.mem.firstPoison a 32 = none ∧ f.recordOk r = true ∧
        r = (s.mem.blurred s.fresh c (f.dest (s.mem.bytesAt s.fresh a 32))).bytesAt s.fresh a 32 ∧ u = { s1 with fresh := s.fresh + 1 })
    let loaded (u : State) (r : MeRun) (p : ChunkAt) : Shadow :=
      { blocks := p.kbs.flatMap (fun kb => (List.range r.cmd.cols).map (fun n =>
          (u.mem.blurred u.fresh c r.dest).rawBlock u.fresh c r.cmd.fmtB p.bOff (kb * 32 + n)))
        bad := u.weightPoison c r.cmd p }
    let x := s.region (regionOf c)
    let sound : Prop := ∀ p ∈ f.quarterRows, ∀ n < f.cols, spillKey f.grant p.2 n ∉ x.spillPoison ∧ spillKey f.grant p.2 n ∉ x.spillBad
    bit s.err.inject 0 = false →
    (k.me.fifo = f :: rest → s.runs c = true → k.me.canStart f = true → f.waitEn = false →
      (5 ≤ f.kind → exec (.reservedCommandKind c false) s = .next (s1.meRaise c 0x0B f 0)) ∧
      (f.fieldsOk = true → ∀ r u, opened r u →
        (f.kind = 0 → 0 < f.chunks → ∀ p, (run r).chunkAt = some p → exec (.multiply c) s =
          .next (State.updRun { on r u with fresh := u.fresh + 1 } c k.me.runs.length
            (fun y => { y with shadow := some (loaded u (run r) p) }))) ∧
        (f.kind = 1 → exec (.drain c) s = .next ((on r u).pumpDrain c 4)) ∧
        (f.kind = 2 → exec (.flags c) s = .next (s1.updMe c (fun m => { m with
          runs := m.runs ++ [{ run r with writes := [{ col := 0, cols := 32, writes := [(f.outOff, leBytes 8 m.flags.toNat)] }] }]
          flags := m.flags &&& ~~~BitVec.ofNat 8 (f.hi.toNat % 256) }))) ∧
        (f.kind = 3 → s.grantOk c f = true → (f.acc = true → sound) → exec (.spill c) s =
          .next (((if f.acc then (on r u).spillReseed (regionOf c) else on r u).meSeed c).spillRows c f)) ∧
        (f.kind = 4 → s.grantOk c f = true → sound →
          let v := (on r u).spillReseed (regionOf c)
          exec (.resume c) s = .next (if f.drains then v.pumpDrain c 4 else (v.meSeed c).resumeRows c f)))) ∧
    (∀ i r p w, (k.me.runs.mapIdx (fun i r => (i, r))).find? (fun q => decide (q.2.chunk < q.2.chunks)) = some (i, r) →
      r.chunkAt = some p → r.shadow = some w → w.bad = none → s.rowPoison c r.cmd p = none → k.pathBad = 0 → r.cmd.audit = false →
      s.runs c = true → drainBefore (k.me.runs.take i) r.cmd = false →
      let s2 := s.meSeed c
      let s3 : State := { s2.updMe c (s2.chunkMe c r p w) with fresh := s2.fresh + 1 }
      let r' := { r with chunk := r.chunk + 1, shadow := none }
      exec (.weightLoadDone c) s = .next ((((s3.updRun c i (fun _ => r')).nextWeights c i r').feedStalls c).pumpDrain c 4)) ∧
    (∀ idx i j g, k.me.waiting[idx]? = some (i, j, g) → s.clocked c = true → (∀ w ∈ k.me.waiting.take idx, w.2.2.meets g = false) →
      let t := (g.writes.foldl (fun t w => t.homeWrite (drawerBase c + w.1) w.2) s).addStat c g.stat
      exec (.drainRowWrite ⟨c, idx⟩) s =
        .next (((t.drainStalls c).updRun c i (fun r => { r with writes := r.writes.eraseIdx j })).pumpDrain c 4)) ∧
    (∀ i r, (k.me.runs.mapIdx (fun i r => (i, r))).find? (fun q => q.2.finished) = some (i, r) → s.clocked c = true →
      r.cmd.sigEn = false → (∃ pc, r.cmd.issuer = .insn pc) → exec (.meCommandComplete c) s = .next
        ((s.updMe c (fun m => { m with runs := (m.runs.eraseIdx i).map (fun y => { y with since := s.cyclesOf c }) })).selfAdd c 5
          (s.cyclesOf c - ((k.me.runs.head?.map (·.since)).getD (s.cyclesOf c)))))

/-- The steps of a chunk into one tile (R201 to R203): every value of the command's rows and columns takes one step a block, its
blocks in ascending order, each from the value that the step before left; every other tile value is as before. -/
def Obligations.TileSteps : Prop :=
  ∀ (m : Me) (f : FifoCmd) (t neg : Bool) (kbs : List Nat) (as bs : Nat → Nat → Blk × Byte),
    let m' := m.chunkSteps f [(t, neg)] kbs as bs
    (∀ r n, r < f.rows → n < f.cols → m'.get t (32 * r + n) = kbs.foldl (fun v kb =>
      (step1 v (contribution (as r kb).1.scale.isNone neg (as r kb).1 (bs n kb).1) ((as r kb).2 ||| (bs n kb).2)).1) (m.get t (32 * r + n))) ∧
    (∀ t' i, (t' ≠ t ∨ ∀ r n, r < f.rows → n < f.cols → i ≠ 32 * r + n) → m'.get t' i = m.get t' i) ∧
    m'.fifo = m.fifo ∧ m'.runs = m.runs

/-- Commands and blocks of the DE, and the armature's additions. LIST starts with its list's place and its anchor (R350);
CONTRIB hands its partial to the armature, which accepts each rank once (R249); a reserved KIND is CMD_INVALID (R335).
BLOCK_START starts the next entry, checked and with no count to take (R340); BLOCK_PERFORMED copies a block's bytes, or zeros for
FILL (R344), and removes it; LATE_DATA counts and records an entry past its due slot (R351, R352). ARMATURE_ADD replaces the
partials of two adjoining ranges by their sum (R247). -/
def Obligations.DmaAndArmature : Prop :=
  ∀ (s : State) (c : CoreNum) (f : FifoCmd) (rest : List FifoCmd),
    let s1 := s.updDe c (fun m => { m with fifo := rest })
    let x := s.region (regionOf c)
    let r0 : DeRun :=
      { cmd := f, isList := true, space := bit f.lo 4, addr := (f.lo.toNat / 2 ^ 5) % 2 ^ 52 * 32, count := f.count, next := 0,
        anchor := x.tl.toNat / 1024, blocks := [], leftRun := x.state != 0 }
    let used (r : DeRun) (e : BlockWords) : DeRun :=
      if r.ahead.any (fun x => x.1 == r.next) then r else { r with ahead := r.ahead ++ [(r.next, some e.bytes)] }
    let started (r : DeRun) (e : BlockWords) (ps : List Piece) (issued : Nat) : DeRun :=
      { r with next := r.next + 1, taken := false, ahead := r.ahead.filter (fun e => e.1 != r.next),
               blocks := r.blocks ++ [{ index := r.next, w0 := e.w0, w1 := e.w1, w2 := e.w2, w3 := e.w3, pieces := ps, issued := issued }],
               wrote := r.wrote ++ ps.map (fun p => (p.dst, p.len)) }
    ((s.core c).de.run = none → (s.core c).de.fifo = f :: rest → s.runs c = true → f.deWaitEn = false →
      (2 ≤ f.kind → exec (.reservedCommandKind c true) s = .next (s1.deRaise c 0x0B f 0)) ∧
      (f.kind = 0 → f.listOk = true → exec (.list c) s = .next ((s1.updDe c (fun m => { m with run := some r0 })).readAhead c)) ∧
      (f.kind = 1 → f.contribOk = true → bit s.err.inject 0 = false → ∀ i r,
        s.fe.reds.findIdx? (fun r => r.launch == f.launch && r.index == fld f.hi 0 16) = some i → s.fe.reds[i]? = some r →
        r.accepts (bit f.lo 4) f.conRows f.conCols (fld f.hi 30 14) (fld f.hi 44 6) (fld f.hi 50 7) = true →
        let flat := (fld f.hi 30 14 * r.g + fld f.hi 44 6) * r.c + fld f.hi 50 7
        exec (.contrib c) s = .next ((s1.accept i r flat (s.partial_ c f)).deEnd c f))) ∧
    (∀ r, (s.core c).de.run = some r →
      (∀ e s2 s3 ps, s.runs c = true → r.isList = true → r.next < r.count → r.waiting = false →
        (r.blocks.filter (fun b => !b.performed)).length < 6 → (∀ b ∈ r.blocks, b.performed = true ∨ bit b.w2 55 = false) →
        s.readEntry c r r.next = (.words e, s2) → e.ok = true → bit e.w2 38 = false → bit e.w2 55 = false →
        (s2.updDe c (fun m => { m with run := some (used r e) })).blockPieces c r.cmd.super e = (.ok ps, s3) → farBlock ps = false →
        (∀ b ∈ r.blocks, b.index ≠ r.next ∧ (b.performed = false → clash ps b.pieces = false)) →
        exec (.blockStart c) s = .next ((State.updDe { s3 with fresh := s3.fresh + 1 } c (fun m =>
          { m with run := some (started r e ps (Config.freeNat s3.fresh % (ps.length + 1))) })).readAhead c)) ∧
      (∀ b p d, r.blocks = [b] → b.performed = false → b.stale = false → b.done = 0 → bit b.w2 45 = false → r.next < r.count →
        b.pieces = [p] → s.runs c = true → s.drains c = true → s.pieceReach c p = true →
        s.blockBusy c r.cmd.launch b.index = false → p.dst = .dev d → (s.classOf d).isMemory = true → s.linesHeld d p.len true = [] →
        bit s.err.inject 0 = false → s.mem.wf = true →
        ((∃ a, p.src = some (.dev a) ∧ (s.classOf a).isMemory = true ∧ s.linesHeld a p.len false = [] ∧ overlaps d p.len a p.len = false ∧
            s.mem.firstPoison a p.len = none) → ∃ a t, p.src = some (.dev a) ∧ exec (.blockPerformed c 0) s = .next t ∧
          t.mem = s.mem.store d (s.memRead a p.len).1 ∧ (t.core c).de.run = some { r with blocks := [] }) ∧
        (p.src = none → ∃ t, exec (.blockPerformed c 0) s = .next t ∧
          t.mem = s.mem.store d (List.replicate p.len 0) ∧ (t.core c).de.run = some { r with blocks := [] })) ∧
      (∀ i due, s.lateEntry c r = some (i, due) →
        let u := (s.updDe c (fun m => { m with run := some { r with late := r.late ++ [i] } })).updRegion (regionOf c) (fun y =>
          { y with late := satAdd y.late 1, lateStretched := satAdd y.lateStretched r.leftRun.toNat })
        ∃ recs, exec (.lateData c) s = .next ((u.selfAdd c 12 1).frieze (regionOf c) 0x20 recs) ∧ recs.length = 2)) ∧
    (∀ i lo hi r a b, s.fe.reds[i]? = some r → r.done = false → lo + 1 < hi → r.isNode lo hi 64 0 r.ranks = true →
      r.part lo (r.split lo hi) = some a → r.part (r.split lo hi) hi = some b →
      exec (.armatureAdd i lo hi) s = .next (((s.setRed (r.add lo (r.split lo hi) hi a b)).count 114 1).redFinish i) ∧
      (r.part lo hi = none → (r.add lo (r.split lo hi) hi a b).part lo hi = some ((a.zip b).map (fun p => (addValue r.x80 p.1 p.2).1))))

/-! ## Engine entries, kernels, caches -/

/-- ENGINE_ENTRY_FETCH takes the head of an engine's queue unless the engine is held or busy, or its FIFO full (R67 to R69), an SE
entry with RANK, RANKS and GRANTS in s1 to s3 (R374). LAUNCH_ENTRY_START accepts a launch's shape or raises LAUNCH_SHAPE (R106).
KERNEL_START begins the write-back of the data cache, behind whose last acknowledgement the cache is
invalid, ARITH_FLAGS are clear and the engine issues (R123, R174): at once where no line is dirty. BLOCK_ADMIT admits the next block into the lowest free
slots and drawer run (R105, R107). KERNEL_END begins the write-back of R124 or raises BARRIER_LOSS for a lost store (R307);
ENTRY_COMPLETE frees the engine. BARRIER_WATCHDOG_EXPIRY raises BARRIER_STALL with the lanes that lack (R120, R121). -/
def Obligations.EngineEntries : Prop :=
  ∀ (s : State) (c : CoreNum) (x : EngineEntry) (q : List EngineEntry),
    let k := s.core c
    let at_ := BitVec.ofNat 64 (x.word1.toNat % 2 ^ 57)
    let sregs : Sparse W64 := [(1, BitVec.ofNat 64 (x.word2.toNat % 2 ^ 24)), (2, BitVec.ofNat 64 (x.word2.toNat / 2 ^ 24 % 2 ^ 24)),
      (3, BitVec.ofNat 64 (x.word5.toNat / 2 ^ 8 % 2 ^ 12))]
    let cmd : FifoCmd :=
      { lo := x.word1, hi := x.word2, issuer := .entry x.node x.maquette, launch := x.launch, rank := x.rank, node := x.node, super := x.super }
    let fetched (k' : Core) := Host.Outcome.next (φ := Fault) (ρ := Refusal)
      (State.dropProbe { s.setCore c k' with fresh := s.fresh + 1 } (regionOf c))
    let calm : Prop := k.dc.flush = [] ∧ k.dc.wb = none ∧ k.dc.miss = none ∧ k.dc.dirtyOnes = [] ∧ s.backsOf c .flush = 0
    s.runs c = true →
    (bit k.control 0 = false → k.seQ = x :: q → k.se.entry = none → exec (.engineEntryFetch c .se) s =
      fetched { k with seQ := q, se := { k.se.cleared with entry := some x, sregs := sregs, preds := 0, pc := at_, gid := s.fresh } }) ∧
    (bit k.control 1 = false → k.veQ = x :: q → k.ve.entry = none → exec (.engineEntryFetch c .ve) s =
      fetched { k with veQ := q, ve := { k.ve.cleared with entry := some x, gid := s.fresh } }) ∧
    (bit k.control 2 = false → k.meQ = x :: q → k.me.fifo.length < 8 → exec (.engineEntryFetch c .me) s =
      fetched { k with meQ := q, me := { k.me with fifo := k.me.fifo ++ [cmd] } }) ∧
    (bit k.control 3 = false → k.deQ = x :: q → k.de.fifo.length < 8 → exec (.engineEntryFetch c .de) s =
      fetched { k with deQ := q, de := { k.de with fifo := k.de.fifo ++ [cmd] } }) ∧
    (k.ve.entry = some x → k.ve.started = false →
      (x.badShape = false → exec (.launchEntryStart c) s = .next (s.setCore c { k with ve := { k.ve with
        started := true, nextBlock := x.word4.toNat % 2 ^ 24, endBlock := x.word4.toNat % 2 ^ 24 + x.word4.toNat / 2 ^ 24 % 2 ^ 25 } })) ∧
      (x.badShape = true → exec (.launchEntryStart c) s =
        .next (s.raise c x.launch { code := 0x09, engine := 1, precise := false, queued := some (x.node, x.maquette) }))) ∧
    (k.dc.ready = true →
      (k.se.entry.isSome → k.se.running = false → k.se.ended = false → s.engineStores c false = false →
        exec (.kernelStart c .se) s = .next (s.startFlush c (.start false)) ∧
        (calm → s.startFlush c (.start false) =
          s.updCore c (fun k => { k with dc := { k.dc with lines := [] }, se := { k.se with running := true, flags := 0 } }))) ∧
      (k.ve.started = true → k.ve.running = false → k.ve.ended = false → s.engineStores c true = false →
        exec (.kernelStart c .ve) s = .next (s.startFlush c (.start true)) ∧
        (k.ve.entry.isSome → calm → s.startFlush c (.start true) =
          s.updCore c (fun k => { k with dc := { k.dc with lines := [] }, ve := { k.ve with running := true, flags := 0 } })))) ∧
    (∀ bs rest i, k.ve.entry = some x → k.ve.started = true → k.ve.nextBlock ≠ k.ve.endBlock → k.headLimit = 0 →
      freeSlots k.ve.blocks 16 = bs :: rest → k.drawerRun x.kib (128 - x.reserve) = some i → x.kib ≠ 0 →
      let gs := ((freeSlots k.ve.groups 32).take x.groups).mapIdx (fun j slot => (slot, admitGroup x j bs (s.fresh + j)))
      let t : State := s.updCore c (fun k => { k with ve := { k.ve with
        groups := gs.foldl (fun m p => Sparse.put m p.1 p.2) k.ve.groups, nextBlock := k.ve.nextBlock + 1
        blocks := Sparse.put k.ve.blocks bs { block := k.ve.nextBlock, base := i * 1024, kib := x.kib } } })
      exec (.blockAdmit c) s = .next (({ t with fresh := s.fresh + x.groups } : State).scramble (drawerBase c + i * 1024) (x.kib * 1024))) ∧
    (k.se.ended = true → k.se.drained = false → s.engineStores c false = false → k.engineLoads false = false →
      (k.lostAtEnd k.se.lost (launchOf k.se.entry) = none → exec (.kernelEnd c .se) s = .next (s.startFlush c (.ending false)) ∧
        (calm → s.startFlush c (.ending false) =
          s.updCore c (fun k => { k with se := { k.se with running := false, drained := true } }))) ∧
      (∀ a, k.lostAtEnd k.se.lost (launchOf k.se.entry) = some a → exec (.kernelEnd c .se) s =
        .next (s.raise c (launchOf k.se.entry) { code := 0x08, engine := 0, pc := k.se.pc.toNat, detail := a }))) ∧
    (k.ve.ended = true → k.ve.drained = false → s.engineStores c true = false → k.engineLoads true = false → k.ve.xf = [] →
      k.lostAtEnd k.ve.lost (launchOf k.ve.entry) = none → exec (.kernelEnd c .ve) s = .next (s.startFlush c (.ending true)) ∧
        (calm → s.startFlush c (.ending true) =
          s.updCore c (fun k => { k with ve := { k.ve with running := false, drained := true } }))) ∧
    (s.backsPending c = false →
      (k.se.entry = some x → k.se.drained = true → exec (.entryComplete c .se) s =
        .next ((s.updCore c (fun k => { k with se := k.se.cleared })).entryDone x.launch x.node x.rank .se)) ∧
      (k.ve.entry = some x → k.ve.drained = true → exec (.entryComplete c .ve) s =
        .next ((s.updCore c (fun k => { k with ve := k.ve.cleared })).entryDone x.launch x.node x.rank .ve))) ∧
    (∀ (slot : BitVec 5) (g : Group) (l : Nat) (ls : List Nat) (since : W64),
      let us := (s.niche (s.ownerNiche c)).control.toNat / 2 ^ 32 % 2 ^ 16
      Sparse.find k.ve.groups slot.toNat = some g → g.at_ .group = l :: ls → g.barStart = some since → us ≠ 0 →
      us * 1000 ≤ s.waited c since → s.storesPending c (some slot) = false →
      ∃ e, exec (.barrierWatchdogExpiry c false slot) s = .next (s.raise c (launchOf k.ve.entry) e) ∧ e.code = 0x07 ∧ e.group = g.index ∧
        e.lane = l ∧ e.detail = BitVec.ofNat 64 (maskOf (g.missing .group)))

/-- The caches. DCACHE_FILL brings the missed line from its home on this device, or places the one that came from another device, and
serves what waits for it (R84), a dirty victim moving to the write-back buffer (R85), from which DCACHE_WRITEBACK sends it home, where it
is free at once; ICACHE_FILL brings the next instruction's line (R563). The INIT_DONE events make a cache ready (R89, R92); firmware's DCACHE_WBI and ICACHE_INV empty one (R90, R92).
TRANSLATION_WALK keeps the leaf that it finds (R263). SCRUB_READ corrects or poisons the word (R77, R79); the oldest corrected
word is written back. -/
def Obligations.Caches : Prop :=
  ∀ (s : State) (c : CoreNum),
    let k := s.core c
    let upd (f : Core → Core) := Host.Outcome.next (φ := Fault) (ρ := Refusal) (s.updCore c f)
    (∀ line ve, k.dc.miss = some (line, ve) → s.drains c = true → k.dc.fillWaits line = false →
      let a := line % 2 ^ 48
      (∀ bs poison, k.dc.arrived = some (bs, poison) → exec (.dcacheFill c) s = .next (s.fillLine c line bs poison)) ∧
      (k.dc.arrived = none → s.isLocal line = true → s.awake (some (regionOf c)) a = true →
        s.inTurn c { lane := 0, va := 0, tgt := .dev a, cache := true, bytes := [], port := k.dc.missPort, node := k.dc.missNode } = true →
        bit s.err.inject 0 = false → (s.classOf a).isMemory = true →
        let r := (s.traffic a 64 false).memRead a 64
        exec (.dcacheFill c) s = .next (r.2.fillLine c line r.1 (linePoison s.mem a)))) ∧
    (∀ (d : DCache) line data poison, d.way line = none →
      (d.fill line data poison).hit line = some { addr := line, data := data, poison := poison } ∧
      (∀ v, d.line? (lineSet line * 4 + (d.chooseWay (lineSet line)).1) = some v → v.dirty = true →
        (d.fill line data poison).wb = some v)) ∧
    (∀ l, let a := l.addr % 2 ^ 48
      k.dc.wb = some l → k.dc.wbSent = false → s.backReady c l = true → s.lineBad c l 0 64 = false → s.isLocal l.addr = true →
      (s.classOf a).isMemory = true → s.backsOf c .buffer = 0 → bit s.err.inject 0 = false →
      ∃ t : State, exec (.dcacheWriteback c) s = .next ((t.flushGo c).goLoads c) ∧
        t.mem = (s.mem.store a l.data).addPoison (l.poison.map (fun w => a + 8 * w)) ∧ (t.core c).dc = { k.dc with wb := none }) ∧
    (∀ t pc lane pa cb s1, strmCore t = c → s.fetchAt t = some (pc, lane) → k.ic.ready = true → windowOff (s.entryOn t) pc = none →
      s.translate (some c) (s.ownerNiche c) pc .fetch = (.ok (.dev pa) cb, s1) → (s1.core c).ic.has (s1.lineOf (.dev pa)) = false →
      (s1.core c).ic.bad (s1.lineOf (.dev pa)) (pc % 64) = false → s1.reaches c (.dev pa) = true →
      s1.linesHeld (pa / 64 * 64) 64 false = [] → bit s1.err.inject 0 = false → (s1.classOf (pa / 64 * 64)).isMemory = true →
      s1.mem.firstPoison (pa / 64 * 64) 64 = none → s1.mem.poisoned (pa / 8 * 8) 8 = false →
      let r := (s1.traffic (pa / 64 * 64) 64 false).memRead (pa / 64 * 64) 64
      exec (.icacheFill t) s = .next (r.2.updCore c (fun k => { k with ic := k.ic.fill (s1.lineOf (.dev pa)) r.1 }))) ∧
    ((s.region (regionOf c)).running = true →
      exec (.dcacheInitDone c) s = upd (fun k => { k with dc := { k.dc with ready := true } }) ∧
      exec (.icacheInitDone c) s = upd (fun k => { k with ic := { k.ic with ready := true }, control := setBit k.control 5 false })) ∧
    (∀ a, isFw a = true → exec (.dcacheWbi a c) s =
        .next ((s.updCore c (fun k => { k with control := setBit k.control 4 true })).startFlush c .wbi) ∧
      exec (.icacheInv a c) s = upd (fun k => { k with ic := {}, control := setBit k.control 5 true })) ∧
    (∀ e slot va kind tg cb s1, s.runs c = true → s.translate (some c) (s.ownerNiche c) va.toNat kind = (.ok tg cb, s1) →
      exec (.translationWalk c e slot va kind) s = .next s1) ∧
    (exec (.drawerCeWriteback c) s = upd (fun k => { k with ceWait := k.ceWait.drop 1 })) ∧
    (∀ word, let a := drawerBase c + 8 * word.toNat
      (s.region (regionOf c)).running = true → bit k.control 6 = true → bit s.err.inject 0 = false →
      exec (.scrubRead c word .clean) s = .next s ∧ exec (.scrubRead c word .single) s = .next (s.correctWord a true false) ∧
      exec (.scrubRead c word .double) s = .next (s.poisonWord a true false))

/-! ## The timeline, the region clocks, Frieze -/

/-- TPPS_EDGE, at an edge that R549 keeps, applies an armed load as a step in the two cases of R45 and else as a slew, and measures a
board source (R44, R45, R48). LOAD_ARM arms a load by an actor that may (R62). A source silent for R48's time gives HOLDOVER, and
20 ms later FREE; neither comes sooner. TL_BOOK_WRITE
by the right actor: the entry reads back, with KIND of its table, and governs from the next frame (R58, R65); by any other it
is ignored. BOOKED_SLOT_START gives precedence to the entry's niche and channel that the peer matches (R59, R443). -/
def Obligations.TimelineCommands : Prop :=
  ∀ (s : State),
    let far := 1000 + s.tl.now.toNat < s.tl.load.toNat ∧ s.tl.state.toNat ≤ 1
    let back := s.tl.load.toNat < s.tl.now.toNat ∧ s.tl.state = 0 ∧ s.noContext = true
    let held : Timeline := { s.tl with control := setBit s.tl.control 8 false }
    (∀ phase, s.edgeValid = false → exec (.tppsEdge phase) s = .next s) ∧
    (∀ phase, s.edgeValid = true → fld s.tl.control 0 2 ≠ 1 → bit s.tl.control 8 = true →
      ((far ∨ back) → ∃ t, exec (.tppsEdge phase) s = .next t ∧
        t.tl = { held with now := s.tl.load, stepped := true, slew := 0, lastEdge := some s.tl.load }) ∧
      (¬ (far ∨ back) → exec (.tppsEdge phase) s = .next { s with tl :=
        { held with slew := (s.tl.load.toNat : Int) - s.tl.now.toNat, lastEdge := some s.tl.now } })) ∧
    (∀ phase, s.edgeValid = true → fld s.tl.control 0 2 = 1 → bit s.tl.control 8 = false →
      exec (.tppsEdge phase) s = .next (({ s with tl := { s.tl with lastEdge := some s.tl.now } } : State).measure phase.toInt 3 true)) ∧
    (∀ a, tlRight a = true → exec (.loadArm a) s = .next { s with tl := { s.tl with control := setBit s.tl.control 8 true } }) ∧
    (s.tl.state = 2 →
      let silent := s.tl.lastInput + (if fld s.tl.control 0 2 = 1 then 2000000000 else 64 * 1024)
      (silent ≤ s.ns → exec .sourceLostTimeout s =
        .next { s with tl := { s.tl with state := 3, sourceLost := true, goodRun := 0, badRun := 0, holdSince := s.ns } }) ∧
      (s.ns < silent → exec .sourceLostTimeout s = .next s)) ∧
    (s.tl.state = 3 →
      (s.tl.holdSince + 20000000 ≤ s.ns →
        exec .holdoverExpiry s = .next { s with tl := { s.tl with state := 0, goodRun := 0, badRun := 0 } }) ∧
      (s.ns < s.tl.holdSince + 20000000 → exec .holdoverExpiry s = .next s)) ∧
    (∀ a r n idx v, (bookRight a r = false → exec (.tlBookWrite a r n idx v) s = .next s) ∧
      (bookRight a r = true → (r = false → bit v 16 = true) → ∃ t, exec (.tlBookWrite a r n idx v) s = .next t ∧
        t.tl.readBook r (n.toNat * 1024 + idx.toNat) = ((v &&& 0x1_FFFD) ||| (if r then 2 else 0)) ∧
        (s.tl.bookNext = [] → ∀ later, frameOf s.tl.now < frameOf later →
          ({ t.tl with now := s.tl.now } : Timeline).commit.regionBook = s.tl.regionBook ∧
          (r = true → Sparse.getD ({ t.tl with now := later } : Timeline).commit.regionBook (n.toNat * 1024 + idx.toNat) 2 =
            ((v &&& 0x1_FFFD) ||| 2))))) ∧
    (∀ p, let idx := s.tl.now.toNat / 1024 % 1024
      let e := s.tl.portEntry p idx
      bit e 0 = true → bit e 16 = false → (s.port p).matched idx e = true → exec (.bookedSlotStart p) s =
        .next ((s.updPort p (fun x => { x with booked := some (s.tl.now.toNat / 1024,
          BitVec.ofNat 6 (e.toNat / 2 ^ 2 % 2 ^ 6), BitVec.ofNat 8 (e.toNat / 2 ^ 8 % 2 ^ 8), 0) })).pump p.toNat))

/-- REG_CLOCK_WRITE by firmware (R50, R62): an allowed change of state joins the transitions under way, any other is refused whole
with a Patina record. CLOCK_TRANSITION_DONE: the oldest transition takes effect (R562), with a region that enters OFF losing
its cores' drawers and clearing REG_CYCLES (R51, R54). DROOP_CYCLE counts a lengthened cycle (R54). -/
def Obligations.RegionClocks : Prop :=
  ∀ (s : State) (r : RegionNum),
    let x := s.region r
    let old := x.clockReg
    (∀ a v, isFw a = false → exec (.regClockWrite a r v) s = .next s) ∧
    (∀ v, let st := v.toNat % 8
      let step := v.toNat / 8 % 8
      st < 4 →
      (clockAllowed (fld old 0 3) st = true → st ≠ fld old 0 3 → (st = 1 → 1 ≤ step ∧ step ≤ 4) → exec (.regClockWrite .firmware r v) s =
        .next (s.updRegion r (fun x => { x with targets := x.targets ++ [pack [(0, 3, st), (3, 3, step), (6, 1, (bit v 6).toNat)]] }))) ∧
      (clockAllowed (fld old 0 3) st = false → exec (.regClockWrite .firmware r v) s =
        .next (s.patinaEvent 0x03 (dieLoc r) r.toNat v.toNat 0))) ∧
    (∀ t ts, x.targets = t :: ts → (fld t 0 3 = 3 → x.state ≠ 3 → s.regionDrained r = true) →
      ∃ u, exec (.clockTransitionDone r) s = .next u ∧ u = (s.updRegion r (fun x => { x with targets := ts })).setClock r t ∧
        (u.region r).clock = t ∧ (u.region r).targets = ts ∧ (fld t 0 3 = 3 → x.state ≠ 3 → (u.region r).cycles = 0)) ∧
    (x.running = true → bit x.clock 6 = true →
      exec (.droopCycle r) s = .next ((s.updRegion r (fun x => { x with droop := x.droop + 1, phase := 0 })).dropProbe r))

/-- Frieze's commands. FRIEZE_ARM writes FRZ_CONTROL: MODE and RESERVE only while ARM reads 0, and a newly armed buffer is empty
(R517). FRZ_TRIGGER_WRITE triggers the selected armed regions (R513); TRIG_TICK triggers at its tick. TIME_SYNC writes a record
each 2^34 ticks (R511). SINK_COPY copies the oldest record of a STREAM buffer into the ring and advances SINK_WRITE (R512). -/
def Obligations.FriezeCommands : Prop :=
  ∀ (s : State) (r : RegionNum),
    let f := (s.region r).frz
    (∀ a v, isFwOrSup a = true → ∃ g, exec (.friezeArm a r v) s = .next (s.updRegion r (fun x => { x with frz := g })) ∧
      (f.armed = true → g.control.toNat % 8 = f.control.toNat % 8 ∧ g.fill = f.fill) ∧
      (f.armed = false → bit v 7 = true → g.fill = 0 ∧ g.next = 0 ∧ g.triggered = false ∧ g.frozen = false ∧ g.dropped = 0) ∧
      bit g.control 7 = bit v 7) ∧
    (∀ a v, isFwOrSup a = true → v = 1 <<< r.toNat → f.armed = true → f.triggered = false → bit f.control 17 = false →
      exec (.frzTriggerWrite a v) s = .next (s.frzTrigger1 r 4 0 r.toNat)) ∧
    (f.trigTick ≠ 0 → (s.region r).running = true → f.trigTick.toNat ≤ (s.region r).tl.toNat →
      exec (.trigTick r) s = .next (s.frzTrigger r 2 0)) ∧
    (∀ t, f.lastSync = some t → t.toNat + 2 ^ 34 ≤ (s.stamp r).toNat → exec (.timeSync r) s = .next (s.frzResync r)) ∧
    (let size := 2 ^ fld f.sink 1 5
     let at_ := fld f.sink 12 50 * 2 ^ 12 + 16 * (f.sinkWrite.toNat % size)
     let rec_ := s.mem.bytes (frzSlot r (f.next + 16384 - f.fill)) 16
     let done (u : State) := u.updFrz r (fun f => { f with fill := f.fill - 1, sinkWrite := f.sinkWrite + 1 })
     f.stream = true → bit f.sink 0 = true → f.fill ≠ 0 → (f.sinkWrite - f.sinkRead).toNat ≠ size → s.sinkBusy r = false → s.frzBudget r 1 = true →
      (bit f.sink 6 = true → exec (.sinkCopy r) s = .next (done ((s.frzMove r).hostWrite (at_ % 2 ^ 52) rec_))) ∧
      (bit f.sink 6 = false → s.isLocal at_ = true → exec (.sinkCopy r) s = .next (done ((s.frzMove r).homeWrite (at_ % 2 ^ 48) rec_))))

/-! ## The placement unit -/

/-- PAGE_BACKING backs an unbacked placed page in the first tier that has a frame, zero-filled, and the leaf takes TIER, FRAME and
BACKED (R262, R268). EPOCH_END reviews every page and clears its tally; a page at or above HOT_THRESH in a slow tier moves to HBM4,
which marks its leaf MIGRATING and invalidates its translations (R269, R270); MIGRATION_COMPLETE copies the page, its leaf takes
the new frame, and the old one is free (R270); a page whose leaf is poisoned is not moved, and the new frame is free (R566). -/
def Obligations.PagesAndMigration : Prop :=
  ∀ (s : State) (n : NicheNum) (va : BitVec 57) (l a : Nat) (e : W64),
    (s.placedLeaf n va.toNat = some (l, a, e) →
      (bit e 11 = false → bit e 10 = false → s.fillOf n (pageBase l va.toNat) = none →
        (∀ tier f, tier ≠ 3 → s.chooseFrame n (pageBase l va.toNat) (pageSize l) = .frame tier f →
          let pl : Placement := { s.place with frames := s.place.frames ++ [(n, f, pageSize l)] }
          exec (.pageBacking n va) s =
            .next ((State.updPage { s with mem := s.mem.zero (f % 2 ^ 48) (pageSize l), place := pl } n (pageBase l va.toNat) id).setLeaf a
              (leafWith e tier f))) ∧
        (s.chooseFrame n (pageBase l va.toNat) (pageSize l) = .ask → exec (.pageBacking n va) s = .next (s.askLease n))) ∧
      (∀ p, fld s.place.control 15 7 ≤ p.tally → (leafTier e = 2 ∨ leafTier e = 3) →
        s.reviewPage n va.toNat p = s.startMove n va.toNat 1 none) ∧
      (∀ tier f, bit e 11 = true → bit e 10 = false → bit e 6 = false → leafTier e ≠ tier → bit s.place.control 0 = true →
        bit (s.niche n).nplControl 2 = true → (l = 0 ∨ l = 1 ∧ bit (s.niche n).nplControl 3 = true) →
        s.freeFrame n tier (pageSize l) none = some f →
        let base := pageBase l va.toNat
        let old : BitVec 62 := BitVec.ofNat 62 (fld e 16 46 * 2 ^ 16)
        let g : Migration :=
          { niche := n, va := base, leafAddr := a, oldFrame := old, newFrame := BitVec.ofNat 62 f, tier := BitVec.ofNat 2 tier,
            bytes := pageSize l }
        let slots := if tier = 3 then (List.range (pageSize l / 0x1_0000)).map (fun i => f + i * 0x1_0000) else []
        let t : State :=
          { s with place := { s.place with frames := s.place.frames ++ [(n, f, pageSize l)], migs := s.place.migs ++ [g]
                                           usedSlots := slots.foldl insNat s.place.usedSlots } }
        s.startMove n va.toNat tier none =
          ((t.setLeaf a (setBit e 10 true)).dropTranslations n base (pageSize l)).updPage n base (fun p => { p with cold := false }))) ∧
    (exec .epochEnd s = .next (s.niches.foldl (fun s p => p.2.pages.foldl (fun s g =>
      (s.reviewPage (BitVec.ofNat 6 p.1) g.1 g.2).updPage (BitVec.ofNat 6 p.1) g.1 (fun x =>
        { x with tally := 0, byRegion := [], idle := if x.tally = 0 then x.idle + 1 else 0 })) s)
      { s with place := { s.place with refused := [] } })) ∧
    (∀ idx g, s.place.migs[idx]? = some g → g.copying = false → s.frameBusy g.oldFrame.toNat g.bytes = false →
      s.frameBusy g.newFrame.toNat g.bytes = false → g.oldFrame.toNat / 2 ^ 48 = s.myDevice → g.newFrame.toNat / 2 ^ 48 = s.myDevice →
      bit s.err.inject 0 = false →
      let u := s.flushFrame g.niche g.oldFrame.toNat g.bytes
      u.frameDirty g.niche g.oldFrame.toNat g.bytes = false → u.frameBusy g.oldFrame.toNat g.bytes = false →
      let m := u.mem.copyFrom u.mem (g.oldFrame.toNat % 2 ^ 48) (g.newFrame.toNat % 2 ^ 48) g.bytes
      exec (.migrationComplete idx) s = .next (({ u with mem := m } : State).endMove idx g)) ∧
    (∀ idx g (f : Nat), f = (if s.mem.poisoned g.leafAddr 8 then g.newFrame.toNat else g.oldFrame.toNat) →
      s.tr.held.find? (fun h => h.1 == g.niche && overlaps h.2 0x20_0000 f 1) = none →
      let t := s.endMove idx g
      (s.mem.poisoned g.leafAddr 8 = true → t.mem = s.mem ∧ t.place.migrations = s.place.migrations) ∧
      (s.mem.poisoned g.leafAddr 8 = false → t.mem = s.mem.setWord g.leafAddr (leafWith (s.mem.word g.leafAddr) g.tier.toNat g.newFrame.toNat) ∧
        t.place.migrations = satAdd s.place.migrations 1) ∧
      t.place.migs = s.place.migs.eraseIdx idx ∧
      (n ≠ g.niche ∨ a ≠ f → ((n, a, l) ∈ t.place.frames ↔ (n, a, l) ∈ s.place.frames)) ∧
      (g.niche, f, l) ∉ t.place.frames)

/-- The registers of the placement unit. A write of START by firmware or the supervisor begins an invalidation of a niche's
translations, which SHOOTDOWN_DONE ends once every access through them has completed (R264, R265). NPL_ROOT, the pools and
NPL_CONTROL take a value only while no context of the niche is resident, else the write is refused (R276). NSEM_COUNT_WRITE by
the supervisor writes COUNT on the same condition (R332). -/
def Obligations.PlacementRegisters : Prop :=
  ∀ (s : State) (n : NicheNum) (v : W64),
    let x := s.niche n
    let with_ (m old : W64) : W64 := (old &&& ~~~m) ||| (v &&& m)
    (∀ a, isFwOrSup a = false → exec (.nplShoot a n v) s = .next s ∧ ∀ reg, exec (.nplConfigWrite a n reg v) s = .next s) ∧
    (∀ a, isFwOrSup a = true →
      (bit v 0 = true → bit x.shoot 1 = true → let w := with_ (mask 2 1 ||| mask 16 41) x.shoot
        let va := if bit w 2 then 0 else w.toNat / 2 ^ 16 % 2 ^ 41 * 2 ^ 16
        let len := if bit w 2 then 2 ^ 57 else x.shootCount.toNat % 2 ^ 32 * 2 ^ 16
        exec (.nplShoot a n v) s = .next ((s.updNiche n (fun x =>
          { x with shoot := setFld w 0 2 1, shooting := some (va, len) })).dropTranslations n va len)) ∧
      (bit v 0 = true → bit x.shoot 1 = false → exec (.nplShoot a n v) s = .next s) ∧
      (s.resident n = true → ∀ reg, reg.toNat < 6 →
        exec (.nplConfigWrite a n reg v) s = .next (s.writeRefused (0x380_1000 + n.toNat * 0x100 + reg.toNat * 8) n v)) ∧
      (s.resident n = false →
        exec (.nplConfigWrite a n 0 v) s = .next (s.updNiche n (fun x => { x with nplRoot := with_ (mask 0 1 ||| mask 12 50) x.nplRoot })) ∧
        exec (.nplConfigWrite a n 5 v) s = .next (s.updNiche n (fun x => { x with nplControl := with_ (mask 0 24) x.nplControl })) ∧
        ∀ k : BitVec 3, 1 ≤ k.toNat → k.toNat ≤ 4 → exec (.nplConfigWrite a n k v) s = .next (s.updNiche n (fun x =>
          { x with pools := Sparse.put x.pools (k.toNat - 1) (with_ (mask 0 48) (Sparse.getD x.pools (k.toNat - 1) 0)) })))) ∧
    (∀ va len, x.shooting = some (va, len) → s.accessesIn n va len = false →
      exec (.shootdownDone n) s = .next (s.updNiche n (fun x => { x with shoot := setFld x.shoot 0 2 2, shooting := none }))) ∧
    (∀ k, bit v 44 = false → (x.nsem k.toNat).count < 2 ^ 32 →
      (s.resident n = false → exec (.nsemCountWrite .supervisor n k v) s =
        .next (s.updNsem n k.toNat (fun x => { x with count := v.toNat % 2 ^ 32 }))) ∧
      (s.resident n = true → exec (.nsemCountWrite .supervisor n k v) s =
        .next (s.writeRefused (0x340_0000 + n.toNat * 0x8000 + k.toNat * 8) n v)) ∧
      (∀ a, isFwOrSup a = false → exec (.nsemCountWrite a n k v) s = .next s))

/-! ## The front end -/

/-- DOORBELL: the new TAIL of a queue whose actor may ring it, DB_BAD where it names no entry or more than the ring holds (R357,
R358). The start of an entry whose opcode's condition holds moves the read position past it (R359, R361); NOP is COMPLETE, a
reserved opcode INVALID with DETAIL 3 (R362); FENCE_WAIT ends at once where the fence has the value, else waits, and FENCE_SIGNAL
raises a fence (R385); REMOVE frees a maquette without launches; LAUNCH captures the current bank (R367); an outcome that
halts halts its queue (R363). -/
def Obligations.QueueEntries : Prop :=
  ∀ (s : State) (q : QueueNum),
    let x := s.queue q
    (∀ a tail, (s.mayRing a q = false → exec (.doorbell a q tail) s = .next s) ∧ (s.mayRing a q = true →
      let d := (tail - (if x.kind = 2 then x.tail else x.head)).toNat
      ((bit x.base 0 = false ∨ d = 0 ∨ 2 ^ (x.config.toNat / 4 % 32) < d) →
        exec (.doorbell a q tail) s = .next (s.updQueue q (fun x => { x with dbBad := true }))) ∧
      (bit x.base 0 = true → d ≠ 0 → d ≤ 2 ^ (x.config.toNat / 4 % 32) →
        (x.kind ≠ 2 → exec (.doorbell a q tail) s = .next (s.updQueue q (fun x => { x with tail := tail }))) ∧
        (x.kind = 2 → exec (.doorbell a q tail) s =
          .next ((s.updQueue q (fun x => { x with tail := tail, head := tail, next := tail })).nsemSignal x.niche
            (x.config.toNat / 2 ^ 25 % 2 ^ 12) (tail - x.tail).toNat none))))) ∧
    (∀ seq st d, (s.conclude q seq st d).queue q =
      let y : Queue :=
        { x with entries := x.entries.map (fun e => if e.seq = seq ∧ e.outcome = none
            then { e with outcome := some (BitVec.ofNat 8 st, BitVec.ofNat 7 d), commit := s.tl.now } else e) }
      if haltsQueue st then { y with halted := true, haltStatus := BitVec.ofNat 8 st } else y) ∧
    (∀ ws s1, bit x.base 0 = true → x.halted = false → x.kind ≠ 2 → x.unstarted ≠ 0 → (∀ e ∈ x.entries, e.bars = false) →
      s.readSlot q x.next = (.words ws, s1) → x.next ∉ x.marks →
      let e : QEntry := { seq := x.next, words := ws, since := s.tl.now }
      let t := s1.updQueue q (fun y => { y with
        next := y.next + 1, entries := y.entries ++ [e], marks := y.marks.filter (· != e.seq),
        ahead := y.ahead.filter (fun a => a.1 != e.seq) })
      let n := (t.queue q).niche
      let f := (e.w 3).toNat % 1024
      s.canStart x e.op (e.w 0) = true → bit (t.ctx x.niche x.ctx).control 0 = true →
      (8 ≤ e.op → exec (.reservedOpcode q) s = .next (t.conclude q e.seq 8 3)) ∧
      (entryFault x.kind e = 0 →
        (e.op = 0 → exec (.nop q) s = .next (t.conclude q e.seq 1 0)) ∧
        (e.op = 5 →
          ((e.w 4).toNat ≤ ((t.niche n).fence f).toNat → exec (.fenceWait q) s = .next (t.endWait q e 1 1 0)) ∧
          (((t.niche n).fence f).toNat < (e.w 4).toNat → exec (.fenceWait q) s = .next t)) ∧
        (e.op = 6 → bit (e.w 3) 24 = false →
          exec (.fenceSignal q) s = .next ((t.setFence n f (e.w 4) q.toNat).conclude q e.seq 1 0)) ∧
        (e.op = 7 → t.maq? n e.maq ≠ none → t.maqBusy n e.maq = false →
          let fe : FrontEnd := { t.fe with maqs := Sparse.del t.fe.maqs (maqKey n e.maq) }
          exec (.remove q) s = .next (({ t with fe := fe } : State).conclude q e.seq 1 0)) ∧
        (∀ m, e.op = 2 → t.maq? n e.maq = some m → m.resident = false → m.recast = false →
          let k : Launch :=
            { queue := q, seq := e.seq, niche := n, ctx := (t.queue q).ctx, maq := e.maq, bank := m.current, seed := e.w 3,
              super := (t.queue q).kind == 0, prev := m.lastLaunch,
              nodes := m.nodes.map (fun _ => { phase := .waiting, toWrite := [], open_ := [] }), ended := none }
          let m' : Maquette := if m.current then { m with capt1 := m.capt1 + 1 } else { m with capt0 := m.capt0 + 1 }
          let u := t.setMaq n e.maq { m' with lastLaunch := some t.fe.nextLaunch }
          let fe : FrontEnd :=
            { u.fe with nextLaunch := t.fe.nextLaunch + 1, launches := Sparse.put t.fe.launches t.fe.nextLaunch k }
          exec (.launch q) s =
            .next (({ u with fe := fe } : State).updEntry q e.seq (fun e => { e with launch := some t.fe.nextLaunch })))))

/-- INSTALL with a sound image casts its nodes, puts bank 0 and the image into AREA and holds the maquette (R364 to R366); PATCH
writes a free bank, which becomes current (R376); ABORT of a running FENCE_WAIT or launch ends it with status ABORTED and waits
for it (R377, R378), and one of an entry that has its final status is ALREADY_COMPLETE (R379). -/
def Obligations.MaquettesAndAborts : Prop :=
  ∀ (s s1 : State) (q : QueueNum) (ws : List W64),
    let x := s.queue q
    bit x.base 0 = true → x.halted = false → x.kind ≠ 2 → x.unstarted ≠ 0 → (∀ e ∈ x.entries, e.bars = false) →
    s.readSlot q x.next = (.words ws, s1) → x.next ∉ x.marks →
    let e : QEntry := { seq := x.next, words := ws, since := s.tl.now }
    let t := s1.updQueue q (fun y => { y with
      next := y.next + 1, entries := y.entries ++ [e], marks := y.marks.filter (· != e.seq),
      ahead := y.ahead.filter (fun a => a.1 != e.seq) })
    let y := t.queue q
    let n := y.niche
    s.canStart x e.op (e.w 0) = true → bit (t.ctx x.niche x.ctx).control 0 = true → entryFault x.kind e = 0 →
    (∀ bs t2 t3 img lists, let area := (e.w 5).toNat
      let bytes := (e.w 6).toNat % 2 ^ 40
      e.op = 1 → (∀ g ∈ x.entries, g.op = 1 → g.outcome ≠ none) → area % 0x1_0000 = 0 → t.tierOf area bytes ≠ none → inFirmware area bytes = false →
      t.gather q e false (e.w 3).toNat (fld (e.w 4) 0 32) true = (.bytes bs, t2) → checkImage bs bytes = .ok img →
      (t2.queue q).niche = n → t2.maqBusy n e.maq = false → t2.linesHeld area (0x2_0000 + bs.length) true = [] →
      t2.readCastLists q e img.lists = (some lists, t3) → (t3.queue q).niche = n →
      exec (.install q) s = .next (t3.installImage q e bs img lists) ∧
      (∀ cast u v, t3.castRanks n img.nodes = some (cast, u) → u.castLists n img.nodes cast lists = some v →
        (∀ o ∈ img.objs, o.pin = false) →
        let m := ((v.mem.zero area 0x1_0000).store area img.bank).store (area + 0x2_0000) bs
        let maq : Maquette :=
          { area := area, nodes := img.nodes, reds := img.reds, objs := img.objs, lists := img.lists, resident := img.resident,
            paramVa := img.paramVa, current := false, capt0 := 0, capt1 := 0, cast := cast, recast := false, lastLaunch := none }
        t3.installImage q e bs img lists = (((({ v with mem := m } : State).scramble (area + 0x2_0000 + bs.length)
          (256 * img.nodes.length)).setMaq n e.maq maq).conclude q e.seq 1 0))) ∧
    (∀ m b bs t2, let host := y.kind == 0 && bit (e.w 3) 63
      e.op = 3 → (∀ g ∈ x.entries, g.op = 3 → g.outcome ≠ none) → t.maq? n e.maq = some m → m.patchBank = some b →
      t.gather q e host (if host then fld (e.w 3) 0 62 else (e.w 3).toNat) (fld (e.w 4) 16 17) false = (.bytes bs, t2) →
      t2.linesHeld (m.bankAt b) 0x1_0000 true = [] → t2.linesHeld (m.bankAt m.current) 0x1_0000 false = [] →
      let mem := if b = m.current then t2.mem else t2.mem.copyFrom t2.mem (m.bankAt m.current) (m.bankAt b) 0x1_0000
      let w := mem.store (m.bankAt b + (e.w 4).toNat % 2 ^ 16) bs
      exec (.patch q) s = .next ((({ t2 with mem := w } : State).setMaq n e.maq { m with current := b }).conclude q e.seq 1 0)) ∧
    (e.op = 4 →
      let tq : QueueNum := BitVec.ofNat 12 ((e.w 3).toNat % 2 ^ 12)
      let seq : W32 := BitVec.ofNat 32 ((e.w 4).toNat % 2 ^ 32)
      let z := t.queue tq
      let behind := (z.tail - seq).toNat
      let wait := t.updEntry q e.seq (fun e => { e with target := some (tq, seq) })
      (y.kind ≠ 1 ∨ z.niche = n) → 0 < behind → behind ≤ 2 ^ 31 →
      (∀ g, z.entries.find? (fun g => g.seq == seq) = some g →
        (g.isFinal = true → exec (.abort q) s = .next (t.conclude q e.seq 3 0)) ∧
        (g.isFinal = false → g.outcome = none →
          (g.op = 5 → g.launch = none → exec (.abort q) s = .next (wait.endWait tq g 2 2 0)) ∧
          (∀ l, g.op = 2 → g.launch = some l → exec (.abort q) s = .next (wait.abortLaunch l)))) ∧
      (z.entries.find? (fun g => g.seq == seq) = none → behind ≤ (z.tail - z.next).toNat → bit z.base 0 = true →
        exec (.abort q) s = .next (wait.updQueue tq (fun y => { y with marks := y.marks ++ [seq] }))))

/-- ENTRY_FINAL gives an entry its final status once its completion word has been performed (R380 to R382). QUEUE_ENABLE,
QUEUE_DISABLE, QUEUE_RESUME and QUEUE_RESET act on the queue when firmware or the supervisor writes the register (R389, R390); an
enabled queue starts with its pointers at 0. A timeout or a cycle of fence waits ends them (R386, R387); FE_FENCE raises a fence
(R385, R389). -/
def Obligations.QueueControl : Prop :=
  ∀ (s : State) (q : QueueNum),
    let x := s.queue q
    (∀ seq e st d, x.headOwed = false → x.entries.find? (fun e => e.seq == seq) = some e → e.outcome = some (st, d) → e.isFinal = false →
      (bit (e.w 0) 10 = false ∨ st ≠ 1 ∨ e.cwSent = true) → (s.tr.ops.any (fun o => o.purpose == .completion q seq)) = false →
      s.endWaits q e = none → exec (.entryFinal q seq) s = .next (s.finishEntry q e st.toNat)) ∧
    (∀ a v, (isFwOrSup a = false → exec (.queueEnable a q v) s = .next s ∧ exec (.queueDisable a q) s = .next s ∧
        exec (.queueResume a q) s = .next s ∧ exec (.queueReset a q) s = .next s) ∧
      (isFwOrSup a = true →
        (let w := (x.base &&& ~~~(3 ||| mask 6 56)) ||| (setBit v 0 true &&& (3 ||| mask 6 56))
          let y : Queue :=
            { x with base := w, head := 0, tail := 0, next := 0, halted := false, haltStatus := 0, entries := [], marks := [],
                     ahead := [] }
          let u := s.updQueue q (fun _ => y)
          bit x.base 0 = false → x.state = 0 → ringInFirmware { x with base := w } = false → bit w 0 = true →
          (exec (.queueEnable a q v) s = .next (u.putHead q true)) ∧
          (∀ t, u.queueWrite q (bit w 1) (fld w 6 56 * 64) (leBytes 8 0) (.ring q) = (.done, t) →
            u.putHead q true = t.updQueue q (fun x => { x with headOwed := false }))) ∧
        (bit x.base 0 = true → ringInFirmware { x with base := setBit x.base 0 false } = false →
          exec (.queueDisable a q) s = .next (((s.updQueue q (fun x =>
            { x with base := setBit x.base 0 false, ahead := [] })).dropMarks q).settleContext x.niche x.ctx)) ∧
        (x.halted = true → x.headOwed = false → exec (.queueResume a q) s =
          .next (s.updQueue q (fun x => { x with halted := false, ahead := x.ahead.filter (fun a => a.2.isSome) }))) ∧
        (exec (.queueReset a q) s = .next (s.resetQueue q)) ∧
        (x.head = x.tail → s.resetQueue q = ((s.updQueue q (fun x =>
          { x with halted := false, next := x.tail, head := x.tail, ahead := [], entries := x.entries.filter (fun e => !e.isFinal) })).dropMarks
            q).settleContext x.niche x.ctx))) ∧
    (∀ e, x.entries.find? (·.onFence) = some e →
      let ms := (s.niche x.niche).control.toNat / 2 ^ 48 % 2 ^ 16
      ms ≠ 0 → ms * 1000000 ≤ (s.tl.now - e.since).toNat → exec (.fenceTimeout q) s = .next (s.endWait q e 7 4 0)) ∧
    (∀ n,
      let qs := (s.fe.queues.filter (fun p => p.2.niche == n && bit p.2.base 0 && p.2.kind != 2)).map
        (fun p => (BitVec.ofNat 12 p.1 : QueueNum))
      let t := qs.foldl (fun s q => s.readRing q) s
      let set := cycleSet (qs.map (fun q => (q, (t.queue q).signalsIn))) (t.fenceWaits n).length (t.fenceWaits n)
      set ≠ [] → exec (.fenceCycle n) s =
        .next ((set.foldl (fun s p => s.endWait p.1 p.2 6 3 0) t).trigger ((t.niche n).control.toNat / 2 ^ 4 % 2 ^ 12))) ∧
    (∀ a n f v, (isFwOrSup a = true → exec (.feFenceWrite a n f v) s = .next (s.setFence n f.toNat v 4096)) ∧
      (isFwOrSup a = false → exec (.feFenceWrite a n f v) s = .next s))

/-- NODE_RELEASE releases the node that R370 puts first, its ranks placed; ENGINE_ENTRY_WRITE puts a rank's entry into its core's
queue where the context holds the region and the queue has room (R373, R374); NODE_COMPLETE gives the node's grants back, and the
last node of a launch is its commit point, with COMPLETE (R370, R371). -/
def Obligations.LaunchNodes : Prop :=
  ∀ (s : State) (l node : Nat) (x : Launch) (m : Maquette) (r : NodeRec),
    s.launch? l = some x → s.maq? x.niche x.maq = some m → m.nodes[node]? = some r →
    (∀ place u, bit s.err.inject 0 = false → s.depsHeld l node = [] → s.poisonedDep l node = none → s.firstReady = some (l, node) → s.placeRanks x m l node r = some (place, u) →
      let k : NodeRun := { phase := .released, toWrite := r.entries, open_ := r.entries, place := place }
      exec (.nodeRelease l node) s = .next ((u.setLaunch l { x with nodes := x.nodes.set node k }).count 115 1)) ∧
    (∀ y pa, bit s.err.inject 0 = false → s.depsHeld l node = [] → s.poisonedDep l node = some (y, pa) → exec (.nodeRelease l node) s =
      .next ((s.plinthExc y.niche 6 0 (some (node, y.maq)) (paDetail pa)).endLaunch l 0xD)) ∧
    (∀ (k : NodeRun) rank c grants e, x.nodes[node]? = some k → k.place[rank]? = some (c, grants) → x.ended = none →
      (rank, e) ∈ k.toWrite →
      ((regionOf c).toNat ∉ s.granted x.niche → exec (.engineEntryWrite l node rank e) s = .next (s.endLaunch l 0xD)) ∧
      ((regionOf c).toNat ∈ s.granted x.niche →
        let g := s.region (regionOf c)
        g.holder = some (x.niche, x.ctx) → g.preempting = false → g.restoring = none → s.reservedSlot (regionOf c) = false →
        ((s.core c).engQ e).length < 16 →
        exec (.engineEntryWrite l node rank e) s =
          .next ((s.updCore c (fun y => y.pushQ (s.entryFor x m l node rank r grants e))).setLaunch l
            { x with nodes := x.nodes.set node { k with toWrite := k.toWrite.filter (· != (rank, e)) } }))) ∧
    (∀ (k : NodeRun), x.nodes[node]? = some k → x.ended = none → s.nodeOver l node k r = true →
      let y : Launch := { x with nodes := x.nodes.set node { k with phase := .complete } }
      let t := (s.setLaunch l y).releaseGrants l (fun g => g.node == node)
      ((y.nodes.all (fun k => decide (k.phase = .complete))) = false → exec (.nodeComplete l node) s = .next t) ∧
      ((y.nodes.all (fun k => decide (k.phase = .complete))) = true →
        let u := (t.setLaunch l { y with ended := some 1 }).uncapture y
        let fe : FrontEnd := { u.fe with reds := u.fe.reds.filter (fun r => r.launch != l) }
        exec (.nodeComplete l node) s = .next (({ u with fe := fe } : State).conclude x.queue x.seq 1 0)))

/-! ## Niches and contexts -/

/-- The registers of a niche. NICHE_GRANT_WRITE gives a niche its regions when every context is EMPTY, nothing is in flight and
no other niche has one of them, and is refused otherwise (R391, R395, R415); NICHE_CONTROL_WRITE sets NICHE_CONTROL or a queue's
context while no context is resident (R415). GRANT_CLEAR starts the selected parts or sets REFUSED, and GRANT_CLEAR_DONE performs
them and sets DONE, after the zeros of leased frames are acknowledged (R394 to R396). FRAME_END gives every niche its interference index (R412). -/
def Obligations.NicheRegisters : Prop :=
  ∀ (s : State) (n : NicheNum) (v : W64),
    let x := s.niche n
    (∀ a, isFwOrSup a = false → exec (.nicheGrantWrite a n v) s = .next s ∧ exec (.grantClear a n v) s = .next s ∧
      (∀ b i, exec (.nicheControlWrite a b i v) s = .next s)) ∧
    (∀ a, isFwOrSup a = true → bit x.clear 1 = true →
      (
        let free := s.allEmpty n && !s.inFlight n (fun _ => true) && !s.niches.any (fun p => p.1 != n.toNat && (p.2.grant &&& v) != 0)
        (free = false → exec (.nicheGrantWrite a n v) s = .next (s.writeRefused (0x300_0000 + n.toNat * 0x1000) n v)) ∧
        (free = true → ∃ t, exec (.nicheGrantWrite a n v) s = .next t ∧ (t.niche n).grant = v ∧
          (∀ m, t.maq? n m = (s.maq? n m).map (fun q => { q with recast := true })) ∧ t.cores = s.cores ∧ t.mem = s.mem)) ∧
      (s.resident n = false → exec (.nicheControlWrite a false (n.setWidth 12) v) s = .next (s.updNiche n (fun x => { x with control := v }))) ∧
      (s.resident n = true → exec (.nicheControlWrite a false (n.setWidth 12) v) s = .next (s.writeRefused (0x300_0000 + n.toNat * 0x1000 + 8) n v)) ∧
      (∀ q, (s.queue q).niche = n → s.resident n = false → exec (.nicheControlWrite a true q v) s =
        .next (s.updQueue q (fun x => { x with ctx := BitVec.ofNat 4 (v.toNat % 16) }))) ∧
      (bit v 0 = true → bit v 5 = false →
        let sel := (x.clear &&& ~~~(mask 2 3)) ||| (v &&& mask 2 3)
        let idle := x.ctxs.all (fun c => c.2.state == 0 || c.2.state == 2) && !s.resident n && !s.inFlight n (fun _ => true)
        (idle = true → exec (.grantClear a n v) s = .next (s.updNiche n (fun x =>
          { x with clear := setFld sel 0 2 1, clearing := some (BitVec.ofNat 3 (v.toNat / 4 % 8)) }))) ∧
        (idle = false → exec (.grantClear a n v) s = .next (s.updNiche n (fun x => { x with clear := setBit sel 5 true }))))) ∧
    (∀ sel, x.clearing = some sel →
      let s1 := if bit sel 0 then ((s.granted n).foldl (fun s r => s.clearRegion (BitVec.ofNat 6 r)) s).dropTranslations n 0 (2 ^ 57) else s
      let s2 := if bit sel 1 then s1.clearPools n else s1
      let rest (t : State) : State :=
        let t1 := if bit sel 1 then t.returnAll n else t
        (if bit sel 2 then t1.clearState n else t1).updNiche n (fun x =>
          { x with clear := setFld x.clear 0 2 2, clearing := none, zeroSent := false })
      (x.zeroSent = false → (s2.niche n).zeroSent = false → exec (.grantClearDone n) s = .next (rest s2)) ∧
      (x.zeroSent = false → (s2.niche n).zeroSent = true → exec (.grantClearDone n) s = .next s2) ∧
      (x.zeroSent = true → (s.tr.ops.any (fun o => o.purpose == .lease n)) = true → exec (.grantClearDone n) s = .next s) ∧
      (x.zeroSent = true → (s.tr.ops.any (fun o => o.purpose == .lease n)) = false → exec (.grantClearDone n) s = .next (rest s))) ∧
    (∀ counts, ∃ t, exec (.frameEnd counts) s = .next t ∧
      let mine := counts.filter (fun c => c.1 == n)
      let busy := (mine.map (·.2.1)).sum
      let last := if busy = 0 then 0 else 65535 * (mine.map (·.2.2)).sum / busy
      (t.niche n).interfLast = BitVec.ofNat 16 last ∧
      (t.niche n).interfAvg = BitVec.ofInt 16 (x.interfAvg.toNat + Int.tdiv ((last : Int) - x.interfAvg.toNat) 16) ∧
      (t.niche n).interfFrame = BitVec.ofNat 32 (s.tl.now.toNat / 2 ^ 20))

/-- Contexts on regions. CONTEXT_PLACE and RESTORE give a free running region of the niche to the context that R399 chooses, the
second with its saved image, which RESTORE_COMPLETE reads back (R397, R403). SLICE_END pre-empts the holder when its slice is over
and another context waits, else restarts the slice (R398); SUSPEND pre-empts a context everywhere (R400). SAVE_COMPLETE writes
back the caches, saves the region and frees it (R401 to R404). -/
def Obligations.Contexts : Prop :=
  ∀ (s : State) (region : RegionNum) (n : NicheNum) (c : BitVec 4),
    let x := s.region region
    (x.running = true → x.holder = none → x.restoring = none → region.toNat ∈ s.granted n → s.nicheRuns n = true →
      bit (s.niche n).clear 1 = true → s.nextContext n region = some c → s.regionQuiet region = true →
      (s.hasImage n c (· == region) = false → exec (.contextPlace region n c) s =
        .next (((s.vacate region).scramble (drawerBase (coreAt region 0)) (128 * 0x2_0000)).takeRegion region n c)) ∧
      (s.hasImage n c (· == region) = true → s.grantee region = some n → exec (.restore region) s =
        .next ((s.takeRegion region n c).updRegion region (fun x => { x with restoring := some (n, c), moveStart := s.tl.now })))) ∧
    (∀ y, bit s.err.inject 0 = false → x.restoring = some (n, c) → s.saved.find? (fun y => y.niche == n && y.ctx == c && y.region == region) = some y →
      let base := s.imageBase n c region
      (∀ w, y.cores.findSome? (fun p => imagePoison s.mem (base + p.1 * 0x4_A000)) = some w → exec (.restoreComplete region) s =
        .next ((s.logError { cause := 0x2E, loc := 0, niche := some n, ctx := some c, addr := s.globalPa w, aspace := 1 }).faultContext n c)) ∧
      (y.cores.findSome? (fun p => imagePoison s.mem (base + p.1 * 0x4_A000)) = none →
        let s1 := (s.vacate region).scramble (drawerBase (coreAt region 0)) (128 * 0x2_0000)
        let s2 := y.cores.foldl (fun t p => t.readImage (base + p.1 * 0x4_A000) (coreAt region p.1) p.2 (t.tl.now - y.tick)) s1
        let s3 : State := { s2 with saved := s2.saved.filter (fun z => !(z.niche == n && z.ctx == c && z.region == region)) }
        let s4 := s3.updRegion region (fun x => { x with restoring := none, sliceStart := s3.tl.now })
        exec (.restoreComplete region) s = .next ((s4.setCtxState n c).friezeContext region n c true false x.moveStart))) ∧
    (x.holder = some (n, c) →
      (x.preempting = false → x.restoring = none → x.resumption = none →
        (s.resumptionDue region n c = none →
          (s.sliceOver region n = true → s.waiting n region ≠ [] → exec (.sliceEnd region) s = .next (s.preempt region)) ∧
          (s.sliceOver region n = true → s.waiting n region = [] → exec (.sliceEnd region) s =
            .next ((s.updRegion region (fun y => { y with sliceStart := s.tl.now })).updCtx n c (fun y => { y with resumed := false }))) ∧
          (s.sliceOver region n = false → exec (.sliceEnd region) s = .next s)) ∧
        (∀ h k, s.resumptionDue region n c = some (h, k) → exec (.sliceEnd region) s = .next ((((s.updCtx n c (fun y =>
          { y with resumed := true })).updRegion region (fun y => { y with resumption := some (h, c, BitVec.ofNat 12 k), first := some h })).friezeHolder
            region n h c (BitVec.ofNat 12 k) false false).preempt region))) ∧
      (x.preempting = false → s.preempt region = (s.updRegion region (fun x =>
        { x with preempting := true, moveStart := s.tl.now })).updCtx n c (fun x => { x with preempts := satAdd x.preempts 1 })) ∧
      (x.preempting = true → s.regionQuiet region = true →
        let mine := (s.cores.filter (fun p => p.1 / 128 == region.toNat)).map (fun p => (BitVec.ofNat 13 p.1 : CoreNum))
        let s1 := mine.foldl (fun s i => s.cleanLines i .flush (fun _ => true)) s
        let open_ := mine.any (fun i => !s1.cleaned i .flush (fun _ => true))
        let s2 := (mine.foldl (fun s i => s.dropWaiters (some n) i (fun _ => true)) s1).mapCores region (fun _ k => k.unqueue)
        let busy := mine.filter (fun i => !(s2.core i).idle)
        let s3 := busy.foldl (fun s i => s.writeImage (s2.imageBase n c region + (indexOf i).toNat * 0x4_A000) i) s2
        let image : SavedCtx :=
          { niche := n, ctx := c, region := region, tick := s3.tl.now, cores := busy.map (fun i => ((indexOf i).toNat, s3.core i)) }
        (open_ = true → exec (.saveComplete region) s = .next s1) ∧
        (open_ = false → exec (.saveComplete region) s = .next ((((({ s3 with saved := s3.saved ++ [image] } : State).vacate region).freeRegion
          region).setCtxState n c).serveNiche n |>.friezeContext region n c false false x.moveStart)))) ∧
    (∀ a, (isFwOrSup a = false → exec (.suspend a n c) s = .next s) ∧ (isFwOrSup a = true → bit (s.niche n).clear 1 = true →
      let t := s.updCtx n c (fun x => { x with control := x.control ||| 8 })
      exec (.suspend a n c) s = .next ((t.regionsOf n c).foldl (fun s r => s.preempt r) t)))

/-! ## Trestle -/

/-- The records and events of a port. HELLO settles the version and the peer and brings a training port UP, else the port goes down
(R418, R419, R435); CREDIT gives credits back (R427); an expected flit is accepted, a bad one asks for a REPLAY, and the ninth
failure retrains (R421 to R423); TIME gives the delay and a phase (R441), BOOK an entry of the port's table (R443). PORT_ENABLE trains
a port, PORT_RETRAIN retrains it, and RETRAIN_DONE brings it back or down (R423, R424). -/
def Obligations.Ports : Prop :=
  ∀ (s : State) (p : PortNum),
    let x := s.port p
    let fromPeer := s.received p 1
    (∀ h, (x.state = 1 ∨ x.state = 2) → bit x.control 0 = true →
      let ver := min h.maxVer.toNat (x.control.toNat / 2 % 4)
      (ver < max 1 h.minVer.toNat → exec (.hello p h) s = .next ((fromPeer.portDown p).patinaEvent 0x01 (17 + p.toNat / 9) (1 + 256 * p.toNat)
        (1 + 256 * (x.control.toNat / 2 % 4)) (h.minVer.toNat + 256 * h.maxVer.toNat))) ∧
      (max 1 h.minVer.toNat ≤ ver →
        (fromPeer.peerOk p h = false →
          exec (.hello p h) s = .next ((fromPeer.portDown p).patinaEvent 0x06 (17 + p.toNat / 9) p.toNat h.device.toNat 0)) ∧
        (fromPeer.peerOk p h = true →
          let s1 := (fromPeer.revive h.device h.incarnation).updPort p (fun x =>
            { x with ver := BitVec.ofNat 2 ver, peerId := h.device, peerInc := h.incarnation, peerHops := h.hops })
          let s2 := if x.state = 1 then (s1.updPort p (fun x =>
            { x with state := 2, txNext := 0, rxNext := 0, tx := [], links := [], credits := [], shares := [], shareUse := [],
                     peerBook := [] })).sendHello p else s1
          let s3 := if s2.tlSource = 2 ∧ fld s2.tl.control 2 6 = p.toNat then s2.hopsFrom h.hops.toNat else s2
          exec (.hello p h) s = .next s3.donorSource.pumpAll))) ∧
    (x.state = 2 →
      (∀ n ch sys dl units, let key := ((n.toNat * 256 + ch.toNat) * 2 + sys.toNat) * 2 + dl.toNat
        let full := if sys then 512 else 1952
        exec (.credit p n ch sys dl units) s = .next ((fromPeer.updPort p (fun x =>
          { x with credits := Sparse.put x.credits key (min full (Sparse.getD x.credits key full + units.toNat))
                   shareUse := if sys then x.shareUse else Sparse.put x.shareUse (n.toNat * 256 + ch.toNat) s.ns })).pump p.toNat)) ∧
      (∀ seq, let n := if 0 < x.replays ∧ x.replaySeq = seq then x.replays + 1 else 1
        let again := ((x.tx.dropWhile (fun t => t.1 != seq)).map (fun t => t.2.units)).sum
        let t := (s.setPort p { x with replaySeq := seq, replays := n }).received p 1
        (n ≤ 8 → exec (.replay p seq) s = .next (t.count (40 + p.toNat) (32 * again))) ∧
        (8 < n → exec (.replay p seq) s = .next (t.startRetrain p))) ∧
      (∀ (t1 t2 t3 t4 : W64), let twice : Int := (t4 - t3).toInt - (t1 - t2).toInt
        let t := fromPeer.updPort p (fun x => { x with delay := BitVec.ofInt 16 (8 * twice), lastT1 := t1, lastRx := t4 })
        ((s.tlSource ≠ 2 ∨ fld s.tl.control 2 6 ≠ p.toNat) → exec (.time p t1 t2 t3 t4) s = .next t) ∧
        (s.tlSource = 2 → fld s.tl.control 2 6 = p.toNat →
          let error : Int := (t4 - t1).toInt - twice / 2
          ((s.tl.state.toNat ≤ 1 ∧ 8 < error.natAbs ∧ s.tl.slew = 0) → exec (.time p t1 t2 t3 t4) s =
            .next ((t.takeTime (s.tl.now - BitVec.ofInt 64 error)).measure error 64 false)) ∧
          (¬(s.tl.state.toNat ≤ 1 ∧ 8 < error.natAbs ∧ s.tl.slew = 0) → exec (.time p t1 t2 t3 t4) s =
            .next (t.measure error 64 true)))) ∧
      (∀ idx dir n ch valid,
        let e : W32 := BitVec.ofNat 32 (valid.toNat + n.toNat * 2 ^ 2 + ch.toNat * 2 ^ 8 + dir.toNat * 2 ^ 16)
        let t := fromPeer.bookPut false (p.toNat * 1024 + idx.toNat) e
        (dir = true → exec (.book p idx dir n ch valid) s = .next t) ∧
        (dir = false → exec (.book p idx dir n ch valid) s = .next (t.updPort p (fun x =>
          { x with peerBook := Sparse.put x.peerBook idx.toNat (setBit e 16 true) })))) ∧
      (let fails := if x.rxReplay then x.rxFails + 1 else 0
        let t := s.setPort p { x with rejected := satAdd x.rejected 1, rxReplay := true, rxFails := fails }
        (fails < 8 → exec (.flitReject p) s = .next (t.sendLink p 2 [pack [(8, 10, x.rxNext.toNat)]])) ∧
        (8 ≤ fails → exec (.flitReject p) s = .next (t.startRetrain p))) ∧
      (∀ seq f,
        let err : ErrInfo := { cause := 0x0B, loc := 17 + p.toNat / 9, aux := p.toNat }
        let u := if f.corrected then (s.updPort p (fun x => { x with fecWords := x.fecWords + 1 })).logError err else s
        (seq ≠ x.rxNext → x.rxReplay = true → exec (.flitAccept p seq f) s = .next (u.updPort p (fun x =>
          { x with rejected := satAdd x.rejected 1 }))) ∧
        (seq ≠ x.rxNext → x.rxReplay = false → exec (.flitAccept p seq f) s = .next (u.rejectFlit p false)) ∧
        (seq = x.rxNext → bit s.err.inject 0 = false →
          let t := u.updPort p (fun x =>
            { x.acked f.ack with rxNext := x.rxNext + 1, rxReplay := false, rxFails := 0, rxInjected := false })
          exec (.flitAccept p seq f) s =
            .next ((if x.rxReplay then t.logError { err with injected := x.rxInjected } else t).pump p.toNat)))) ∧
    (∀ a v, isFwOrSup a = true → bit x.control 0 = false → bit v 0 = true → bit v 3 = false → (fld v 1 2 = 1 ∨ fld v 1 2 = 2) →
      let w := (x.control &&& ~~~7) ||| (v &&& 7)
      exec (.portEnable a p v) s = .next (s.updPort p (fun x => { x with control := w, state := 1 }))) ∧
    (∀ a, isFwOrSup a = true → x.state = 2 → (fld x.control 1 2 = 1 ∨ fld x.control 1 2 = 2) →
      exec (.portRetrain a p) s = .next ((s.updPort p id).startRetrain p)) ∧
    (∀ a v, isFwOrSup a = false → exec (.portEnable a p v) s = .next s ∧ exec (.portRetrain a p) s = .next s) ∧
    (x.state = 3 →
      exec (.retrainDone p true) s = .next (((s.updPort p (fun x => { x with state := 2, replays := 0, rxFails := 0 })).logError
        { cause := 0x0C, loc := 17 + p.toNat / 9, aux := p.toNat }).pump p.toNat) ∧
      exec (.retrainDone p false) s = .next ((s.logError { cause := 0x2C, loc := 17 + p.toNat / 9, aux := p.toNat }).portDown p))

/-- Packets of other devices. One for this device is served here, its units returned, and one for another device sent on (R427,
R433). READ, WRITE and ATOMIC act at their home when an export window, or a leased frame, admits all of it, else DENIED (R436,
R437, R448); FENCE raises a fence (R438); LEASE grants a donor's frame or takes it back (R439, R440); a partial
of a contribution is kept until it is whole, then accepted (R249). RESP and ACK end the operation they answer (R436, R445); ASSIGN gives an identifier (R434). -/
def Obligations.Packets : Prop :=
  ∀ (s : State) (p : PortNum) (k : Packet), (s.port p).state = 2 → (∀ q ∈ (s.port p).rx, sameFlow q.2 k = false) →
    let t := (s.received p (packetUnits k)).returnUnits p k
    let a := k.addr.toNat % 2 ^ 48
    let len := k.lengthM1.toNat + 1
    let w := 2 ^ k.size.toNat
    (s.mine k.dst = none → exec (.read p k) s = .next (t.forwardPacket 0 k (some p.toNat)) ∧
      exec (.write p k) s = .next (t.forwardPacket 1 k (some p.toNat)) ∧ exec (.resp p k) s = .next (t.forwardPacket 3 k (some p.toNat))) ∧
    (∀ prof, s.mine k.dst = some prof →
      (s.packetHeld 0 k = [] → s.packetReady 0 k = true →
        (t.admitted prof false k a len = false → exec (.read p k) s = .next (t.answer 3 k 1 [])) ∧
        (t.admitted prof false k a len = true → bit s.err.inject 0 = false → (t.classOf a).isMemory = true →
          let m := (t.traffic a len false).memRead a len
          exec (.read p k) s = .next (m.2.answer 3 k (if (t.mem.firstPoison a len).isSome then 3 else 0) m.1))) ∧
      (s.packetHeld 1 k = [] → s.packetReady 1 k = true →
        (t.admitted prof true k a len = false → exec (.write p k) s = .next (t.answer 4 k 1 [])) ∧
        (t.admitted prof true k a len = true → let u := t.homeWrite a (fitBytes len k.data)
          (k.status ≠ 3 → exec (.write p k) s = .next (u.answer 4 k 0 [])) ∧
          (k.status = 3 → exec (.write p k) s = .next (({ u with mem := u.mem.addPoison (wordsOf a len) } : State).answer 4 k 0 [])))) ∧
      (s.packetHeld 2 k = [] → s.packetReady 2 k = true →
        ((pktAtomicOk k = false ∨ t.admitted prof true k a w = false) → exec (.atomic p k) s = .next (t.answer 3 k 1 [])) ∧
        (pktAtomicOk k = true → t.admitted prof true k a w = true → bit s.err.inject 0 = false →
          (t.mem.poisoned a w = true → exec (.atomic p k) s = .next (t.answer 3 k 3 [])) ∧
          (∀ olds f u, t.mem.poisoned a w = false → t.atomAt (.dev a) k.op.toNat w (pktOperands k) = ((olds, f), u) →
            exec (.atomic p k) s = .next (u.answer 3 k 0 (olds.flatMap (leBytes w)))))) ∧
      ((∀ l i u r, let idx := k.arg.toNat % 2 ^ 16
          let f := k.arg.toNat / 2 ^ 30 % 2 ^ 14
          let g := k.arg.toNat / 2 ^ 44 % 2 ^ 6
          let c := k.arg.toNat / 2 ^ 50 % 2 ^ 7
          let flat := (f * r.g + g) * r.c + c
          let vs := ((r.arriving.find? (fun a => a.1 == flat)).map (·.2)).getD [] ++ pktValues k r.x80
          let others := r.arriving.filter (fun a => a.1 != flat)
          let bad := !r.accepts r.x80 r.rows r.cols f g c || len % (if r.x80 then 16 else 8) != 0 || decide (r.rows * r.cols < vs.length)
          t.contribLaunch k idx = some l → t.redFor l idx = (some i, u) → u.fe.reds[i]? = some r →
          (bad = true → exec (.contribPacket p k) s = .next (u.answer 4 k 1 [])) ∧
          (bad = false → vs.length < r.rows * r.cols → exec (.contribPacket p k) s =
            .next ((u.setRed { r with arriving := others ++ [(flat, vs)] }).answer 4 k 0 [])) ∧
          (bad = false → vs.length = r.rows * r.cols → exec (.contribPacket p k) s =
            .next ((u.accept i { r with arriving := others } flat vs).answer 4 k 0 []))) ∧
        (let back := { k with sys := true, channel := 2 }
          let ok := (List.range 64).any (fun e => fenceEntry k (t.export_ e)) && decide (k.addr.toNat / 64 % 2 ^ 56 < 1024)
          (ok = true → exec (.fence p k) s = .next ((t.setFence (BitVec.ofNat 6 (k.addr.toNat % 64))
            (k.addr.toNat / 64 % 1024) k.arg 4096).answer 4 back 0 [])) ∧
          (ok = false → exec (.fence p k) s = .next (t.answer 4 back 1 [])))) ∧
      (k.arg.toNat % 256 = 0 → k.arg.toNat / 256 = 1 → s.packetHeld 7 k = [] → ∀ b, t.donorFrame k = some b →
        let tr : Trestle := { t.tr with leases := t.tr.leases ++ [{ device := k.src, niche := k.niche, base := b }] }
        exec (.lease p k) s = .next (({ t with mem := t.mem.zero b 0x20_0000, tr := tr } : State).leaseReply k b 1)) ∧
      (k.arg.toNat % 256 = 2 → s.packetHeld 7 k = [] →
        let mine (l : Lease) : Bool := l.device == k.src && l.niche == k.niche && l.base == a
        (t.tr.leases.any mine = true → exec (.lease p k) s = .next ((t.takeBack mine).answer 4 k 0 [])) ∧
        (t.tr.leases.any mine = false → exec (.lease p k) s = .next (t.answer 4 k 1 []))) ∧
      (∀ o,
        let tr : Trestle :=
          { t.tr with ops := t.tr.ops.filter (fun x => x.tag != o.tag), unreachable := t.tr.unreachable.filter (· != k.src.toNat)
                      heard := Sparse.put t.tr.heard k.src.toNat t.ns }
        let u : State := { t with tr := tr }
        (t.opOf true k = some o → s.packetHeld 3 k = [] → s.packetReady 3 k = true →
          (k.status = 0 → exec (.resp p k) s = .next (u.finishOp o (.ok k.data))) ∧
          (k.status = 1 → exec (.resp p k) s = .next (u.finishOp o .denied)) ∧
          (k.status = 3 → exec (.resp p k) s = .next (u.finishOp o (.poisoned k.data)))) ∧
        (t.opOf false k = some o →
          (k.status = 0 → exec (.ack p k) s = .next (u.finishOp o (.ok k.data))) ∧
          (k.status = 1 → exec (.ack p k) s = .next (u.finishOp o .denied))))) ∧
    (exec (.assign p k) s = .next (if s.disc.idValid = false ∧ bit s.tr.control 1 = true then t.setDevice k.dst else t))

/-- Identity, routes and dead devices. TR_ID and the routes change only while every port is disabled (R31, R434, R447); the idle share
of a channel is freed after 1 ms (R428); a device that has been silent for 50 µs while an operation toward it waits, and is cut
off, is declared dead (R444, R445). -/
def Obligations.TrestleRegisters : Prop :=
  ∀ (s : State) (v : W64),
    (∀ a, isFwOrSup a = true → s.portsOff = true → exec (.trIdWrite a v) s = .next (s.setDevice (BitVec.ofNat 14 v.toNat)) ∧
      (∀ d, let old := Sparse.getD s.tr.routes d.toNat 0
        let w := (old &&& ~~~(mask 0 7)) ||| (v &&& mask 0 7)
        v.toNat / 2 % 64 < 36 → exec (.routeConfigWrite a 2 d v) s = .next { s with tr := { s.tr with routes := Sparse.put s.tr.routes d.toNat w } }) ∧
      (∀ d, exec (.routeConfigWrite a 0 d v) s = .next { s with tr := { s.tr with control := (s.tr.control &&& ~~~3) ||| (v &&& 3) } })) ∧
    (∀ a, isFwOrSup a = true → s.portsOff = false → exec (.trIdWrite a v) s = .next s ∧
      (∀ d, exec (.routeConfigWrite a 2 d v) s = .next s ∧ exec (.routeConfigWrite a 1 d v) s = .next s ∧
        exec (.routeConfigWrite a 0 d v) s = .next { s with tr := { s.tr with control := (s.tr.control &&& ~~~2) ||| (v &&& 2) } })) ∧
    (∀ a, isFwOrSup a = false → exec (.trIdWrite a v) s = .next s ∧ ∀ w d, exec (.routeConfigWrite a w d v) s = .next s) ∧
    (∀ p (n : NicheNum) (ch : Byte), let x := s.port p
      let c := n.toNat * 256 + ch.toNat
      c ∈ x.shares → (∀ dl : Bool, Sparse.getD x.credits (c * 4 + dl.toNat) 1952 = 1952) →
      (∀ q ∈ x.parked, q.2.sys = true ∨ q.2.niche ≠ n ∨ q.2.channel ≠ ch) →
      Sparse.getD x.shareUse c 0 + 1000000 ≤ s.ns →
      exec (.channelReclaim p n ch) s = .next ((s.updPort p (fun x =>
        { x with shares := x.shares.filter (· != c), shareUse := Sparse.del x.shareUse c })).pump p.toNat)) ∧
    (∀ d, s.isDead d.toNat = false → (∃ o ∈ s.tr.ops, o.device = d ∧ o.since + 50000 ≤ s.ns) →
      (∀ n, Sparse.find s.tr.heard d.toNat = some n → n + 50000 ≤ s.ns) → s.cutOff d.toNat = true → exec (.deviceDead d) s = .next (s.declareDead d))

/-! ## The host link -/

/-- The Quingal Coherent Link: training to the highest common version (R450), replays and retrains (R451, R452), accesses of the
host through a function's apertures, in order and once their drawer answers (R52, R453, R454), window lines of the host and their
recall, which times out after 100 µs (R460 to R464), windows and
messages (R460, R465). The SPDM responder answers a waiting request once: GO clear, DONE set, the response and its length
there, its message triggered (R469, R533). -/
def Obligations.HostLink : Prop :=
  ∀ (s : State),
    let q := s.qcl
    let vs := if q.control.toNat / 2 % 4 = 0 then [0x10] else if q.control.toNat / 2 % 4 = 1 then [0x11, 0x10] else [0x20, 0x11, 0x10]
    (∀ lo hi, q.state = 1 →
      (∀ v, vs.find? (fun v => decide (lo.toNat ≤ v) && decide (v ≤ hi.toNat)) = some v → exec (.qclTraining lo hi) s =
        .next { s with qcl := { q with peerMin := lo, peerMax := hi, state := 2, ver := BitVec.ofNat 8 v } }) ∧
      (vs.find? (fun v => decide (lo.toNat ≤ v) && decide (v ≤ hi.toNat)) = none →
        let t : State := { s with qcl := { q with peerMin := lo, peerMax := hi, state := 0, ver := 0 } }
        exec (.qclTraining lo hi) s = .next (t.patinaEvent 0x01 0 0 (0x10 + 256 * vs.headD 0) (lo.toNat + 256 * hi.toNat)))) ∧
    (q.state = 2 →
      let n := if Config.freeBit s.fresh then q.fails + 1 else 0
      let t := State.logError { s with qcl := { q with replays := satAdd q.replays 1, fails := n }, fresh := s.fresh + 1 } { cause := 0x0D }
      (n < 8 → exec .qclReplay s = .next t) ∧
      (8 ≤ n → exec .qclReplay s = .next { t with qcl := { t.qcl with state := 3 } })) ∧
    (∀ asked, q.state = 3 ∨ (asked = true ∧ q.state = 2) →
      let b : Qcl := { q with retrains := satAdd q.retrains 1, fails := 0 }
      let down : State := { s with qcl := { b with state := 0, ver := 0 } }
      exec (.qclRetrain asked true) s = .next (State.logError { s with qcl := { b with state := 2 } } { cause := 0x0E }) ∧
      (s.disc.mode = 2 → exec (.qclRetrain asked false) s = .next (down.fatal { cause := 0x43 })) ∧
      (s.disc.mode ≠ 2 → exec (.qclRetrain asked false) s = .next down)) ∧
    (q.state = 2 ∨ q.state = 3 →
      (∀ (off : BitVec 48) bytes v, off.toNat < 2 ^ 32 → (∀ y ∈ q.hostWait, y.func ≠ 0) →
        exec (.hostAccess 0 false off bytes (some v)) s =
          .next ((s.count 113 bytes).csrStore .supervisor (0x3000_0000_0000 + off.toNat) (leBytes bytes v.toNat)) ∧
        (
          let t := s.count 112 bytes
          exec (.hostAccess 0 false off bytes none) s = .next { t with qcl := { t.qcl with
            lastRead := BitVec.ofNat 64 (leNat (t.csrLoad .supervisor none (0x3000_0000_0000 + off.toNat) bytes)) } })) ∧
      (∀ (off : BitVec 48) bytes, s.classOf off.toNat ≠ .csr → (∀ y ∈ q.hostWait, y.func ≠ 0) → s.awake none off.toNat = true →
        (∀ v, exec (.hostAccess 0 true off bytes (some v)) s = .next ((s.count 113 bytes).homeWrite off.toNat (leBytes bytes v.toNat))) ∧
        (∀ bs p u, (s.count 112 bytes).homeRead off.toNat bytes = ((bs, p), u) →
          exec (.hostAccess 0 true off bytes none) s = .next { u with qcl := { u.qcl with lastRead := BitVec.ofNat 64 (leNat bs) } })) ∧
      (∀ (f : BitVec 7) (off : BitVec 48) bytes v, 1 ≤ f.toNat → f.toNat ≤ 64 → let n : NicheNum := BitVec.ofNat 6 (f.toNat - 1)
        bit (s.niche n).control 1 = true → (∀ y ∈ q.hostWait, y.func ≠ f) →
        exec (.hostAccess f false off bytes (some v)) s = .next ((s.count 113 bytes).profileBell n off.toNat bytes v) ∧
        (let a := Config.jexlorPlace (s.profileRanges n) off.toNat
          let there := s.inProfile n a bytes
          (there = true → s.awake none a = true) →
          exec (.hostAccess f true off bytes (some v)) s = .next (if there then (s.count 113 bytes).homeWrite a (leBytes bytes v.toNat)
            else (s.count 113 bytes).hole a true) ∧
          ∀ bs p u, (s.count 112 bytes).homeRead a bytes = ((bs, p), u) →
            let x := if there then u else (s.count 112 bytes).hole a false
            exec (.hostAccess f true off bytes none) s = .next { x with qcl := { x.qcl with
              lastRead := BitVec.ofNat 64 (leNat (if there then bs else [])) } })) ∧
      (∀ (f : BitVec 7) ap (off : BitVec 48) bytes wr, let x : HostAcc := { func := f, aperture := ap, off := off.toNat, bytes := bytes, wr := wr }
        ((∃ y ∈ q.hostWait, y.func = f) ∨ s.hostAwake x = false) →
        exec (.hostAccess f ap off bytes wr) s = .next { s with qcl := { q with hostWait := q.hostWait ++ [x] } }) ∧
      (∀ (line : BitVec 48) excl, let l := line.toNat
        s.inWindow l = true → l ∈ q.recalling →
        exec (.hostLineRequest line excl) s = .next { s with qcl := { q with lineWait := q.lineWait ++ [(l, excl)] } }) ∧
      (∀ (line : BitVec 48) excl, let l := line.toNat
        s.inWindow l = true → l ∉ q.recalling →
        ((∃ d ∈ q.dir, d.1 = l) ∨ q.dir.length < 2 ^ 20 → ∀ bs p u, s.homeRead l 64 = ((bs, p), u) →
          let t := u.count 112 64
          exec (.hostLineRequest line excl) s =
            .next { t with qcl := { u.qcl with dir := u.qcl.dir.filter (fun d => d.1 != l) ++ [(l, excl)] } }) ∧
        (∀ d ds, (∀ d ∈ q.dir, d.1 ≠ l) → 2 ^ 20 ≤ q.dir.length → q.dir = d :: ds →
          let t := s.recall [d.1]
          exec (.hostLineRequest line excl) s = .next { t with qcl := { t.qcl with lineWait := t.qcl.lineWait ++ [(l, excl)] } }))) ∧
    (∀ (line : BitVec 48), let l := line.toNat
      (∀ data, (l, true) ∈ q.dir → exec (.hostWriteback line data) s = .next (((s.count 113 64).homeWrite l data).dropLine l)) ∧
      ((l, false) ∈ q.dir → l ∈ q.recalling → exec (.hostRecallAnswer line) s = .next (s.dropLine l)) ∧
      (l ∈ q.recalling → Sparse.getD q.recallAt l 0 + 100000 ≤ s.ns → let t := s.dropLine l
        let u : State := { t with mem := s.mem.addPoison (wordsOf l 64), qcl := { t.qcl with recallTimeouts := satAdd q.recallTimeouts 1 } }
        exec (.recallTimeout line) s = .next (u.logError { cause := 0x29, loc := u.locOf l, addr := u.globalPa l, aspace := 1 }))) ∧
    (∀ a v (w : BitVec 4), let old := Sparse.getD q.wins w.toNat 0
      let new := (old &&& ~~~(mask 0 48)) ||| (v &&& mask 0 48)
      (isFwOrSup a = true → (bit old 0 = false ∨ ∀ d ∈ q.dir, overlaps d.1 64 (winRange old).1 (winRange old).2 = false) →
        inFirmware (winRange new).1 (winRange new).2 = false →
        exec (.qclWinWrite a w v) s = .next { s with qcl := { q with wins := Sparse.put q.wins w.toNat new } }) ∧
      (isFwOrSup a = false → exec (.qclWinWrite a w v) s = .next s)) ∧
    (∀ a v (m : BitVec 12), let e := Sparse.getD q.msgs m.toNat {}
      let f := v.toNat / 2 ^ 34 % 2 ^ 7
      let e1 : Msg := { e with data := BitVec.ofNat 32 v.toNat, mask := bit v 32, func := if 65 ≤ f then e.func else BitVec.ofNat 7 f }
      (isFwOrSup a = true →
        ((e.pending = false ∨ bit v 32 = true) →
          exec (.msgUnmask a m v) s = .next { s with qcl := { q with msgs := Sparse.put q.msgs m.toNat e1 } }) ∧
        (e.pending = true → bit v 32 = false → exec (.msgUnmask a m v) s =
          .next (({ s with qcl := { q with msgs := Sparse.put q.msgs m.toNat { e1 with pending := false } } } : State).trigger m.toNat))) ∧
      (isFwOrSup a = false → exec (.msgUnmask a m v) s = .next s)) ∧
    (bit q.spdmCtrl 26 = true → s.disc.fwReady = true →
      let rsp := (Config.spdmResponse q.spdmCode q.request q.spdmLog s.boot.measured).take 4096
      let ctrl := setBit (setBit (setFld q.spdmCtrl 13 13 rsp.length) 26 false) 27 true
      let t : State := { s with qcl := { q with
        spdmCtrl := ctrl, spdmRsp := (rsp.mapIdx (fun i b => (i, b))), spdmLog := q.spdmLog ++ [q.request] } }
      let u := t.trigger (ctrl.toNat / 2 ^ 28 % 2 ^ 12)
      (q.spdmCode = 0x84 → exec .getVersion s = .next u) ∧ (q.spdmCode = 0xE1 → exec .getCapabilities s = .next u) ∧
      (q.spdmCode = 0xE3 → exec .negotiateAlgorithms s = .next u) ∧ (q.spdmCode = 0x81 → exec .getDigests s = .next u) ∧
      (q.spdmCode = 0x82 → exec .getCertificate s = .next u) ∧ (q.spdmCode = 0x83 → exec .challenge s = .next u) ∧
      (q.spdmCode = 0xE0 → exec .getMeasurements s = .next u))

/-! ## Boot, the mailbox, errors, power, Patina -/

/-- Power-on reset by PERST_N or by a rail out of its window for more than 1 µs keeps only the flash, the fuses and the journal
(R545, R546); beyond a rail's absolute maximum no rule holds. PERST_N_DEASSERT runs the ROM (R529, R530) and, with a valid image,
the verified journal, the links, the mailbox and the bulk tier come up, what the self-test finds is recorded, and the
device is in memory-donor mode (R440, R506, R536, R538). A mailbox request of the
next SEQ is answered in the response page, with its message (R538, R539); each command has its effect (R540). -/
def Obligations.BootAndMailbox : Prop :=
  ∀ (s : State),
    (∃ t, exec .perstNAssert s = .next t ∧ t.cores = [] ∧ t.niches = [] ∧ t.tl = {} ∧ t.mem.cells = [] ∧ t.boot.flash = s.boot.flash ∧
      t.boot.minSvn = s.boot.minSvn ∧ t.pat.journal = s.pat.journal ∧ t.disc.mode = 0) ∧
    (∀ rail nom ppt top mv ns, railOf rail.toNat = some (nom, ppt, top) →
      (top < mv → exec (.supplyFault rail mv ns) s = .fault (.beyondAbsoluteMaximum rail)) ∧
      (mv ≤ top → 1000 < ns → (1000 * mv < nom * (1000 - ppt) ∨ nom * (1000 + ppt) < 1000 * mv) →
        exec (.supplyFault rail mv ns) s = .next s.powerOff) ∧
      (mv ≤ top → nom * (1000 - ppt) ≤ 1000 * mv → 1000 * mv ≤ nom * (1000 + ppt) → exec (.supplyFault rail mv ns) s = .next s)) ∧
    (∀ p : PowerUp, s.pins.perst = true →
      let r := s.powerOff
      let t : State := { r with pins := { r.pins with
        perst := false, smbAddr := BitVec.ofNat 7 (0x4C + 2 * p.strap1.toNat + p.strap0.toNat) } }
      let u := t.bootRom.1
      let j := u.verifyJournal
      let v : State := { j with pat := j.pat.powerOn.1 }
      let v := match j.pat.powerOn.2 with | some at_ => v.patinaEvent 0x09 0 at_ 0 0 | none => v
      let v := (v.trainQcl p.hostMin p.hostMax).mailboxReady.trainBulk p.dimms
      let v := p.selfTest.foldl (fun s e => s.selfTestError e) v
      exec (.perstNDeassert p) s = .next (if t.bootRom.2 then (if p.tpps then v.writeTlControl 3 1 else v).enterDonor else u)) ∧
    (let w := s.mem.word 0x8F_C000_0000
      let seq : BitVec 16 := BitVec.ofNat 16 (w.toNat % 2 ^ 16)
      let op := w.toNat / 2 ^ 16 % 2 ^ 8
      let arg := s.mem.bytes 0x8F_C000_0008 (min 4088 (w.toNat / 2 ^ 24 % 2 ^ 12))
      let reply (st : Nat) (out : List Byte) (u : State) : State :=
        let o := out.take 4088
        let t : State := { u with
          mem := (u.mem.store 0x8F_C000_1008 o).setWord 0x8F_C000_1000 (pack [(0, 16, seq.toNat), (16, 8, st), (24, 12, o.length)]),
          boot := { u.boot with mbxSeq := seq } }
        if bit w 48 then t.trigger (w.toNat / 2 ^ 36 % 2 ^ 12) else t
      let c := s.boot.inForce
      s.disc.fwReady = true → seq = s.boot.mbxSeq + 1 →
      (op = 1 → (numAt arg 0 1 ≤ 1 ∧ 1 ≤ numAt arg 1 1 →
          exec .version s = .next (reply 0 [1] { s with boot := { s.boot with mbxVersion := true } })) ∧
        (¬ (numAt arg 0 1 ≤ 1 ∧ 1 ≤ numAt arg 1 1) →
          exec .version s = .next (reply 1 [] (s.patinaEvent 0x01 0 2 (1 + 256) (numAt arg 0 1 + 256 * numAt arg 1 1))))) ∧
      (s.boot.mbxVersion = false → (op = 2 → exec .claim s = .next (reply 3 [] s)) ∧ (op = 9 → exec .powerCap s = .next (reply 3 [] s))) ∧
      (s.boot.mbxVersion = true →
        (op = 2 → s.disc.mode ≠ 0 → exec .claim s = .next (reply 0 [] { s with disc := { s.disc with mode := 2, claimed := true } })) ∧
        (op = 3 → s.niches.any (fun n => n.2.grant != 0) = false → s.disc.mode = 2 → exec .release s = .next (reply 0 [] s.enterDonor)) ∧
        (op = 3 → s.niches.any (fun n => n.2.grant != 0) = true → exec .release s = .next (reply 4 [] s)) ∧
        (∀ dimms, op = 4 → bit w 48 = false → let u := reply 0 [] s
          exec (.reset dimms) s = .next (({ u with disc := { u.disc with mode := 3 } } : State).recoveryReset dimms)) ∧
        (op = 5 → let slot := numAt arg 0 1 % 2 == 1
          (s.boot.runSlot = some slot → exec .flashWrite s = .next (reply 5 [] s)) ∧
          (s.boot.runSlot ≠ some slot →
            (0xF0_0000 < numAt arg 1 4 + (arg.drop 5).length → exec .flashWrite s = .next (reply 2 [] s)) ∧
            (numAt arg 1 4 + (arg.drop 5).length ≤ 0xF0_0000 → exec .flashWrite s = .next (reply 0 [] { s with
              boot := s.boot.program (slotBase slot + numAt arg 1 4) (arg.drop 5) })))) ∧
        (op = 6 → let slot := bit (BitVec.ofNat 64 (numAt arg 0 1)) 0
          let trial := bit (BitVec.ofNat 64 (numAt arg 0 1)) 1
          exec .setBoot s = .next (if s.boot.imageValid slot then reply 0 [] { s with boot := s.boot.writeControl slot trial 0 }
            else if s.boot.authentic slot && decide (s.boot.svn slot < s.boot.minSvn) then reply 7 [] s else reply 6 [] s)) ∧
        (op = 7 → exec .confirm s = .next (reply 0 [] (if s.boot.runSlot = some c.pref then
          { s with boot := s.boot.writeControl c.pref false 0 } else s))) ∧
        (op = 8 → let n := max s.boot.minSvn s.boot.runSvn
          exec .commitSvn s = .next (if c.trial then reply 5 [] s
            else reply 0 [BitVec.ofNat 8 n] { s with boot := { s.boot with minSvn := n } })) ∧
        (op = 9 → (numAt arg 0 2 = 0 → exec .powerCap s = .next (reply 0 [] { s with boot := { s.boot with capWatts := 3000 } })) ∧
          (1500 ≤ numAt arg 0 2 → numAt arg 0 2 ≤ 3000 →
            exec .powerCap s = .next (reply 0 [] { s with boot := { s.boot with capWatts := numAt arg 0 2 } })) ∧
          (0 < numAt arg 0 2 ∧ numAt arg 0 2 < 1500 ∨ 3000 < numAt arg 0 2 → exec .powerCap s = .next (reply 2 [] s))) ∧
        (op = 0xA → numAt arg 0 1 % 64 < 25 →
          exec .getCert s = .next (reply 0 (Config.patinaCert (numAt arg 0 1 % 64) s.boot.keySvn) s))))

/-- Patina. PATINA_SECOND counts the second and its bins, measures what is due and journals what waits (R488, R494, R496). MARGIN_PROBE
books the slots of a probe that is due, starts it in an idle running region or counts a skipped frame, and ends it with its MARGIN
entry, and a MARGIN_LOW event when the margin is low (R489 to R493). Every 600 s a LIFETIME set, and at an orderly shutdown one
more, journals a record for each location (R500, R501). A failed flash write is held until it clears (R502). A read by either
channel returns the record that it names (R505, R507, R551). HBM_REPAIR counts and records a repair (R26). -/
def Obligations.PatinaRecords : Prop :=
  ∀ (s : State),
    (s.fwRuns = true →
      (∀ d, ∃ t : State, exec (.patinaSecond d) s = .next ((t.measureOthers d.aging).readCounters.journalWaiting false) ∧
        t.pat = { s.pat with
          temps := d.temps.foldl (fun m t => bump32 m (t.1.toNat * 16 + tempBin t.2) 1) s.pat.temps,
          volts := d.volts.foldl (fun m v => bump32 m (v.1.toNat * 16 + voltBin v.2) 1) s.pat.volts, powerOnS := s.pat.powerOnS + 1 }) ∧
      (bit s.pat.control 17 = false → s.pat.setAt + 600 ≤ s.pat.powerOnS.toNat →
        exec .lifetimeSet s = .next (State.lifeSet { s with pat := { s.pat with setAt := s.pat.powerOnS.toNat } } 0)) ∧
      (∀ (mode : Nat) (c : Instr), (mode, c) ∈ [(0, Instr.patinaReadLatest false), (1, .patinaReadBySeq false), (2, .patinaReadLive false)] →
        bit s.pat.readCtrl 8 = true → s.pat.readCtrl.toNat / 2 ^ 6 % 4 = mode →
        ∀ r t, s.selectRecord (s.pat.readCtrl.toNat % 2 ^ 6) mode s.pat.readSeq.toNat = (r, t) →
          let bs := (r.map (·.bytes)).getD []
          let ctrl := setFld (setBit (setBit (setBit s.pat.readCtrl 8 false) 9 true) 10 r.isNone) 16 15 bs.length
          exec c s = .next { t with pat := { t.pat with readCtrl := ctrl, readBuf := bs } }) ∧
      (∀ (mode : Nat) (c : Instr), (mode, c) ∈ [(0, Instr.patinaReadLatest true), (1, .patinaReadBySeq true), (2, .patinaReadLive true)] →
        s.pat.smbGo = true → s.pat.smbSel.toNat / 2 ^ 6 % 4 = mode →
        ∀ r t, s.selectRecord (s.pat.smbSel.toNat % 2 ^ 6) mode s.pat.smbSeq.toNat = (r, t) →
          let pat : Patina :=
            { t.pat with smbGo := false, smbDone := true, smbNotFound := r.isNone, smbBuf := (r.map (·.bytes)).getD [] }
          exec c s = .next { t with pat := pat, pins := { t.pins with smbAlert := true } }) ∧
      (s.err.recovering = false →
        (∀ d seq, s.pat.smbGo = false → d.toNat / 2 ^ 6 % 4 ≠ 3 → exec (.smbusSelect d seq) s = .next { s with pat := { s.pat with
          smbSel := d, smbSeq := seq, smbGo := true, smbDone := false, smbNotFound := false } }) ∧
        (
          let w := pack [(0, 1, s.pat.smbDone.toNat), (1, 1, s.pat.smbNotFound.toNat), (16, 16, s.pat.smbBuf.length)]
          exec .smbusStatus s = .next { s with
            pat := { s.pat with smbOut := leBytes 8 w.toNat }, pins := { s.pins with smbAlert := false } }) ∧
        (∀ off, exec (.smbusReadChunk off) s = .next { s with pat := { s.pat with smbOut := (s.pat.smbBuf.drop off.toNat).take 240 } }) ∧
        exec .smbusAlertResponse s = .next { s with pins := { s.pins with smbAlert := false } })) ∧
    (∀ r d, let x := s.region r
      let word (vop mv flag : Nat) : W64 := pack [(0, 16, mv), (16, 16, vop), (32, 8, wrapN 8 d.temp), (40, 3, flag)]
      s.fwRuns = true →
      (∀ tick vop gone, x.probe = some (tick, vop, gone) →
        ((gone || d.disturbed) = true → exec (.marginProbe r d) s = .next (s.endProbe r { time := tick, word1 := word vop 0xFFFF 2 })) ∧
        ((gone || d.disturbed) = false → ∀ k, d.firstWarn = some k → 1 ≤ k → k ≤ 30 →
          let u := s.endProbe r { time := tick, word1 := word vop (5 * (k - 1)) 0 }
          exec (.marginProbe r d) s = .next (if 5 * (k - 1) ≤ fld u.pat.control 9 8 then
            u.patinaEvent 0x08 (dieLoc r) r.toNat (5 * (k - 1)) 0 else u)) ∧
        ((gone || d.disturbed) = false → d.firstWarn = none →
          let u := s.endProbe r { time := tick, word1 := word vop 150 1 }
          exec (.marginProbe r d) s = .next (if 150 ≤ fld u.pat.control 9 8 then u.patinaEvent 0x08 (dieLoc r) r.toNat 150 0 else u))) ∧
      (x.probe = none → s.probeDue r = true →
        (x.probeBook = none →
          let first := Config.freeNat s.fresh % 961
          exec (.marginProbe r d) s = .next (((State.bookProbe { s with fresh := s.fresh + 1 } r first true).updRegion r
            (fun x => { x with probeBook := some (first, frameOf s.tl.now) })).donorClock r true)) ∧
        (x.probeBook ≠ none → s.probeSlot r = true →
          let u := s.updRegion r (fun x => { x with probeFrame := some (frameOf s.tl.now) })
          (¬(x.state = 0 ∧ s.regionIdle r = true ∧ d.temp < 85) →
            (x.probeSkips + 1 < 16 → exec (.marginProbe r d) s = .next (u.updRegion r (fun x => { x with probeSkips := x.probeSkips + 1 }))) ∧
            (16 ≤ x.probeSkips + 1 → exec (.marginProbe r d) s = .next (u.endProbe r { time := s.tl.now, word1 := word d.vop 0xFFFF 4 }))) ∧
          (x.state = 0 → s.regionIdle r = true → d.temp < 85 →
            let pat := (d.aging.take 4).zipIdx.foldl (fun (p : Patina) a =>
              p.measure (dieLoc r * 16 + 4 * diePos r + a.2) a.1 s.tl.now) s.pat
            exec (.marginProbe r d) s = .next (State.updRegion { u with pat := pat } r (fun x =>
              { x with probe := some (s.tl.now, d.vop, false), probeSkips := 0 })))))) ∧
    (∀ a, (isFwOrSup a = false → exec (.shutdownReq a) s = .next s) ∧ (isFwOrSup a = true → bit s.pat.control 17 = false →
      let pat : Patina := { s.pat with control := setBit s.pat.control 17 true, orderly := satAdd s.pat.orderly 1 }
      let t := ({ s with pat := pat } : State).lifeSet 1
      exec (.shutdownReq a) s = .next { t with pat := { t.pat with shutdownDone := true } })) ∧
    (∀ status, exec (.journalFault status) s = .next { s with pat := { s.pat with journalFault := true, flashStatus := status } }) ∧
    (s.pat.journalFault = true →
      let pat : Patina := { s.pat with journalFault := false, buffered := [] }
      let t := s.pat.buffered.foldl (fun s r => s.journal r) ({ s with pat := pat } : State)
      exec .journalFaultCleared s = .next (t.signJournal 2 0 ([0x0A, t.pat.flashStatus.toNat, 0, 0].flatMap (leBytes 8)))) ∧
    (∀ stack row, let pat : Patina := { s.pat with repairs := bump32 s.pat.repairs stack.toNat 1 }
      exec (.hbmRepair stack row) s = .next (({ s with pat := pat } : State).patinaEvent 0x07 (32 + stack.toNat) row.toNat 0 0))

/-- Errors, power and heat. A DEVICE_FATAL error stops the regions and the ports, takes MODE 0b011 and is counted (R479, R481). A
watchdog, a regulator, the eighth failed replay of a mesh flit and a trip are such errors; another mesh replay is corrected (R472,
R560). The recovery journals its record and, unless the device is held or tripped, resets (R480, R481). A trip places every region
in OFF (R560). The power cap and the temperatures step the region clocks (R558, R559). -/
def Obligations.ErrorsAndPower : Prop :=
  ∀ (s : State),
    (∀ e : ErrInfo, e.core = none → let t := s.fatal e
      (∀ r, (s.region r).state ≠ 3 → (t.region r).state = 2) ∧ (∀ r, (s.region r).state = 3 → (t.region r).state = 3) ∧
      (∀ p ∈ t.tr.ports, p.2.state = 0) ∧ t.disc.mode = 3 ∧ t.disc.fwReady = false ∧ t.err.recovering = true ∧
      t.err.lastCause = BitVec.ofNat 8 e.cause ∧ t.err.fatalCount = satAdd s.err.fatalCount 1 ∧
      t.err.held = (s.err.held || decide (2 ≤ (s.err.fatals.filter (fun x => decide (s.pat.powerOnS.toNat < x + 3600))).length))) ∧
    (s.fwRuns = true →
      (exec .firmwareWatchdog s = .next (s.fatal { cause := 0x46 })) ∧
      (∀ r, exec (.regulatorFault r) s = .next (s.fatal { cause := 0x44, loc := dieLoc r })) ∧
      (∀ (cause : Byte) dimms, let u (t : State) : State := State.journalWaiting t false
        let step8 (t : State) : State :=
          let p := u t
          let b : State := { p with pat := { p.pat with fatalRecoveries := satAdd p.pat.fatalRecoveries 1 } }
          if t.err.lastCause = 0x42 ∨ t.err.lastCause = 0x46 then
            let v := b.verifyJournal
            State.recoveryReset { v with pat := { v.pat.resume with resumed := true, lastRead := b.pat.lastRead } } dimms
          else b.recoveryReset dimms
        (s.err.recovering = true →
          ((s.err.held = true ∨ s.pins.thermTrip = true) → exec (.deviceFatalRecovery cause dimms) s = .next (u s)) ∧
          (s.err.held = false → s.pins.thermTrip = false → exec (.deviceFatalRecovery cause dimms) s = .next (step8 s))) ∧
        (s.err.recovering = false → 0x40 ≤ cause.toNat → cause.toNat ≤ 0x46 → cause ≠ 0x45 →
          let f := s.fatal { cause := cause.toNat }
          ((f.err.held = true ∨ f.pins.thermTrip = true) → exec (.deviceFatalRecovery cause dimms) s = .next (u f)) ∧
          (f.err.held = false → f.pins.thermTrip = false → exec (.deviceFatalRecovery cause dimms) s = .next (step8 f))) ∧
        (s.err.recovering = false → cause = 0x45 → exec (.deviceFatalRecovery cause dimms) s = .next s.thermalTrip)) ∧
      (∀ (link : Byte) again, let n := if again then Sparse.getD s.err.mesh link.toNat 0 + 1 else 0
        let t : State := { s with err := { s.err with mesh := Sparse.put s.err.mesh link.toNat n } }
        (n < 8 → exec (.meshFlitReject link again) s = .next (t.logError { cause := 0x0A })) ∧
        (8 ≤ n → exec (.meshFlitReject link again) s = .next (t.fatal { cause := 0x41 }))) ∧
      (exec .thermalTrip s = .next s.thermalTrip) ∧
      (
        let t := s.thermalTrip
        t.pins.thermTrip = true ∧ t.disc.mode = 3 ∧ t.err.recovering = true ∧ t.err.lastCause = 0x45 ∧ ∀ r, (t.region r).state = 3) ∧
      (∀ r (temp : BitVec 12), let x := { s.region r with temp := temp }
        let y : Region :=
          if 380 ≤ temp.toInt ∨ (x.hot = true ∧ 368 ≤ temp.toInt) then { x with hot := true, cool := 0, thermStep := min 4 (x.thermStep + 1) }
          else if 10 ≤ x.cool + 1 then { x with hot := false, cool := 0, thermStep := x.thermStep - 1 }
          else { x with hot := false, cool := x.cool + 1 }
        exec (.thermalControl r temp) s = .next ((s.setRegion r y).applySteps r)) ∧
      (∀ watts, let b (n : Nat) : State := { s with boot := { s.boot with capBelow := n } }
        (s.boot.capWatts < watts → exec (.powerCapControl watts) s =
          .next ((b 0).stepRegions (fun x => { x with capStep := min 4 (x.capStep + 1) }))) ∧
        (100 * watts < 97 * s.boot.capWatts → 10 ≤ s.boot.capBelow + 1 → exec (.powerCapControl watts) s =
          .next ((b 0).stepRegions (fun x => { x with capStep := x.capStep - 1 }))) ∧
        (100 * watts < 97 * s.boot.capWatts → s.boot.capBelow + 1 < 10 →
          exec (.powerCapControl watts) s = .next (b (s.boot.capBelow + 1))) ∧
        (watts ≤ s.boot.capWatts → 97 * s.boot.capWatts ≤ 100 * watts → exec (.powerCapControl watts) s = .next (b 0)))) ∧
    (∀ r, let x := s.region r
      let k := max x.capStep x.thermStep
      (2 ≤ fld x.clockReg 0 3 → s.applySteps r = s) ∧
      (fld x.clockReg 0 3 < 2 → s.applySteps r = s.writeRegClock r 0x3F (if k = 0 then 0 else pack [(0, 3, 1), (3, 3, k)])))

/-- Stores to registers, and the error registers. A store acts on a whole register or on one half of it, and any other is ignored (R9,
R12, R13); one by an actor without the right changes nothing (R41). ERR_RELEASE empties a FAULTED context and no other (R478);
ERR_INJECT arms where it may (R486, R487). The patrol scrub of HBM4, the bulk tier and the shelf corrects a single error, which is
logged, and poisons a word with a double one (R77, R79); in a device-fatal sequence it does nothing (R482). -/
def Obligations.RegisterStoresAndScrub : Prop :=
  ∀ (s : State),
    (∀ a (off : BitVec 32) (bytes : Nat) v,
      (off.toNat % 8 = 0 → exec (.registerWrite a off 8 v) s = .next (s.writeReg a off.toNat (BitVec.allOnes 64) v)) ∧
      (off.toNat % 8 = 0 → exec (.registerWrite a off 4 v) s =
        .next (s.writeReg a off.toNat (mask 0 32) (BitVec.ofNat 64 (v.toNat % 2 ^ 32)))) ∧
      (off.toNat % 8 = 4 → exec (.registerWrite a off 4 v) s =
        .next (s.writeReg a (off.toNat / 8 * 8) (mask 32 32) (BitVec.ofNat 64 (v.toNat % 2 ^ 32 * 2 ^ 32)))) ∧
      (((bytes ≠ 4 ∧ bytes ≠ 8) ∨ off.toNat % bytes ≠ 0) → exec (.registerWrite a off bytes v) s = .next s) ∧
      (4 ≤ off.toNat / 0x100_0000 → off.toNat / 0x100_0000 ≤ 8 → isFwOrSup a = false → exec (.registerWrite a off bytes v) s = .next s)) ∧
    (∀ a v, exec (.registerWrite a 0x600_0020 8 v) s = exec (.errRelease a v) s ∧
      exec (.registerWrite a 0x600_0028 8 v) s = exec (.errorInject a v) s ∧
      exec (.registerWrite a 0x800_0008 8 v) s = exec (.trIdWrite a v) s) ∧
    (∀ (pa : BitVec 48), s.classOf pa.toNat = .shelf ∨ s.classOf pa.toNat = .hbm ∨ s.classOf pa.toNat = .bulk →
      (s.err.recovering = true → ∀ f, exec (.memoryPatrolScrub pa f) s = .next s) ∧
      (s.err.recovering = false → exec (.memoryPatrolScrub pa .clean) s = .next s ∧
        exec (.memoryPatrolScrub pa .single) s = .next (s.memError (pa.toNat / 8 * 8) false true false) ∧
        exec (.memoryPatrolScrub pa .double) s =
          .next (State.memError { s with mem := s.mem.addPoison [pa.toNat / 8 * 8] } (pa.toNat / 8 * 8) true true false))) ∧
    (∀ a (v : W64), (isFwOrSup a = false → exec (.errRelease a v) s = .next s ∧ exec (.errorInject a v) s = .next s) ∧
      (isFwOrSup a = true →
        (
          let n : NicheNum := BitVec.ofNat 6 (v.toNat % 2 ^ 6)
          let c : BitVec 4 := BitVec.ofNat 4 (v.toNat / 2 ^ 6 % 2 ^ 4)
          (bit v 10 = true → (s.ctx n c).state = 3 → exec (.errRelease a v) s = .next (s.updCtx n c (fun x => { x with state := 0 }))) ∧
          ((bit v 10 = false ∨ (s.ctx n c).state ≠ 3) → exec (.errRelease a v) s = .next s)) ∧
        (
          let w := (s.err.inject &&& ~~~(mask 1 29)) ||| (v &&& mask 1 29)
          v.toNat / 2 % 16 ≠ 15 →
          (bit v 0 = true → bit s.err.control 26 = true →
            (s.injectionOk w = true → exec (.errorInject a v) s = .next { s with err := { s.err with inject := setBit w 0 true } }) ∧
            (s.injectionOk w = false → exec (.errorInject a v) s = .next s)) ∧
          ((bit v 0 = false ∨ bit s.err.control 26 = false) → bit s.err.inject 0 = false →
            exec (.errorInject a v) s = .next { s with err := { s.err with inject := w } }))))
/-! ## The block as a whole -/

/-- The words of the instruction set (R129): a word built from OP, FN and the fields of a format gives them all back when it is
read in that format, and a word rebuilt from what is read of it is that word: no field is lost and none overlaps another. -/
def Obligations.InstructionWords : Prop :=
  (∀ op fn, op < 128 → fn < 32 →
    (∀ f : RFmt, wOp (encR op fn f) = op ∧ wFn (encR op fn f) = fn ∧ wR (encR op fn f) = f) ∧
    (∀ f : IFmt, wOp (encI op fn f) = op ∧ wFn (encI op fn f) = fn ∧ wI (encI op fn f) = f) ∧
    (∀ f : MFmt, wOp (encM op fn f) = op ∧ wFn (encM op fn f) = fn ∧ wM (encM op fn f) = f)) ∧
  (∀ w : W64, encR (wOp w) (wFn w) (wR w) = w ∧ encI (wOp w) (wFn w) (wI w) = w ∧ encM (wOp w) (wFn w) (wM w) = w)

/-- One step: the command at the front of the queue runs with the queue's rest; on an empty queue a nanosecond passes and what waits
is tried again (State.idle). The third clause is the model's choice (assumption log, 6). -/
def Obligations.StepRunsTheFrontCommand : Prop :=
  (∀ c (s : State), step { s with pending := c :: s.pending } = exec c s) ∧
  (∀ c rest (s : State), s.pending = c :: rest → step s = exec c { s with pending := rest }) ∧
  (∀ s : State, s.pending = [] → step s = .next s.idle)

/-- Reset: no command waits, PERST_N is low, and the registers of the tables hold what their Reset columns give (R14); the error log,
the caches and the directory are empty; the memories keep their canonical form. -/
def Obligations.ResetState : Prop :=
  let s := State.reset
  (s.pending = [] ∧ s.pins.perst = true ∧ s.memWf ∧ s.bulkOk) ∧
  (s.tl.now = 0 ∧ s.tl.state = 0 ∧ s.tl.control = 0 ∧ s.frzCap = 2 ∧ s.err.log = [] ∧ s.err.control = 0 ∧ s.pat.control = 0x2831 ∧
    s.place.control = 0x0A08_400D ∧ s.tr.control = 2 ∧ s.tr.torus = 0x80_0001 ∧ s.qcl.control = 5 ∧ s.qcl.dir = [] ∧ s.disc.fwReady = false) ∧
  (∀ r, (s.region r).clock = 0x43 ∧ (s.region r).frz.control = 0x80 ∧ (s.region r).frz.sink = 0x14 ∧ (s.region r).droop = 0 ∧
    (s.region r).late = 0 ∧ (s.region r).auditMismatches = 0 ∧ ∀ g, (Sparse.getD (s.region r).grants g {}).valid = false) ∧
  (∀ c, (s.core c).control = 0x40 ∧ (s.core c).failed = false ∧ (s.core c).drawerCe = 0 ∧ (s.core c).eccValid = false ∧
    (s.core c).dc.lines = [] ∧ (s.core c).dc.lfsr = BitVec.ofNat 16 (c.toNat ||| 1) ∧ (s.core c).ic.lines = [] ∧ ∀ i, ((s.core c).sem i).count = 0) ∧
  (∀ n, (s.niche n).control = 0x03E8_2710_07D0_0000 ∧ (s.niche n).excRing = 0xC ∧ (s.niche n).clear = 0x1E ∧ (s.niche n).nplControl = 5 ∧
    (s.niche n).shoot = 2 ∧ (s.niche n).nplRoot = 0 ∧ ∀ c, (s.ctx n c).control = 0 ∧ (s.ctx n c).state = 0) ∧
  (∀ q, (s.queue q).base = 0 ∧ (s.queue q).config = 0x10 ∧ (s.queue q).halted = false) ∧
  (∀ p, (s.port p).control = 4 ∧ (s.port p).state = 0) ∧ (∀ m, (Sparse.getD s.qcl.msgs m {}).mask = true)
end

