-- ==== Sys2Proof/Laws/Arith.lean ====
section
/-! SUPPORT. The integer operations on numbers of Machine/Flags.lean as operations on bit vectors. -/

namespace Sys2Proof.Machine

theorem sextI_toNat {n : Nat} (hn : 0 < n) (a : BitVec n) : sextI n a.toNat = a.toInt := by
  have h := a.isLt
  have hp : 2 ^ n = 2 * 2 ^ (n - 1) := by rw [← Nat.pow_succ']; congr; omega
  unfold sextI
  simp only [Nat.mod_eq_of_lt h]
  rw [BitVec.toInt_eq_toNat_cond]
  split <;> split <;> first | rfl | omega

theorem ofNat_wrapN {n : Nat} (v : Int) : BitVec.ofNat n (wrapN n v) = BitVec.ofInt n v := by
  apply BitVec.eq_of_toNat_eq
  have hpos : (0 : Int) < (2 : Int) ^ n := by positivity
  have h0 : 0 ≤ v % (2 : Int) ^ n := Int.emod_nonneg _ (by omega)
  have h1 : v % (2 : Int) ^ n < (2 : Int) ^ n := Int.emod_lt_of_pos _ hpos
  simp only [BitVec.toNat_ofNat, BitVec.toNat_ofInt, wrapN]
  rw [Nat.mod_eq_of_lt]
  · norm_cast
  · have : ((v % (2 : Int) ^ n).toNat : Int) < ((2 ^ n : Nat) : Int) := by rw [Int.toNat_of_nonneg h0]; exact_mod_cast h1
    exact_mod_cast this

theorem intTo_fst {n : Nat} (sat : Bool) (fl : Byte) (v : Int) :
    BitVec.ofNat n (intTo n true sat fl v).1 = BitVec.ofInt n (if sat then clamp n v else v) := by
  have h2 : (0 : Int) < (2 : Int) ^ (n - 1) := by positivity
  unfold intTo intRange clamp
  simp only [if_true]
  split
  · rename_i h
    rw [ofNat_wrapN]
    split
    · congr 1; omega
    · rfl
  · split
    · rw [ofNat_wrapN]; congr 1; split <;> omega
    · rw [ofNat_wrapN]

theorem intTo_snd {n : Nat} (sat : Bool) (fl : Byte) (v : Int) :
    (intTo n true sat fl v).2 = if sat = true ∧ clamp n v ≠ v then fl else 0 := by
  have h2 : (0 : Int) < (2 : Int) ^ (n - 1) := by positivity
  unfold intTo intRange clamp
  simp only [if_true]
  split
  · rw [if_neg]; rintro ⟨-, h⟩; omega
  · cases sat
    · simp
    · simp only [if_true, true_and]; rw [if_pos]; omega

theorem ediv_emod_shift (p m : Int) (hm : 0 < m) : p % (m * m) / m % m = p / m % m := by
  rw [Int.emod_def p (m * m), show p - m * m * (p / (m * m)) = p + m * (-(m * (p / (m * m)))) by ring,
    Int.add_mul_ediv_left _ _ (by omega), show -(m * (p / (m * m))) = m * (-(p / (m * m))) by ring, Int.add_mul_emod_self_left]

theorem mulh_eq {n : Nat} (a b : BitVec n) :
    BitVec.ofInt n (a.toInt * b.toInt / 2 ^ n) = ((a.signExtend (2 * n) * b.signExtend (2 * n)) >>> n).setWidth n := by
  have hm : (0 : Int) < (2 : Int) ^ n := by positivity
  have e : a.signExtend (2 * n) * b.signExtend (2 * n) = BitVec.ofInt (2 * n) (a.toInt * b.toInt) := by
    rw [BitVec.signExtend, BitVec.signExtend, BitVec.ofInt_mul]
  rw [e]
  apply BitVec.eq_of_toNat_eq
  simp only [BitVec.toNat_setWidth, BitVec.toNat_ushiftRight, BitVec.toNat_ofInt, Nat.shiftRight_eq_div_pow]
  have h1 : (0 : Int) ≤ a.toInt * b.toInt / 2 ^ n % 2 ^ n := Int.emod_nonneg _ (by omega)
  have h2 : (0 : Int) ≤ (a.toInt * b.toInt) % 2 ^ (2 * n) := Int.emod_nonneg _ (by positivity)
  apply Int.ofNat_inj.mp
  push_cast
  rw [Int.toNat_of_nonneg h1, Int.toNat_of_nonneg h2, show (2 : Int) ^ (2 * n) = 2 ^ n * 2 ^ n by rw [two_mul, pow_add], ediv_emod_shift _ _ hm]

theorem mulhu_eq {n : Nat} (a b : BitVec n) :
    BitVec.ofNat n (a.toNat * b.toNat / 2 ^ n) = ((a.setWidth (2 * n) * b.setWidth (2 * n)) >>> n).setWidth n := by
  have ha := a.isLt
  have hb := b.isLt
  have e : 2 ^ (2 * n) = 2 ^ n * 2 ^ n := by rw [two_mul, pow_add]
  have hp : 0 < 2 ^ n := Nat.two_pow_pos n
  apply BitVec.eq_of_toNat_eq
  simp only [BitVec.toNat_ofNat, BitVec.toNat_setWidth, BitVec.toNat_ushiftRight, BitVec.toNat_mul, Nat.shiftRight_eq_div_pow, e]
  rw [Nat.mod_eq_of_lt (show a.toNat < 2 ^ n * 2 ^ n by nlinarith), Nat.mod_eq_of_lt (show b.toNat < 2 ^ n * 2 ^ n by nlinarith),
    Nat.mod_eq_of_lt (show a.toNat * b.toNat < 2 ^ n * 2 ^ n by nlinarith)]

/-- FN 0 to 14 of the integer operations. -/
theorem intOp_fst {n : Nat} (hn : 0 < n) (fn : Nat) (sat : Bool) (a b : BitVec n) :
    BitVec.ofNat n (intOp n fn sat a.toNat b.toNat).1 =
      if sat = true ∧ fn ≤ 2 then BitVec.ofInt n (clamp n (exactOp fn a.toInt b.toInt)) else aluOp fn a b := by
  have ha := a.isLt
  have hb := b.isLt
  unfold intOp
  rw [sextI_toNat hn, sextI_toNat hn]
  rcases fn with _ | _ | _ | _ | _ | _ | _ | _ | _ | _ | _ | _ | _ | _ | fn
  · simp only [intTo_fst]; cases sat <;> simp [exactOp, aluOp, BitVec.ofInt_add]
  · simp only [intTo_fst]; cases sat <;> simp [exactOp, aluOp, sub_eq_add_neg, BitVec.ofInt_add, BitVec.ofInt_neg]
  · simp only [intTo_fst]; cases sat <;> simp [exactOp, aluOp, BitVec.ofInt_mul]
  · simp [aluOp, ofNat_wrapN, mulh_eq]
  · simp [aluOp, mulhu_eq]
  · simp [aluOp]
  · simp [aluOp]
  · simp [aluOp]
  · apply BitVec.eq_of_toNat_eq
    simp [aluOp, BitVec.toNat_shiftLeft, Nat.shiftLeft_eq]
  · apply BitVec.eq_of_toNat_eq
    have := Nat.div_le_self a.toNat (2 ^ (b.toNat % n))
    simp [aluOp, BitVec.toNat_ushiftRight, Nat.shiftRight_eq_div_pow, Nat.mod_eq_of_lt (Nat.lt_of_le_of_lt this ha)]
  · simp [aluOp, ofNat_wrapN, BitVec.sshiftRight, Int.shiftRight_eq_div_pow]
  · simp [aluOp, BitVec.slt]; split <;> simp
  · simp [aluOp, BitVec.slt]; split <;> simp
  · rw [if_neg (by omega)]
    simp only [aluOp, BitVec.ult, decide_eq_true_eq, Nat.min_def]
    split <;> split <;> first | (apply BitVec.eq_of_toNat_eq; simp; omega) | simp
  · rw [if_neg (by omega)]
    simp only [aluOp, BitVec.ult, decide_eq_true_eq, Nat.max_def]
    split <;> split <;> first | omega | (apply BitVec.eq_of_toNat_eq; simp; omega) | simp

/-- The flags of the integer operations. -/
theorem intOp_snd {n : Nat} (hn : 0 < n) (fn : Nat) (sat : Bool) (a b : BitVec n) :
    (intOp n fn sat a.toNat b.toNat).2 =
      if sat = true ∧ fn ≤ 2 ∧ clamp n (exactOp fn a.toInt b.toInt) ≠ exactOp fn a.toInt b.toInt then flSAT else 0 := by
  unfold intOp
  rw [sextI_toNat hn, sextI_toNat hn]
  rcases fn with _ | _ | _ | _ | _ | _ | _ | _ | _ | _ | _ | _ | _ | _ | fn <;> simp [intTo_snd, exactOp]

/-- The comparisons. -/
theorem intCmp_eq {n : Nat} (hn : 0 < n) (fn : Nat) (a b : BitVec n) : intCmp n fn a.toNat b.toNat = cmpOp fn a b := by
  unfold intCmp cmpOp
  rw [sextI_toNat hn, sextI_toNat hn]
  rcases fn with _ | _ | _ | _ | _ | fn
  · simp only [beq_eq_beq, ← BitVec.toNat_inj]
  · simp [bne, BitVec.toNat_inj]
  · simp [BitVec.slt]
  · simp [BitVec.sle]
  · simp [BitVec.ult]
  · simp [BitVec.ule]

end Sys2Proof.Machine
end

