-- ==== Sys2Proof/Laws/Dispatch.lean ====
section
/-! SUPPORT. Each arm of the dispatch as an equation. -/

namespace Sys2Proof.Machine

@[simp] theorem exec_registerWrite {a} {off} {bytes} {v} (s : State) : exec (.registerWrite a off bytes v) s = execRegisterWrite a off bytes v s := rfl
@[simp] theorem exec_tppsEdge {phase} (s : State) : exec (.tppsEdge phase) s = execTppsEdge phase s := rfl
@[simp] theorem exec_loadArm {a} (s : State) : exec (.loadArm a) s = execLoadArm a s := rfl
@[simp] theorem exec_sourceLostTimeout (s : State) : exec (.sourceLostTimeout) s = execSourceLostTimeout s := rfl
@[simp] theorem exec_holdoverExpiry (s : State) : exec (.holdoverExpiry) s = execHoldoverExpiry s := rfl
@[simp] theorem exec_bookedSlotStart {port} (s : State) : exec (.bookedSlotStart port) s = execBookedSlotStart port s := rfl
@[simp] theorem exec_tlBookWrite {a} {ofRegion} {n} {idx} {v} (s : State) : exec (.tlBookWrite a ofRegion n idx v) s = execTlBookWrite a ofRegion n idx v s := rfl
@[simp] theorem exec_regClockWrite {a} {region} {v} (s : State) : exec (.regClockWrite a region v) s = execRegClockWrite a region v s := rfl
@[simp] theorem exec_clockTransitionDone {region} (s : State) : exec (.clockTransitionDone region) s = execClockTransitionDone region s := rfl
@[simp] theorem exec_droopCycle {region} (s : State) : exec (.droopCycle region) s = execDroopCycle region s := rfl
@[simp] theorem exec_frameEnd {counts} (s : State) : exec (.frameEnd counts) s = execFrameEnd counts s := rfl
@[simp] theorem exec_engineEntryFetch {core} {e} (s : State) : exec (.engineEntryFetch core e) s = execEngineEntryFetch core e s := rfl
@[simp] theorem exec_launchEntryStart {core} (s : State) : exec (.launchEntryStart core) s = execLaunchEntryStart core s := rfl
@[simp] theorem exec_kernelStart {core} {e} (s : State) : exec (.kernelStart core e) s = execKernelStart core e s := rfl
@[simp] theorem exec_blockAdmit {core} (s : State) : exec (.blockAdmit core) s = execBlockAdmit core s := rfl
@[simp] theorem exec_kernelEnd {core} {e} (s : State) : exec (.kernelEnd core e) s = execKernelEnd core e s := rfl
@[simp] theorem exec_entryComplete {core} {e} (s : State) : exec (.entryComplete core e) s = execEntryComplete core e s := rfl
@[simp] theorem exec_barrierWatchdogExpiry {core} {whole} {slot} (s : State) : exec (.barrierWatchdogExpiry core whole slot) s = execBarrierWatchdogExpiry core whole slot s := rfl
@[simp] theorem exec_transcendentalResult {core} (s : State) : exec (.transcendentalResult core) s = execTranscendentalResult core s := rfl
@[simp] theorem exec_drawerCeWriteback {core} (s : State) : exec (.drawerCeWriteback core) s = execDrawerCeWriteback core s := rfl
@[simp] theorem exec_scrubRead {core} {word} {f} (s : State) : exec (.scrubRead core word f) s = execScrubRead core word f s := rfl
@[simp] theorem exec_dcacheFill {core} (s : State) : exec (.dcacheFill core) s = execDcacheFill core s := rfl
@[simp] theorem exec_dcacheWriteback {core} (s : State) : exec (.dcacheWriteback core) s = execDcacheWriteback core s := rfl
@[simp] theorem exec_icacheFill {t} (s : State) : exec (.icacheFill t) s = execIcacheFill t s := rfl
@[simp] theorem exec_dcacheInitDone {core} (s : State) : exec (.dcacheInitDone core) s = execDcacheInitDone core s := rfl
@[simp] theorem exec_icacheInitDone {core} (s : State) : exec (.icacheInitDone core) s = execIcacheInitDone core s := rfl
@[simp] theorem exec_dcacheWbi {a} {core} (s : State) : exec (.dcacheWbi a core) s = execDcacheWbi a core s := rfl
@[simp] theorem exec_icacheInv {a} {core} (s : State) : exec (.icacheInv a core) s = execIcacheInv a core s := rfl
@[simp] theorem exec_illegalInstr {t} {w} (s : State) : exec (.illegalInstr t w) s = execIllegalInstr t w s := rfl
@[simp] theorem exec_add {core} {f} (s : State) : exec (.add core f) s = execAdd core f s := rfl
@[simp] theorem exec_sub {core} {f} (s : State) : exec (.sub core f) s = execSub core f s := rfl
@[simp] theorem exec_mul {core} {f} (s : State) : exec (.mul core f) s = execMul core f s := rfl
@[simp] theorem exec_mulh {core} {f} (s : State) : exec (.mulh core f) s = execMulh core f s := rfl
@[simp] theorem exec_mulhu {core} {f} (s : State) : exec (.mulhu core f) s = execMulhu core f s := rfl
@[simp] theorem exec_and {core} {f} (s : State) : exec (.and core f) s = execAnd core f s := rfl
@[simp] theorem exec_or {core} {f} (s : State) : exec (.or core f) s = execOr core f s := rfl
@[simp] theorem exec_xor {core} {f} (s : State) : exec (.xor core f) s = execXor core f s := rfl
@[simp] theorem exec_shl {core} {f} (s : State) : exec (.shl core f) s = execShl core f s := rfl
@[simp] theorem exec_shr {core} {f} (s : State) : exec (.shr core f) s = execShr core f s := rfl
@[simp] theorem exec_sra {core} {f} (s : State) : exec (.sra core f) s = execSra core f s := rfl
@[simp] theorem exec_min {core} {f} (s : State) : exec (.min core f) s = execMin core f s := rfl
@[simp] theorem exec_max {core} {f} (s : State) : exec (.max core f) s = execMax core f s := rfl
@[simp] theorem exec_minu {core} {f} (s : State) : exec (.minu core f) s = execMinu core f s := rfl
@[simp] theorem exec_maxu {core} {f} (s : State) : exec (.maxu core f) s = execMaxu core f s := rfl
@[simp] theorem exec_sel {core} {f} (s : State) : exec (.sel core f) s = execSel core f s := rfl
@[simp] theorem exec_salui {core} {fn} {f} (s : State) : exec (.salui core fn f) s = execSalui core fn f s := rfl
@[simp] theorem exec_scmp {core} {fn} {f} (s : State) : exec (.scmp core fn f) s = execScmp core fn f s := rfl
@[simp] theorem exec_scmpi {core} {fn} {f} (s : State) : exec (.scmpi core fn f) s = execScmpi core fn f s := rfl
@[simp] theorem exec_li {core} {f} (s : State) : exec (.li core f) s = execLi core f s := rfl
@[simp] theorem exec_lih {core} {f} (s : State) : exec (.lih core f) s = execLih core f s := rfl
@[simp] theorem exec_pand {t} {f} (s : State) : exec (.pand t f) s = execPand t f s := rfl
@[simp] theorem exec_por {t} {f} (s : State) : exec (.por t f) s = execPor t f s := rfl
@[simp] theorem exec_pxor {t} {f} (s : State) : exec (.pxor t f) s = execPxor t f s := rfl
@[simp] theorem exec_pandn {t} {f} (s : State) : exec (.pandn t f) s = execPandn t f s := rfl
@[simp] theorem exec_valu {g} {fn} {f} (s : State) : exec (.valu g fn f) s = execValu g fn f s := rfl
@[simp] theorem exec_valui {g} {fn} {f} (s : State) : exec (.valui g fn f) s = execValui g fn f s := rfl
@[simp] theorem exec_addp {g} {f} (s : State) : exec (.addp g f) s = execAddp g f s := rfl
@[simp] theorem exec_popc {g} {f} (s : State) : exec (.popc g f) s = execPopc g f s := rfl
@[simp] theorem exec_clz {g} {f} (s : State) : exec (.clz g f) s = execClz g f s := rfl
@[simp] theorem exec_fadd {g} {f} (s : State) : exec (.fadd g f) s = execFadd g f s := rfl
@[simp] theorem exec_fsub {g} {f} (s : State) : exec (.fsub g f) s = execFsub g f s := rfl
@[simp] theorem exec_fmul {g} {f} (s : State) : exec (.fmul g f) s = execFmul g f s := rfl
@[simp] theorem exec_fma {g} {f} (s : State) : exec (.fma g f) s = execFma g f s := rfl
@[simp] theorem exec_fmin {g} {f} (s : State) : exec (.fmin g f) s = execFmin g f s := rfl
@[simp] theorem exec_fmax {g} {f} (s : State) : exec (.fmax g f) s = execFmax g f s := rfl
@[simp] theorem exec_fabs {g} {f} (s : State) : exec (.fabs g f) s = execFabs g f s := rfl
@[simp] theorem exec_fneg {g} {f} (s : State) : exec (.fneg g f) s = execFneg g f s := rfl
@[simp] theorem exec_vcmp {g} {fn} {f} (s : State) : exec (.vcmp g fn f) s = execVcmp g fn f s := rfl
@[simp] theorem exec_vcmpFloat {g} {fn} {f} (s : State) : exec (.vcmpFloat g fn f) s = execVcmpFloat g fn f s := rfl
@[simp] theorem exec_cvt {g} {f} (s : State) : exec (.cvt g f) s = execCvt g f s := rfl
@[simp] theorem exec_rcp {g} {f} (s : State) : exec (.rcp g f) s = execRcp g f s := rfl
@[simp] theorem exec_rsq {g} {f} (s : State) : exec (.rsq g f) s = execRsq g f s := rfl
@[simp] theorem exec_sqrt {g} {f} (s : State) : exec (.sqrt g f) s = execSqrt g f s := rfl
@[simp] theorem exec_exp2 {g} {f} (s : State) : exec (.exp2 g f) s = execExp2 g f s := rfl
@[simp] theorem exec_log2 {g} {f} (s : State) : exec (.log2 g f) s = execLog2 g f s := rfl
@[simp] theorem exec_sinpi {g} {f} (s : State) : exec (.sinpi g f) s = execSinpi g f s := rfl
@[simp] theorem exec_cospi {g} {f} (s : State) : exec (.cospi g f) s = execCospi g f s := rfl
@[simp] theorem exec_vli {g} {f} (s : State) : exec (.vli g f) s = execVli g f s := rfl
@[simp] theorem exec_shfl {g} {f} (s : State) : exec (.shfl g f) s = execShfl g f s := rfl
@[simp] theorem exec_bcast {g} {f} (s : State) : exec (.bcast g f) s = execBcast g f s := rfl
@[simp] theorem exec_ballot {g} {f} (s : State) : exec (.ballot g f) s = execBallot g f s := rfl
@[simp] theorem exec_id {g} {f} (s : State) : exec (.id g f) s = execId g f s := rfl
@[simp] theorem exec_br {t} {f} (s : State) : exec (.br t f) s = execBr t f s := rfl
@[simp] theorem exec_bl {t} {f} (s : State) : exec (.bl t f) s = execBl t f s := rfl
@[simp] theorem exec_jr {t} {f} (s : State) : exec (.jr t f) s = execJr t f s := rfl
@[simp] theorem exec_jlr {t} {f} (s : State) : exec (.jlr t f) s = execJlr t f s := rfl
@[simp] theorem exec_exit {t} {f} (s : State) : exec (.exit t f) s = execExit t f s := rfl
@[simp] theorem exec_ld {t} {f} (s : State) : exec (.ld t f) s = execLd t f s := rfl
@[simp] theorem exec_st {t} {f} (s : State) : exec (.st t f) s = execSt t f s := rfl
@[simp] theorem exec_ldAcq {t} {f} (s : State) : exec (.ldAcq t f) s = execLdAcq t f s := rfl
@[simp] theorem exec_stRel {t} {f} (s : State) : exec (.stRel t f) s = execStRel t f s := rfl
@[simp] theorem exec_atomAdd {t} {f} (s : State) : exec (.atomAdd t f) s = execAtomAdd t f s := rfl
@[simp] theorem exec_atomMin {t} {f} (s : State) : exec (.atomMin t f) s = execAtomMin t f s := rfl
@[simp] theorem exec_atomMax {t} {f} (s : State) : exec (.atomMax t f) s = execAtomMax t f s := rfl
@[simp] theorem exec_atomMinu {t} {f} (s : State) : exec (.atomMinu t f) s = execAtomMinu t f s := rfl
@[simp] theorem exec_atomMaxu {t} {f} (s : State) : exec (.atomMaxu t f) s = execAtomMaxu t f s := rfl
@[simp] theorem exec_atomAnd {t} {f} (s : State) : exec (.atomAnd t f) s = execAtomAnd t f s := rfl
@[simp] theorem exec_atomOr {t} {f} (s : State) : exec (.atomOr t f) s = execAtomOr t f s := rfl
@[simp] theorem exec_atomXor {t} {f} (s : State) : exec (.atomXor t f) s = execAtomXor t f s := rfl
@[simp] theorem exec_atomXchg {t} {f} (s : State) : exec (.atomXchg t f) s = execAtomXchg t f s := rfl
@[simp] theorem exec_atomCas {t} {f} (s : State) : exec (.atomCas t f) s = execAtomCas t f s := rfl
@[simp] theorem exec_atomFadd {t} {f} (s : State) : exec (.atomFadd t f) s = execAtomFadd t f s := rfl
@[simp] theorem exec_ordL {t} {f} (s : State) : exec (.ordL t f) s = execOrdL t f s := rfl
@[simp] theorem exec_ordS {t} {f} (s : State) : exec (.ordS t f) s = execOrdS t f s := rfl
@[simp] theorem exec_ordLs {t} {f} (s : State) : exec (.ordLs t f) s = execOrdLs t f s := rfl
@[simp] theorem exec_cwb {t} {f} (s : State) : exec (.cwb t f) s = execCwb t f s := rfl
@[simp] theorem exec_cinv {t} {f} (s : State) : exec (.cinv t f) s = execCinv t f s := rfl
@[simp] theorem exec_cwbi {t} {f} (s : State) : exec (.cwbi t f) s = execCwbi t f s := rfl
@[simp] theorem exec_hot {t} {f} (s : State) : exec (.hot t f) s = execHot t f s := rfl
@[simp] theorem exec_cold {t} {f} (s : State) : exec (.cold t f) s = execCold t f s := rfl
@[simp] theorem exec_willNeed {t} {f} (s : State) : exec (.willNeed t f) s = execWillNeed t f s := rfl
@[simp] theorem exec_dontNeed {t} {f} (s : State) : exec (.dontNeed t f) s = execDontNeed t f s := rfl
@[simp] theorem exec_tierShelf {t} {f} (s : State) : exec (.tierShelf t f) s = execTierShelf t f s := rfl
@[simp] theorem exec_tierHbm {t} {f} (s : State) : exec (.tierHbm t f) s = execTierHbm t f s := rfl
@[simp] theorem exec_tierBulk {t} {f} (s : State) : exec (.tierBulk t f) s = execTierBulk t f s := rfl
@[simp] theorem exec_tierRemote {t} {f} (s : State) : exec (.tierRemote t f) s = execTierRemote t f s := rfl
@[simp] theorem exec_pin {t} {f} (s : State) : exec (.pin t f) s = execPin t f s := rfl
@[simp] theorem exec_unpin {t} {f} (s : State) : exec (.unpin t f) s = execUnpin t f s := rfl
@[simp] theorem exec_near {t} {f} (s : State) : exec (.near t f) s = execNear t f s := rfl
@[simp] theorem exec_hintProcess {n} (s : State) : exec (.hintProcess n) s = execHintProcess n s := rfl
@[simp] theorem exec_syncG {g} {f} (s : State) : exec (.syncG g f) s = execSyncG g f s := rfl
@[simp] theorem exec_syncB {g} {f} (s : State) : exec (.syncB g f) s = execSyncB g f s := rfl
@[simp] theorem exec_semSig {t} {f} (s : State) : exec (.semSig t f) s = execSemSig t f s := rfl
@[simp] theorem exec_semWait {t} {f} (s : State) : exec (.semWait t f) s = execSemWait t f s := rfl
@[simp] theorem exec_semTry {t} {f} (s : State) : exec (.semTry t f) s = execSemTry t f s := rfl
@[simp] theorem exec_nsemSig {t} {f} (s : State) : exec (.nsemSig t f) s = execNsemSig t f s := rfl
@[simp] theorem exec_nsemWait {t} {f} (s : State) : exec (.nsemWait t f) s = execNsemWait t f s := rfl
@[simp] theorem exec_nsemTry {t} {f} (s : State) : exec (.nsemTry t f) s = execNsemTry t f s := rfl
@[simp] theorem exec_mxi {core} {f} (s : State) : exec (.mxi core f) s = execMxi core f s := rfl
@[simp] theorem exec_dmai {core} {f} (s : State) : exec (.dmai core f) s = execDmai core f s := rfl
@[simp] theorem exec_qcvt {g} {f} (s : State) : exec (.qcvt g f) s = execQcvt g f s := rfl
@[simp] theorem exec_qst {g} {f} (s : State) : exec (.qst g f) s = execQst g f s := rfl
@[simp] theorem exec_tlr {t} {f} (s : State) : exec (.tlr t f) s = execTlr t f s := rfl
@[simp] theorem exec_flgr {t} {f} (s : State) : exec (.flgr t f) s = execFlgr t f s := rfl
@[simp] theorem exec_flgc {t} {f} (s : State) : exec (.flgc t f) s = execFlgc t f s := rfl
@[simp] theorem exec_cyc {t} {f} (s : State) : exec (.cyc t f) s = execCyc t f s := rfl
@[simp] theorem exec_brk {t} {f} (s : State) : exec (.brk t f) s = execBrk t f s := rfl
@[simp] theorem exec_storeBufferDrain {core} {ve} {idx} (s : State) : exec (.storeBufferDrain core ve idx) s = execStoreBufferDrain core ve idx s := rfl
@[simp] theorem exec_storeAck {core} {idx} (s : State) : exec (.storeAck core idx) s = execStoreAck core idx s := rfl
@[simp] theorem exec_loadResponse {core} {idx} (s : State) : exec (.loadResponse core idx) s = execLoadResponse core idx s := rfl
@[simp] theorem exec_translationWalk {core} {e} {slot} {va} {k} (s : State) : exec (.translationWalk core e slot va k) s = execTranslationWalk core e slot va k s := rfl
@[simp] theorem exec_multiply {core} (s : State) : exec (.multiply core) s = execMultiply core s := rfl
@[simp] theorem exec_drain {core} (s : State) : exec (.drain core) s = execDrain core s := rfl
@[simp] theorem exec_flags {core} (s : State) : exec (.flags core) s = execFlags core s := rfl
@[simp] theorem exec_spill {core} (s : State) : exec (.spill core) s = execSpill core s := rfl
@[simp] theorem exec_resume {core} (s : State) : exec (.resume core) s = execResume core s := rfl
@[simp] theorem exec_weightLoadDone {core} (s : State) : exec (.weightLoadDone core) s = execWeightLoadDone core s := rfl
@[simp] theorem exec_drainRowWrite {core} (s : State) : exec (.drainRowWrite core) s = execDrainRowWrite core s := rfl
@[simp] theorem exec_meCommandComplete {core} (s : State) : exec (.meCommandComplete core) s = execMeCommandComplete core s := rfl
@[simp] theorem exec_list {core} (s : State) : exec (.list core) s = execList core s := rfl
@[simp] theorem exec_contrib {core} (s : State) : exec (.contrib core) s = execContrib core s := rfl
@[simp] theorem exec_blockStart {core} (s : State) : exec (.blockStart core) s = execBlockStart core s := rfl
@[simp] theorem exec_blockPerformed {core} {idx} (s : State) : exec (.blockPerformed core idx) s = execBlockPerformed core idx s := rfl
@[simp] theorem exec_lateData {core} (s : State) : exec (.lateData core) s = execLateData core s := rfl
@[simp] theorem exec_armatureAdd {red} {lo} {hi} (s : State) : exec (.armatureAdd red lo hi) s = execArmatureAdd red lo hi s := rfl
@[simp] theorem exec_pageBacking {n} {va} (s : State) : exec (.pageBacking n va) s = execPageBacking n va s := rfl
@[simp] theorem exec_epochEnd (s : State) : exec (.epochEnd) s = execEpochEnd s := rfl
@[simp] theorem exec_migrationComplete {idx} (s : State) : exec (.migrationComplete idx) s = execMigrationComplete idx s := rfl
@[simp] theorem exec_nplShoot {a} {n} {v} (s : State) : exec (.nplShoot a n v) s = execNplShoot a n v s := rfl
@[simp] theorem exec_shootdownDone {n} (s : State) : exec (.shootdownDone n) s = execShootdownDone n s := rfl
@[simp] theorem exec_nplConfigWrite {a} {n} {reg} {v} (s : State) : exec (.nplConfigWrite a n reg v) s = execNplConfigWrite a n reg v s := rfl
@[simp] theorem exec_nsemCountWrite {a} {n} {k} {v} (s : State) : exec (.nsemCountWrite a n k v) s = execNsemCountWrite a n k v s := rfl
@[simp] theorem exec_doorbell {a} {q} {tail} (s : State) : exec (.doorbell a q tail) s = execDoorbell a q tail s := rfl
@[simp] theorem exec_nop {q} (s : State) : exec (.nop q) s = execNop q s := rfl
@[simp] theorem exec_install {q} (s : State) : exec (.install q) s = execInstall q s := rfl
@[simp] theorem exec_launch {q} (s : State) : exec (.launch q) s = execLaunch q s := rfl
@[simp] theorem exec_patch {q} (s : State) : exec (.patch q) s = execPatch q s := rfl
@[simp] theorem exec_abort {q} (s : State) : exec (.abort q) s = execAbort q s := rfl
@[simp] theorem exec_fenceWait {q} (s : State) : exec (.fenceWait q) s = execFenceWait q s := rfl
@[simp] theorem exec_fenceSignal {q} (s : State) : exec (.fenceSignal q) s = execFenceSignal q s := rfl
@[simp] theorem exec_remove {q} (s : State) : exec (.remove q) s = execRemove q s := rfl
@[simp] theorem exec_nodeRelease {l} {node} (s : State) : exec (.nodeRelease l node) s = execNodeRelease l node s := rfl
@[simp] theorem exec_engineEntryWrite {l} {node} {rank} {e} (s : State) : exec (.engineEntryWrite l node rank e) s = execEngineEntryWrite l node rank e s := rfl
@[simp] theorem exec_nodeComplete {l} {node} (s : State) : exec (.nodeComplete l node) s = execNodeComplete l node s := rfl
@[simp] theorem exec_entryFinal {q} {seq} (s : State) : exec (.entryFinal q seq) s = execEntryFinal q seq s := rfl
@[simp] theorem exec_fenceCycle {n} (s : State) : exec (.fenceCycle n) s = execFenceCycle n s := rfl
@[simp] theorem exec_fenceTimeout {q} (s : State) : exec (.fenceTimeout q) s = execFenceTimeout q s := rfl
@[simp] theorem exec_feFenceWrite {a} {n} {fence} {v} (s : State) : exec (.feFenceWrite a n fence v) s = execFeFenceWrite a n fence v s := rfl
@[simp] theorem exec_queueEnable {a} {q} {v} (s : State) : exec (.queueEnable a q v) s = execQueueEnable a q v s := rfl
@[simp] theorem exec_queueDisable {a} {q} (s : State) : exec (.queueDisable a q) s = execQueueDisable a q s := rfl
@[simp] theorem exec_queueResume {a} {q} (s : State) : exec (.queueResume a q) s = execQueueResume a q s := rfl
@[simp] theorem exec_queueReset {a} {q} (s : State) : exec (.queueReset a q) s = execQueueReset a q s := rfl
@[simp] theorem exec_nicheGrantWrite {a} {n} {v} (s : State) : exec (.nicheGrantWrite a n v) s = execNicheGrantWrite a n v s := rfl
@[simp] theorem exec_nicheControlWrite {a} {ofQueue} {idx} {v} (s : State) : exec (.nicheControlWrite a ofQueue idx v) s = execNicheControlWrite a ofQueue idx v s := rfl
@[simp] theorem exec_grantClear {a} {n} {v} (s : State) : exec (.grantClear a n v) s = execGrantClear a n v s := rfl
@[simp] theorem exec_grantClearDone {n} (s : State) : exec (.grantClearDone n) s = execGrantClearDone n s := rfl
@[simp] theorem exec_contextPlace {region} {n} {ctx} (s : State) : exec (.contextPlace region n ctx) s = execContextPlace region n ctx s := rfl
@[simp] theorem exec_sliceEnd {region} (s : State) : exec (.sliceEnd region) s = execSliceEnd region s := rfl
@[simp] theorem exec_saveComplete {region} (s : State) : exec (.saveComplete region) s = execSaveComplete region s := rfl
@[simp] theorem exec_restore {region} (s : State) : exec (.restore region) s = execRestore region s := rfl
@[simp] theorem exec_suspend {a} {n} {ctx} (s : State) : exec (.suspend a n ctx) s = execSuspend a n ctx s := rfl
@[simp] theorem exec_hello {port} {h} (s : State) : exec (.hello port h) s = execHello port h s := rfl
@[simp] theorem exec_credit {port} {n} {channel} {sys} {dl} {units} (s : State) : exec (.credit port n channel sys dl units) s = execCredit port n channel sys dl units s := rfl
@[simp] theorem exec_replay {port} {seq} (s : State) : exec (.replay port seq) s = execReplay port seq s := rfl
@[simp] theorem exec_time {port} {t1} {t2} {t3} {t4} (s : State) : exec (.time port t1 t2 t3 t4) s = execTime port t1 t2 t3 t4 s := rfl
@[simp] theorem exec_book {port} {idx} {dir} {n} {channel} {valid} (s : State) : exec (.book port idx dir n channel valid) s = execBook port idx dir n channel valid s := rfl
@[simp] theorem exec_flitReject {port} (s : State) : exec (.flitReject port) s = execFlitReject port s := rfl
@[simp] theorem exec_retrainDone {port} {ok} (s : State) : exec (.retrainDone port ok) s = execRetrainDone port ok s := rfl
@[simp] theorem exec_portEnable {a} {port} {v} (s : State) : exec (.portEnable a port v) s = execPortEnable a port v s := rfl
@[simp] theorem exec_portRetrain {a} {port} (s : State) : exec (.portRetrain a port) s = execPortRetrain a port s := rfl
@[simp] theorem exec_read {port} {p} (s : State) : exec (.read port p) s = execRead port p s := rfl
@[simp] theorem exec_write {port} {p} (s : State) : exec (.write port p) s = execWrite port p s := rfl
@[simp] theorem exec_atomic {port} {p} (s : State) : exec (.atomic port p) s = execAtomic port p s := rfl
@[simp] theorem exec_resp {port} {p} (s : State) : exec (.resp port p) s = execResp port p s := rfl
@[simp] theorem exec_ack {port} {p} (s : State) : exec (.ack port p) s = execAck port p s := rfl
@[simp] theorem exec_contribPacket {port} {p} (s : State) : exec (.contribPacket port p) s = execContribPacket port p s := rfl
@[simp] theorem exec_fence {port} {p} (s : State) : exec (.fence port p) s = execFence port p s := rfl
@[simp] theorem exec_lease {port} {p} (s : State) : exec (.lease port p) s = execLease port p s := rfl
@[simp] theorem exec_assign {port} {p} (s : State) : exec (.assign port p) s = execAssign port p s := rfl
@[simp] theorem exec_channelReclaim {port} {n} {channel} (s : State) : exec (.channelReclaim port n channel) s = execChannelReclaim port n channel s := rfl
@[simp] theorem exec_deviceDead {dev} (s : State) : exec (.deviceDead dev) s = execDeviceDead dev s := rfl
@[simp] theorem exec_trIdWrite {a} {v} (s : State) : exec (.trIdWrite a v) s = execTrIdWrite a v s := rfl
@[simp] theorem exec_routeConfigWrite {a} {which} {dev} {v} (s : State) : exec (.routeConfigWrite a which dev v) s = execRouteConfigWrite a which dev v s := rfl
@[simp] theorem exec_qclTraining {peerMin} {peerMax} (s : State) : exec (.qclTraining peerMin peerMax) s = execQclTraining peerMin peerMax s := rfl
@[simp] theorem exec_qclReplay (s : State) : exec (.qclReplay) s = execQclReplay s := rfl
@[simp] theorem exec_qclRetrain {requested} {ok} (s : State) : exec (.qclRetrain requested ok) s = execQclRetrain requested ok s := rfl
@[simp] theorem exec_hostAccess {func} {aperture} {off} {bytes} {wr} (s : State) : exec (.hostAccess func aperture off bytes wr) s = execHostAccess func aperture off bytes wr s := rfl
@[simp] theorem exec_hostLineRequest {line} {excl} (s : State) : exec (.hostLineRequest line excl) s = execHostLineRequest line excl s := rfl
@[simp] theorem exec_hostWriteback {line} {data} (s : State) : exec (.hostWriteback line data) s = execHostWriteback line data s := rfl
@[simp] theorem exec_recallTimeout {line} (s : State) : exec (.recallTimeout line) s = execRecallTimeout line s := rfl
@[simp] theorem exec_msgUnmask {a} {m} {v} (s : State) : exec (.msgUnmask a m v) s = execMsgUnmask a m v s := rfl
@[simp] theorem exec_qclWinWrite {a} {w} {v} (s : State) : exec (.qclWinWrite a w v) s = execQclWinWrite a w v s := rfl
@[simp] theorem exec_getVersion (s : State) : exec (.getVersion) s = execGetVersion s := rfl
@[simp] theorem exec_getCapabilities (s : State) : exec (.getCapabilities) s = execGetCapabilities s := rfl
@[simp] theorem exec_negotiateAlgorithms (s : State) : exec (.negotiateAlgorithms) s = execNegotiateAlgorithms s := rfl
@[simp] theorem exec_getDigests (s : State) : exec (.getDigests) s = execGetDigests s := rfl
@[simp] theorem exec_getCertificate (s : State) : exec (.getCertificate) s = execGetCertificate s := rfl
@[simp] theorem exec_challenge (s : State) : exec (.challenge) s = execChallenge s := rfl
@[simp] theorem exec_getMeasurements (s : State) : exec (.getMeasurements) s = execGetMeasurements s := rfl
@[simp] theorem exec_deviceFatalRecovery {cause} {dimms} (s : State) : exec (.deviceFatalRecovery cause dimms) s = execDeviceFatalRecovery cause dimms s := rfl
@[simp] theorem exec_firmwareWatchdog (s : State) : exec (.firmwareWatchdog) s = execFirmwareWatchdog s := rfl
@[simp] theorem exec_regulatorFault {region} (s : State) : exec (.regulatorFault region) s = execRegulatorFault region s := rfl
@[simp] theorem exec_errRelease {a} {v} (s : State) : exec (.errRelease a v) s = execErrRelease a v s := rfl
@[simp] theorem exec_errorInject {a} {v} (s : State) : exec (.errorInject a v) s = execErrorInject a v s := rfl
@[simp] theorem exec_patinaSecond {p} (s : State) : exec (.patinaSecond p) s = execPatinaSecond p s := rfl
@[simp] theorem exec_marginProbe {region} {p} (s : State) : exec (.marginProbe region p) s = execMarginProbe region p s := rfl
@[simp] theorem exec_lifetimeSet (s : State) : exec (.lifetimeSet) s = execLifetimeSet s := rfl
@[simp] theorem exec_shutdownReq {a} (s : State) : exec (.shutdownReq a) s = execShutdownReq a s := rfl
@[simp] theorem exec_journalFault {status} (s : State) : exec (.journalFault status) s = execJournalFault status s := rfl
@[simp] theorem exec_patinaReadLatest {smb} (s : State) : exec (.patinaReadLatest smb) s = execPatinaReadLatest smb s := rfl
@[simp] theorem exec_patinaReadBySeq {smb} (s : State) : exec (.patinaReadBySeq smb) s = execPatinaReadBySeq smb s := rfl
@[simp] theorem exec_patinaReadLive {smb} (s : State) : exec (.patinaReadLive smb) s = execPatinaReadLive smb s := rfl
@[simp] theorem exec_smbusSelect {d} {seq} (s : State) : exec (.smbusSelect d seq) s = execSmbusSelect d seq s := rfl
@[simp] theorem exec_smbusStatus (s : State) : exec (.smbusStatus) s = execSmbusStatus s := rfl
@[simp] theorem exec_smbusReadChunk {off} (s : State) : exec (.smbusReadChunk off) s = execSmbusReadChunk off s := rfl
@[simp] theorem exec_friezeArm {a} {region} {v} (s : State) : exec (.friezeArm a region v) s = execFriezeArm a region v s := rfl
@[simp] theorem exec_frzTriggerWrite {a} {v} (s : State) : exec (.frzTriggerWrite a v) s = execFrzTriggerWrite a v s := rfl
@[simp] theorem exec_trigTick {region} (s : State) : exec (.trigTick region) s = execTrigTick region s := rfl
@[simp] theorem exec_sinkCopy {region} (s : State) : exec (.sinkCopy region) s = execSinkCopy region s := rfl
@[simp] theorem exec_timeSync {region} (s : State) : exec (.timeSync region) s = execTimeSync region s := rfl
@[simp] theorem exec_perstNDeassert {p} (s : State) : exec (.perstNDeassert p) s = execPerstNDeassert p s := rfl
@[simp] theorem exec_perstNAssert (s : State) : exec (.perstNAssert) s = execPerstNAssert s := rfl
@[simp] theorem exec_supplyFault {rail} {mv} {ns} (s : State) : exec (.supplyFault rail mv ns) s = execSupplyFault rail mv ns s := rfl
@[simp] theorem exec_version (s : State) : exec (.version) s = execVersion s := rfl
@[simp] theorem exec_claim (s : State) : exec (.claim) s = execClaim s := rfl
@[simp] theorem exec_release (s : State) : exec (.release) s = execRelease s := rfl
@[simp] theorem exec_reset {dimms} (s : State) : exec (.reset dimms) s = execReset dimms s := rfl
@[simp] theorem exec_flashWrite (s : State) : exec (.flashWrite) s = execFlashWrite s := rfl
@[simp] theorem exec_setBoot (s : State) : exec (.setBoot) s = execSetBoot s := rfl
@[simp] theorem exec_confirm (s : State) : exec (.confirm) s = execConfirm s := rfl
@[simp] theorem exec_commitSvn (s : State) : exec (.commitSvn) s = execCommitSvn s := rfl
@[simp] theorem exec_powerCap (s : State) : exec (.powerCap) s = execPowerCap s := rfl
@[simp] theorem exec_getCert (s : State) : exec (.getCert) s = execGetCert s := rfl
@[simp] theorem exec_powerCapControl {watts} (s : State) : exec (.powerCapControl watts) s = execPowerCapControl watts s := rfl
@[simp] theorem exec_thermalControl {region} {temp} (s : State) : exec (.thermalControl region temp) s = execThermalControl region temp s := rfl
@[simp] theorem exec_thermalTrip (s : State) : exec (.thermalTrip) s = execThermalTrip s := rfl
@[simp] theorem exec_hbmRepair {stack} {row} (s : State) : exec (.hbmRepair stack row) s = execHbmRepair stack row s := rfl
@[simp] theorem exec_memoryPatrolScrub {pa} {f} (s : State) : exec (.memoryPatrolScrub pa f) s = execMemoryPatrolScrub pa f s := rfl
@[simp] theorem exec_meshFlitReject {link} {again} (s : State) : exec (.meshFlitReject link again) s = execMeshFlitReject link again s := rfl
@[simp] theorem exec_flitAccept {port} {seq} {ack} (s : State) : exec (.flitAccept port seq ack) s = execFlitAccept port seq ack s := rfl
@[simp] theorem exec_hostRecallAnswer {line} (s : State) : exec (.hostRecallAnswer line) s = execHostRecallAnswer line s := rfl
@[simp] theorem exec_restoreComplete {region} (s : State) : exec (.restoreComplete region) s = execRestoreComplete region s := rfl
@[simp] theorem exec_journalFaultCleared (s : State) : exec (.journalFaultCleared) s = execJournalFaultCleared s := rfl
@[simp] theorem exec_smbusAlertResponse (s : State) : exec (.smbusAlertResponse) s = execSmbusAlertResponse s := rfl
@[simp] theorem exec_reservedOpcode {q} (s : State) : exec (.reservedOpcode q) s = execReservedOpcode q s := rfl
@[simp] theorem exec_reservedCommandKind {core} {de} (s : State) : exec (.reservedCommandKind core de) s = execReservedCommandKind core de s := rfl

end Sys2Proof.Machine
end

