-- ==== Sys2Proof/Laws/Sparse.lean ====
section
/-! SUPPORT. Finite maps and lists of numbers: a read after a write, and what rising keys keep. -/

namespace Sys2Proof.Machine

/-- A read of the key just written. -/
@[simp] theorem Sparse.find_put_same {α : Type} (m : Sparse α) (i : Nat) (x : α) : Sparse.find (Sparse.put m i x) i = some x := by
  induction m with
  | nil => simp [Sparse.put, Sparse.find]
  | cons p m ih =>
    obtain ⟨k, v⟩ := p
    by_cases h : i = k
    · simp [Sparse.put, Sparse.find, h]
    · by_cases h2 : i < k
      · simp [Sparse.put, Sparse.find, h, h2]
      · simp [Sparse.put, Sparse.find, h, h2, ih]

/-- A read of another key. -/
theorem Sparse.find_put_other {α : Type} (m : Sparse α) (i j : Nat) (x : α) (h : j ≠ i) :
    Sparse.find (Sparse.put m i x) j = Sparse.find m j := by
  induction m with
  | nil => simp [Sparse.put, Sparse.find, h]
  | cons p m ih =>
    obtain ⟨k, v⟩ := p
    rcases Nat.lt_trichotomy i k with h1 | h1 | h1
    · have h2 : ¬ i = k := by omega
      simp only [Sparse.put, if_neg h2, if_pos h1, Sparse.find]
      by_cases h3 : j < i
      · have : ¬ j = k := by omega
        have h4 : j < k := by omega
        simp [h, h3, h4, this]
      · simp [h, h3]
    · subst h1
      simp only [Sparse.put, Sparse.find, if_true, if_neg h]
    · have h2 : ¬ i = k := by omega
      have h3 : ¬ i < k := by omega
      simp only [Sparse.put, if_neg h2, if_neg h3, Sparse.find, ih]

@[simp] theorem Sparse.getD_put_same {α : Type} (m : Sparse α) (i : Nat) (x d : α) : Sparse.getD (Sparse.put m i x) i d = x := by
  simp [Sparse.getD]

theorem Sparse.getD_put_other {α : Type} (m : Sparse α) (i j : Nat) (x d : α) (h : j ≠ i) :
    Sparse.getD (Sparse.put m i x) j d = Sparse.getD m j d := by
  simp [Sparse.getD, Sparse.find_put_other m i j x h]

/-- What a read finds is a member. -/
theorem Sparse.mem_of_find {α : Type} {m : Sparse α} {i : Nat} {x : α} (h : Sparse.find m i = some x) : (i, x) ∈ m := by
  induction m with
  | nil => simp [Sparse.find] at h
  | cons p m ih =>
    obtain ⟨k, v⟩ := p
    simp only [Sparse.find] at h
    split at h
    · cases h; simp_all
    · split at h
      · cases h
      · exact List.mem_cons_of_mem _ (ih h)

/-- The members of a map after a write: the pair written, or old members. -/
theorem Sparse.mem_put {α : Type} {m : Sparse α} {i : Nat} {x : α} {p : Nat × α} (h : p ∈ Sparse.put m i x) : p = (i, x) ∨ p ∈ m := by
  induction m with
  | nil => simp [Sparse.put] at h; exact .inl h
  | cons q m ih =>
    obtain ⟨k, v⟩ := q
    simp only [Sparse.put] at h
    split at h
    · rcases List.mem_cons.1 h with h | h
      · exact .inl h
      · exact .inr (List.mem_cons_of_mem _ h)
    · split at h
      · rcases List.mem_cons.1 h with h | h
        · exact .inl h
        · exact .inr h
      · rcases List.mem_cons.1 h with h | h
        · exact .inr (h ▸ List.mem_cons_self)
        · rcases ih h with h | h
          · exact .inl h
          · exact .inr (List.mem_cons_of_mem _ h)

/-- Rising keys, as a relation between every two entries. -/
theorem Sparse.rising_iff {α : Type} (m : Sparse α) : Sparse.rising m = true ↔ m.Pairwise (fun p q => p.1 < q.1) := by
  induction m with
  | nil => simp [Sparse.rising]
  | cons p m ih =>
    cases m with
    | nil => simp [Sparse.rising]
    | cons q m =>
      simp only [Sparse.rising, Bool.and_eq_true, decide_eq_true_eq, ih]
      constructor
      · rintro ⟨h1, h2⟩
        refine List.pairwise_cons.2 ⟨?_, h2⟩
        intro r hr
        rcases List.mem_cons.1 hr with rfl | hr
        · exact h1
        · exact Nat.lt_trans h1 ((List.pairwise_cons.1 h2).1 r hr)
      · intro h
        have h' := List.pairwise_cons.1 h
        exact ⟨h'.1 q (List.mem_cons_self), h'.2⟩

/-- A write keeps the keys rising. -/
theorem Sparse.rising_put {α : Type} (m : Sparse α) (i : Nat) (x : α) (h : Sparse.rising m = true) : Sparse.rising (Sparse.put m i x) = true := by
  rw [Sparse.rising_iff] at h ⊢
  induction m with
  | nil => simp [Sparse.put]
  | cons p m ih =>
    obtain ⟨k, v⟩ := p
    obtain ⟨h1, h2⟩ := List.pairwise_cons.1 h
    simp only [Sparse.put]
    split
    · rename_i e; subst e
      exact List.pairwise_cons.2 ⟨fun q hq => h1 q hq, h2⟩
    · split
      · rename_i hlt
        refine List.pairwise_cons.2 ⟨?_, h⟩
        intro q hq
        rcases List.mem_cons.1 hq with rfl | hq
        · exact hlt
        · exact Nat.lt_trans hlt (h1 q hq)
      · rename_i hne hlt
        refine List.pairwise_cons.2 ⟨?_, ih h2⟩
        intro q hq
        rcases Sparse.mem_put hq with rfl | hq
        · simp only; omega
        · exact h1 q hq

/-- Fewer entries keep the keys rising. -/
theorem Sparse.rising_filter {α : Type} (m : Sparse α) (p : Nat × α → Bool) (h : Sparse.rising m = true) : Sparse.rising (m.filter p) = true := by
  rw [Sparse.rising_iff] at h ⊢
  exact h.filter p

/-- Removal from a rising list is a filter. -/
theorem cellsDel_eq (m : List Host.Cell) (i : Nat) (h : Sparse.rising m = true) : cellsDel m i = m.filter (fun p => p.1 != i) := by
  rw [Sparse.rising_iff] at h
  induction m with
  | nil => simp [cellsDel]
  | cons p m ih =>
    obtain ⟨k, v⟩ := p
    obtain ⟨h1, h2⟩ := List.pairwise_cons.1 h
    have keep : ∀ (l : List Host.Cell), (∀ q ∈ l, i < q.1) → l.filter (fun p => p.1 != i) = l := by
      intro l hl
      apply List.filter_eq_self.2
      intro q hq
      have := hl q hq
      simp; omega
    simp only [cellsDel]
    split
    · rename_i e; subst e
      simp [keep m (fun q hq => h1 q hq)]
    · split
      · rename_i hne hlt
        rw [keep]
        intro q hq
        rcases List.mem_cons.1 hq with rfl | hq
        · exact hlt
        · exact Nat.lt_trans hlt (h1 q hq)
      · rename_i hne hlt
        have : (k != i) = true := by simp; omega
        simp [this, ih h2]

end Sys2Proof.Machine
end

