-- ==== Sys2Proof/Laws/State.lean ====
section
/-! SUPPORT. What each update of the state leaves and what it makes, field by field. -/

namespace Sys2Proof.Machine

variable (s : State)

/-! ### setCore -/

@[simp] theorem State.setCore_pending (c : CoreNum) (k : Core) : (s.setCore c k).pending = s.pending := rfl
@[simp] theorem State.setCore_fresh (c : CoreNum) (k : Core) : (s.setCore c k).fresh = s.fresh := rfl
@[simp] theorem State.setCore_order (c : CoreNum) (k : Core) : (s.setCore c k).order = s.order := rfl
@[simp] theorem State.setCore_ns (c : CoreNum) (k : Core) : (s.setCore c k).ns = s.ns := rfl
@[simp] theorem State.setCore_disc (c : CoreNum) (k : Core) : (s.setCore c k).disc = s.disc := rfl
@[simp] theorem State.setCore_tl (c : CoreNum) (k : Core) : (s.setCore c k).tl = s.tl := rfl
@[simp] theorem State.setCore_mem (c : CoreNum) (k : Core) : (s.setCore c k).mem = s.mem := rfl
@[simp] theorem State.setCore_hostMem (c : CoreNum) (k : Core) : (s.setCore c k).hostMem = s.hostMem := rfl
@[simp] theorem State.setCore_regions (c : CoreNum) (k : Core) : (s.setCore c k).regions = s.regions := rfl
@[simp] theorem State.setCore_niches (c : CoreNum) (k : Core) : (s.setCore c k).niches = s.niches := rfl
@[simp] theorem State.setCore_place (c : CoreNum) (k : Core) : (s.setCore c k).place = s.place := rfl
@[simp] theorem State.setCore_saved (c : CoreNum) (k : Core) : (s.setCore c k).saved = s.saved := rfl
@[simp] theorem State.setCore_rels (c : CoreNum) (k : Core) : (s.setCore c k).rels = s.rels := rfl
@[simp] theorem State.setCore_fe (c : CoreNum) (k : Core) : (s.setCore c k).fe = s.fe := rfl
@[simp] theorem State.setCore_tr (c : CoreNum) (k : Core) : (s.setCore c k).tr = s.tr := rfl
@[simp] theorem State.setCore_qcl (c : CoreNum) (k : Core) : (s.setCore c k).qcl = s.qcl := rfl
@[simp] theorem State.setCore_err (c : CoreNum) (k : Core) : (s.setCore c k).err = s.err := rfl
@[simp] theorem State.setCore_pat (c : CoreNum) (k : Core) : (s.setCore c k).pat = s.pat := rfl
@[simp] theorem State.setCore_boot (c : CoreNum) (k : Core) : (s.setCore c k).boot = s.boot := rfl
@[simp] theorem State.setCore_pins (c : CoreNum) (k : Core) : (s.setCore c k).pins = s.pins := rfl
@[simp] theorem State.setCore_frzCap (c : CoreNum) (k : Core) : (s.setCore c k).frzCap = s.frzCap := rfl
@[simp] theorem State.setCore_counters (c : CoreNum) (k : Core) : (s.setCore c k).counters = s.counters := rfl
@[simp] theorem State.setCore_regionOf (c : CoreNum) (k : Core) (r' : RegionNum) : (s.setCore c k).region r' = s.region r' := rfl
@[simp] theorem State.setCore_nicheOf (c : CoreNum) (k : Core) (n' : NicheNum) : (s.setCore c k).niche n' = s.niche n' := rfl
@[simp] theorem State.setCore_queueOf (c : CoreNum) (k : Core) (q' : QueueNum) : (s.setCore c k).queue q' = s.queue q' := rfl
@[simp] theorem State.setCore_launchOf (c : CoreNum) (k : Core) (l' : Nat) : (s.setCore c k).launch? l' = s.launch? l' := rfl
@[simp] theorem State.setCore_maqOf (c : CoreNum) (k : Core) (n' : NicheNum) (m' : BitVec 12) : (s.setCore c k).maq? n' m' = s.maq? n' m' := rfl
@[simp] theorem State.setCore_portOf (c : CoreNum) (k : Core) (p' : PortNum) : (s.setCore c k).port p' = s.port p' := rfl

/-! ### updCore -/

@[simp] theorem State.updCore_pending (c : CoreNum) (f : Core → Core) : (s.updCore c f).pending = s.pending := rfl
@[simp] theorem State.updCore_fresh (c : CoreNum) (f : Core → Core) : (s.updCore c f).fresh = s.fresh := rfl
@[simp] theorem State.updCore_order (c : CoreNum) (f : Core → Core) : (s.updCore c f).order = s.order := rfl
@[simp] theorem State.updCore_ns (c : CoreNum) (f : Core → Core) : (s.updCore c f).ns = s.ns := rfl
@[simp] theorem State.updCore_disc (c : CoreNum) (f : Core → Core) : (s.updCore c f).disc = s.disc := rfl
@[simp] theorem State.updCore_tl (c : CoreNum) (f : Core → Core) : (s.updCore c f).tl = s.tl := rfl
@[simp] theorem State.updCore_mem (c : CoreNum) (f : Core → Core) : (s.updCore c f).mem = s.mem := rfl
@[simp] theorem State.updCore_hostMem (c : CoreNum) (f : Core → Core) : (s.updCore c f).hostMem = s.hostMem := rfl
@[simp] theorem State.updCore_regions (c : CoreNum) (f : Core → Core) : (s.updCore c f).regions = s.regions := rfl
@[simp] theorem State.updCore_niches (c : CoreNum) (f : Core → Core) : (s.updCore c f).niches = s.niches := rfl
@[simp] theorem State.updCore_place (c : CoreNum) (f : Core → Core) : (s.updCore c f).place = s.place := rfl
@[simp] theorem State.updCore_saved (c : CoreNum) (f : Core → Core) : (s.updCore c f).saved = s.saved := rfl
@[simp] theorem State.updCore_rels (c : CoreNum) (f : Core → Core) : (s.updCore c f).rels = s.rels := rfl
@[simp] theorem State.updCore_fe (c : CoreNum) (f : Core → Core) : (s.updCore c f).fe = s.fe := rfl
@[simp] theorem State.updCore_tr (c : CoreNum) (f : Core → Core) : (s.updCore c f).tr = s.tr := rfl
@[simp] theorem State.updCore_qcl (c : CoreNum) (f : Core → Core) : (s.updCore c f).qcl = s.qcl := rfl
@[simp] theorem State.updCore_err (c : CoreNum) (f : Core → Core) : (s.updCore c f).err = s.err := rfl
@[simp] theorem State.updCore_pat (c : CoreNum) (f : Core → Core) : (s.updCore c f).pat = s.pat := rfl
@[simp] theorem State.updCore_boot (c : CoreNum) (f : Core → Core) : (s.updCore c f).boot = s.boot := rfl
@[simp] theorem State.updCore_pins (c : CoreNum) (f : Core → Core) : (s.updCore c f).pins = s.pins := rfl
@[simp] theorem State.updCore_frzCap (c : CoreNum) (f : Core → Core) : (s.updCore c f).frzCap = s.frzCap := rfl
@[simp] theorem State.updCore_counters (c : CoreNum) (f : Core → Core) : (s.updCore c f).counters = s.counters := rfl
@[simp] theorem State.updCore_regionOf (c : CoreNum) (f : Core → Core) (r' : RegionNum) : (s.updCore c f).region r' = s.region r' := rfl
@[simp] theorem State.updCore_nicheOf (c : CoreNum) (f : Core → Core) (n' : NicheNum) : (s.updCore c f).niche n' = s.niche n' := rfl
@[simp] theorem State.updCore_queueOf (c : CoreNum) (f : Core → Core) (q' : QueueNum) : (s.updCore c f).queue q' = s.queue q' := rfl
@[simp] theorem State.updCore_launchOf (c : CoreNum) (f : Core → Core) (l' : Nat) : (s.updCore c f).launch? l' = s.launch? l' := rfl
@[simp] theorem State.updCore_maqOf (c : CoreNum) (f : Core → Core) (n' : NicheNum) (m' : BitVec 12) : (s.updCore c f).maq? n' m' = s.maq? n' m' := rfl
@[simp] theorem State.updCore_portOf (c : CoreNum) (f : Core → Core) (p' : PortNum) : (s.updCore c f).port p' = s.port p' := rfl

/-! ### setRegion -/

@[simp] theorem State.setRegion_pending (r : RegionNum) (x : Region) : (s.setRegion r x).pending = s.pending := rfl
@[simp] theorem State.setRegion_fresh (r : RegionNum) (x : Region) : (s.setRegion r x).fresh = s.fresh := rfl
@[simp] theorem State.setRegion_order (r : RegionNum) (x : Region) : (s.setRegion r x).order = s.order := rfl
@[simp] theorem State.setRegion_ns (r : RegionNum) (x : Region) : (s.setRegion r x).ns = s.ns := rfl
@[simp] theorem State.setRegion_disc (r : RegionNum) (x : Region) : (s.setRegion r x).disc = s.disc := rfl
@[simp] theorem State.setRegion_tl (r : RegionNum) (x : Region) : (s.setRegion r x).tl = s.tl := rfl
@[simp] theorem State.setRegion_mem (r : RegionNum) (x : Region) : (s.setRegion r x).mem = s.mem := rfl
@[simp] theorem State.setRegion_hostMem (r : RegionNum) (x : Region) : (s.setRegion r x).hostMem = s.hostMem := rfl
@[simp] theorem State.setRegion_cores (r : RegionNum) (x : Region) : (s.setRegion r x).cores = s.cores := rfl
@[simp] theorem State.setRegion_niches (r : RegionNum) (x : Region) : (s.setRegion r x).niches = s.niches := rfl
@[simp] theorem State.setRegion_place (r : RegionNum) (x : Region) : (s.setRegion r x).place = s.place := rfl
@[simp] theorem State.setRegion_saved (r : RegionNum) (x : Region) : (s.setRegion r x).saved = s.saved := rfl
@[simp] theorem State.setRegion_rels (r : RegionNum) (x : Region) : (s.setRegion r x).rels = s.rels := rfl
@[simp] theorem State.setRegion_fe (r : RegionNum) (x : Region) : (s.setRegion r x).fe = s.fe := rfl
@[simp] theorem State.setRegion_tr (r : RegionNum) (x : Region) : (s.setRegion r x).tr = s.tr := rfl
@[simp] theorem State.setRegion_qcl (r : RegionNum) (x : Region) : (s.setRegion r x).qcl = s.qcl := rfl
@[simp] theorem State.setRegion_err (r : RegionNum) (x : Region) : (s.setRegion r x).err = s.err := rfl
@[simp] theorem State.setRegion_pat (r : RegionNum) (x : Region) : (s.setRegion r x).pat = s.pat := rfl
@[simp] theorem State.setRegion_boot (r : RegionNum) (x : Region) : (s.setRegion r x).boot = s.boot := rfl
@[simp] theorem State.setRegion_pins (r : RegionNum) (x : Region) : (s.setRegion r x).pins = s.pins := rfl
@[simp] theorem State.setRegion_frzCap (r : RegionNum) (x : Region) : (s.setRegion r x).frzCap = s.frzCap := rfl
@[simp] theorem State.setRegion_counters (r : RegionNum) (x : Region) : (s.setRegion r x).counters = s.counters := rfl
@[simp] theorem State.setRegion_coreOf (r : RegionNum) (x : Region) (c' : CoreNum) : (s.setRegion r x).core c' = s.core c' := rfl
@[simp] theorem State.setRegion_nicheOf (r : RegionNum) (x : Region) (n' : NicheNum) : (s.setRegion r x).niche n' = s.niche n' := rfl
@[simp] theorem State.setRegion_queueOf (r : RegionNum) (x : Region) (q' : QueueNum) : (s.setRegion r x).queue q' = s.queue q' := rfl
@[simp] theorem State.setRegion_launchOf (r : RegionNum) (x : Region) (l' : Nat) : (s.setRegion r x).launch? l' = s.launch? l' := rfl
@[simp] theorem State.setRegion_maqOf (r : RegionNum) (x : Region) (n' : NicheNum) (m' : BitVec 12) : (s.setRegion r x).maq? n' m' = s.maq? n' m' := rfl
@[simp] theorem State.setRegion_portOf (r : RegionNum) (x : Region) (p' : PortNum) : (s.setRegion r x).port p' = s.port p' := rfl

/-! ### updRegion -/

@[simp] theorem State.updRegion_pending (r : RegionNum) (f : Region → Region) : (s.updRegion r f).pending = s.pending := rfl
@[simp] theorem State.updRegion_fresh (r : RegionNum) (f : Region → Region) : (s.updRegion r f).fresh = s.fresh := rfl
@[simp] theorem State.updRegion_order (r : RegionNum) (f : Region → Region) : (s.updRegion r f).order = s.order := rfl
@[simp] theorem State.updRegion_ns (r : RegionNum) (f : Region → Region) : (s.updRegion r f).ns = s.ns := rfl
@[simp] theorem State.updRegion_disc (r : RegionNum) (f : Region → Region) : (s.updRegion r f).disc = s.disc := rfl
@[simp] theorem State.updRegion_tl (r : RegionNum) (f : Region → Region) : (s.updRegion r f).tl = s.tl := rfl
@[simp] theorem State.updRegion_mem (r : RegionNum) (f : Region → Region) : (s.updRegion r f).mem = s.mem := rfl
@[simp] theorem State.updRegion_hostMem (r : RegionNum) (f : Region → Region) : (s.updRegion r f).hostMem = s.hostMem := rfl
@[simp] theorem State.updRegion_cores (r : RegionNum) (f : Region → Region) : (s.updRegion r f).cores = s.cores := rfl
@[simp] theorem State.updRegion_niches (r : RegionNum) (f : Region → Region) : (s.updRegion r f).niches = s.niches := rfl
@[simp] theorem State.updRegion_place (r : RegionNum) (f : Region → Region) : (s.updRegion r f).place = s.place := rfl
@[simp] theorem State.updRegion_saved (r : RegionNum) (f : Region → Region) : (s.updRegion r f).saved = s.saved := rfl
@[simp] theorem State.updRegion_rels (r : RegionNum) (f : Region → Region) : (s.updRegion r f).rels = s.rels := rfl
@[simp] theorem State.updRegion_fe (r : RegionNum) (f : Region → Region) : (s.updRegion r f).fe = s.fe := rfl
@[simp] theorem State.updRegion_tr (r : RegionNum) (f : Region → Region) : (s.updRegion r f).tr = s.tr := rfl
@[simp] theorem State.updRegion_qcl (r : RegionNum) (f : Region → Region) : (s.updRegion r f).qcl = s.qcl := rfl
@[simp] theorem State.updRegion_err (r : RegionNum) (f : Region → Region) : (s.updRegion r f).err = s.err := rfl
@[simp] theorem State.updRegion_pat (r : RegionNum) (f : Region → Region) : (s.updRegion r f).pat = s.pat := rfl
@[simp] theorem State.updRegion_boot (r : RegionNum) (f : Region → Region) : (s.updRegion r f).boot = s.boot := rfl
@[simp] theorem State.updRegion_pins (r : RegionNum) (f : Region → Region) : (s.updRegion r f).pins = s.pins := rfl
@[simp] theorem State.updRegion_frzCap (r : RegionNum) (f : Region → Region) : (s.updRegion r f).frzCap = s.frzCap := rfl
@[simp] theorem State.updRegion_counters (r : RegionNum) (f : Region → Region) : (s.updRegion r f).counters = s.counters := rfl
@[simp] theorem State.updRegion_coreOf (r : RegionNum) (f : Region → Region) (c' : CoreNum) : (s.updRegion r f).core c' = s.core c' := rfl
@[simp] theorem State.updRegion_nicheOf (r : RegionNum) (f : Region → Region) (n' : NicheNum) : (s.updRegion r f).niche n' = s.niche n' := rfl
@[simp] theorem State.updRegion_queueOf (r : RegionNum) (f : Region → Region) (q' : QueueNum) : (s.updRegion r f).queue q' = s.queue q' := rfl
@[simp] theorem State.updRegion_launchOf (r : RegionNum) (f : Region → Region) (l' : Nat) : (s.updRegion r f).launch? l' = s.launch? l' := rfl
@[simp] theorem State.updRegion_maqOf (r : RegionNum) (f : Region → Region) (n' : NicheNum) (m' : BitVec 12) : (s.updRegion r f).maq? n' m' = s.maq? n' m' := rfl
@[simp] theorem State.updRegion_portOf (r : RegionNum) (f : Region → Region) (p' : PortNum) : (s.updRegion r f).port p' = s.port p' := rfl

/-! ### mapRegions -/

@[simp] theorem State.mapRegions_pending (f : Nat → Region → Region) : (s.mapRegions f).pending = s.pending := rfl
@[simp] theorem State.mapRegions_fresh (f : Nat → Region → Region) : (s.mapRegions f).fresh = s.fresh := rfl
@[simp] theorem State.mapRegions_order (f : Nat → Region → Region) : (s.mapRegions f).order = s.order := rfl
@[simp] theorem State.mapRegions_ns (f : Nat → Region → Region) : (s.mapRegions f).ns = s.ns := rfl
@[simp] theorem State.mapRegions_disc (f : Nat → Region → Region) : (s.mapRegions f).disc = s.disc := rfl
@[simp] theorem State.mapRegions_tl (f : Nat → Region → Region) : (s.mapRegions f).tl = s.tl := rfl
@[simp] theorem State.mapRegions_mem (f : Nat → Region → Region) : (s.mapRegions f).mem = s.mem := rfl
@[simp] theorem State.mapRegions_hostMem (f : Nat → Region → Region) : (s.mapRegions f).hostMem = s.hostMem := rfl
@[simp] theorem State.mapRegions_cores (f : Nat → Region → Region) : (s.mapRegions f).cores = s.cores := rfl
@[simp] theorem State.mapRegions_niches (f : Nat → Region → Region) : (s.mapRegions f).niches = s.niches := rfl
@[simp] theorem State.mapRegions_place (f : Nat → Region → Region) : (s.mapRegions f).place = s.place := rfl
@[simp] theorem State.mapRegions_saved (f : Nat → Region → Region) : (s.mapRegions f).saved = s.saved := rfl
@[simp] theorem State.mapRegions_rels (f : Nat → Region → Region) : (s.mapRegions f).rels = s.rels := rfl
@[simp] theorem State.mapRegions_fe (f : Nat → Region → Region) : (s.mapRegions f).fe = s.fe := rfl
@[simp] theorem State.mapRegions_tr (f : Nat → Region → Region) : (s.mapRegions f).tr = s.tr := rfl
@[simp] theorem State.mapRegions_qcl (f : Nat → Region → Region) : (s.mapRegions f).qcl = s.qcl := rfl
@[simp] theorem State.mapRegions_err (f : Nat → Region → Region) : (s.mapRegions f).err = s.err := rfl
@[simp] theorem State.mapRegions_pat (f : Nat → Region → Region) : (s.mapRegions f).pat = s.pat := rfl
@[simp] theorem State.mapRegions_boot (f : Nat → Region → Region) : (s.mapRegions f).boot = s.boot := rfl
@[simp] theorem State.mapRegions_pins (f : Nat → Region → Region) : (s.mapRegions f).pins = s.pins := rfl
@[simp] theorem State.mapRegions_frzCap (f : Nat → Region → Region) : (s.mapRegions f).frzCap = s.frzCap := rfl
@[simp] theorem State.mapRegions_counters (f : Nat → Region → Region) : (s.mapRegions f).counters = s.counters := rfl
@[simp] theorem State.mapRegions_coreOf (f : Nat → Region → Region) (c' : CoreNum) : (s.mapRegions f).core c' = s.core c' := rfl
@[simp] theorem State.mapRegions_nicheOf (f : Nat → Region → Region) (n' : NicheNum) : (s.mapRegions f).niche n' = s.niche n' := rfl
@[simp] theorem State.mapRegions_queueOf (f : Nat → Region → Region) (q' : QueueNum) : (s.mapRegions f).queue q' = s.queue q' := rfl
@[simp] theorem State.mapRegions_launchOf (f : Nat → Region → Region) (l' : Nat) : (s.mapRegions f).launch? l' = s.launch? l' := rfl
@[simp] theorem State.mapRegions_maqOf (f : Nat → Region → Region) (n' : NicheNum) (m' : BitVec 12) : (s.mapRegions f).maq? n' m' = s.maq? n' m' := rfl
@[simp] theorem State.mapRegions_portOf (f : Nat → Region → Region) (p' : PortNum) : (s.mapRegions f).port p' = s.port p' := rfl

/-! ### setNiche -/

@[simp] theorem State.setNiche_pending (n : NicheNum) (x : Niche) : (s.setNiche n x).pending = s.pending := rfl
@[simp] theorem State.setNiche_fresh (n : NicheNum) (x : Niche) : (s.setNiche n x).fresh = s.fresh := rfl
@[simp] theorem State.setNiche_order (n : NicheNum) (x : Niche) : (s.setNiche n x).order = s.order := rfl
@[simp] theorem State.setNiche_ns (n : NicheNum) (x : Niche) : (s.setNiche n x).ns = s.ns := rfl
@[simp] theorem State.setNiche_disc (n : NicheNum) (x : Niche) : (s.setNiche n x).disc = s.disc := rfl
@[simp] theorem State.setNiche_tl (n : NicheNum) (x : Niche) : (s.setNiche n x).tl = s.tl := rfl
@[simp] theorem State.setNiche_mem (n : NicheNum) (x : Niche) : (s.setNiche n x).mem = s.mem := rfl
@[simp] theorem State.setNiche_hostMem (n : NicheNum) (x : Niche) : (s.setNiche n x).hostMem = s.hostMem := rfl
@[simp] theorem State.setNiche_cores (n : NicheNum) (x : Niche) : (s.setNiche n x).cores = s.cores := rfl
@[simp] theorem State.setNiche_regions (n : NicheNum) (x : Niche) : (s.setNiche n x).regions = s.regions := rfl
@[simp] theorem State.setNiche_place (n : NicheNum) (x : Niche) : (s.setNiche n x).place = s.place := rfl
@[simp] theorem State.setNiche_saved (n : NicheNum) (x : Niche) : (s.setNiche n x).saved = s.saved := rfl
@[simp] theorem State.setNiche_rels (n : NicheNum) (x : Niche) : (s.setNiche n x).rels = s.rels := rfl
@[simp] theorem State.setNiche_fe (n : NicheNum) (x : Niche) : (s.setNiche n x).fe = s.fe := rfl
@[simp] theorem State.setNiche_tr (n : NicheNum) (x : Niche) : (s.setNiche n x).tr = s.tr := rfl
@[simp] theorem State.setNiche_qcl (n : NicheNum) (x : Niche) : (s.setNiche n x).qcl = s.qcl := rfl
@[simp] theorem State.setNiche_err (n : NicheNum) (x : Niche) : (s.setNiche n x).err = s.err := rfl
@[simp] theorem State.setNiche_pat (n : NicheNum) (x : Niche) : (s.setNiche n x).pat = s.pat := rfl
@[simp] theorem State.setNiche_boot (n : NicheNum) (x : Niche) : (s.setNiche n x).boot = s.boot := rfl
@[simp] theorem State.setNiche_pins (n : NicheNum) (x : Niche) : (s.setNiche n x).pins = s.pins := rfl
@[simp] theorem State.setNiche_frzCap (n : NicheNum) (x : Niche) : (s.setNiche n x).frzCap = s.frzCap := rfl
@[simp] theorem State.setNiche_counters (n : NicheNum) (x : Niche) : (s.setNiche n x).counters = s.counters := rfl
@[simp] theorem State.setNiche_coreOf (n : NicheNum) (x : Niche) (c' : CoreNum) : (s.setNiche n x).core c' = s.core c' := rfl
@[simp] theorem State.setNiche_regionOf (n : NicheNum) (x : Niche) (r' : RegionNum) : (s.setNiche n x).region r' = s.region r' := rfl
@[simp] theorem State.setNiche_queueOf (n : NicheNum) (x : Niche) (q' : QueueNum) : (s.setNiche n x).queue q' = s.queue q' := rfl
@[simp] theorem State.setNiche_launchOf (n : NicheNum) (x : Niche) (l' : Nat) : (s.setNiche n x).launch? l' = s.launch? l' := rfl
@[simp] theorem State.setNiche_maqOf (n : NicheNum) (x : Niche) (n' : NicheNum) (m' : BitVec 12) : (s.setNiche n x).maq? n' m' = s.maq? n' m' := rfl
@[simp] theorem State.setNiche_portOf (n : NicheNum) (x : Niche) (p' : PortNum) : (s.setNiche n x).port p' = s.port p' := rfl

/-! ### updNiche -/

@[simp] theorem State.updNiche_pending (n : NicheNum) (f : Niche → Niche) : (s.updNiche n f).pending = s.pending := rfl
@[simp] theorem State.updNiche_fresh (n : NicheNum) (f : Niche → Niche) : (s.updNiche n f).fresh = s.fresh := rfl
@[simp] theorem State.updNiche_order (n : NicheNum) (f : Niche → Niche) : (s.updNiche n f).order = s.order := rfl
@[simp] theorem State.updNiche_ns (n : NicheNum) (f : Niche → Niche) : (s.updNiche n f).ns = s.ns := rfl
@[simp] theorem State.updNiche_disc (n : NicheNum) (f : Niche → Niche) : (s.updNiche n f).disc = s.disc := rfl
@[simp] theorem State.updNiche_tl (n : NicheNum) (f : Niche → Niche) : (s.updNiche n f).tl = s.tl := rfl
@[simp] theorem State.updNiche_mem (n : NicheNum) (f : Niche → Niche) : (s.updNiche n f).mem = s.mem := rfl
@[simp] theorem State.updNiche_hostMem (n : NicheNum) (f : Niche → Niche) : (s.updNiche n f).hostMem = s.hostMem := rfl
@[simp] theorem State.updNiche_cores (n : NicheNum) (f : Niche → Niche) : (s.updNiche n f).cores = s.cores := rfl
@[simp] theorem State.updNiche_regions (n : NicheNum) (f : Niche → Niche) : (s.updNiche n f).regions = s.regions := rfl
@[simp] theorem State.updNiche_place (n : NicheNum) (f : Niche → Niche) : (s.updNiche n f).place = s.place := rfl
@[simp] theorem State.updNiche_saved (n : NicheNum) (f : Niche → Niche) : (s.updNiche n f).saved = s.saved := rfl
@[simp] theorem State.updNiche_rels (n : NicheNum) (f : Niche → Niche) : (s.updNiche n f).rels = s.rels := rfl
@[simp] theorem State.updNiche_fe (n : NicheNum) (f : Niche → Niche) : (s.updNiche n f).fe = s.fe := rfl
@[simp] theorem State.updNiche_tr (n : NicheNum) (f : Niche → Niche) : (s.updNiche n f).tr = s.tr := rfl
@[simp] theorem State.updNiche_qcl (n : NicheNum) (f : Niche → Niche) : (s.updNiche n f).qcl = s.qcl := rfl
@[simp] theorem State.updNiche_err (n : NicheNum) (f : Niche → Niche) : (s.updNiche n f).err = s.err := rfl
@[simp] theorem State.updNiche_pat (n : NicheNum) (f : Niche → Niche) : (s.updNiche n f).pat = s.pat := rfl
@[simp] theorem State.updNiche_boot (n : NicheNum) (f : Niche → Niche) : (s.updNiche n f).boot = s.boot := rfl
@[simp] theorem State.updNiche_pins (n : NicheNum) (f : Niche → Niche) : (s.updNiche n f).pins = s.pins := rfl
@[simp] theorem State.updNiche_frzCap (n : NicheNum) (f : Niche → Niche) : (s.updNiche n f).frzCap = s.frzCap := rfl
@[simp] theorem State.updNiche_counters (n : NicheNum) (f : Niche → Niche) : (s.updNiche n f).counters = s.counters := rfl
@[simp] theorem State.updNiche_coreOf (n : NicheNum) (f : Niche → Niche) (c' : CoreNum) : (s.updNiche n f).core c' = s.core c' := rfl
@[simp] theorem State.updNiche_regionOf (n : NicheNum) (f : Niche → Niche) (r' : RegionNum) : (s.updNiche n f).region r' = s.region r' := rfl
@[simp] theorem State.updNiche_queueOf (n : NicheNum) (f : Niche → Niche) (q' : QueueNum) : (s.updNiche n f).queue q' = s.queue q' := rfl
@[simp] theorem State.updNiche_launchOf (n : NicheNum) (f : Niche → Niche) (l' : Nat) : (s.updNiche n f).launch? l' = s.launch? l' := rfl
@[simp] theorem State.updNiche_maqOf (n : NicheNum) (f : Niche → Niche) (n' : NicheNum) (m' : BitVec 12) : (s.updNiche n f).maq? n' m' = s.maq? n' m' := rfl
@[simp] theorem State.updNiche_portOf (n : NicheNum) (f : Niche → Niche) (p' : PortNum) : (s.updNiche n f).port p' = s.port p' := rfl

/-! ### updCtx -/

@[simp] theorem State.updCtx_pending (n : NicheNum) (c : BitVec 4) (f : Ctx → Ctx) : (s.updCtx n c f).pending = s.pending := rfl
@[simp] theorem State.updCtx_fresh (n : NicheNum) (c : BitVec 4) (f : Ctx → Ctx) : (s.updCtx n c f).fresh = s.fresh := rfl
@[simp] theorem State.updCtx_order (n : NicheNum) (c : BitVec 4) (f : Ctx → Ctx) : (s.updCtx n c f).order = s.order := rfl
@[simp] theorem State.updCtx_ns (n : NicheNum) (c : BitVec 4) (f : Ctx → Ctx) : (s.updCtx n c f).ns = s.ns := rfl
@[simp] theorem State.updCtx_disc (n : NicheNum) (c : BitVec 4) (f : Ctx → Ctx) : (s.updCtx n c f).disc = s.disc := rfl
@[simp] theorem State.updCtx_tl (n : NicheNum) (c : BitVec 4) (f : Ctx → Ctx) : (s.updCtx n c f).tl = s.tl := rfl
@[simp] theorem State.updCtx_mem (n : NicheNum) (c : BitVec 4) (f : Ctx → Ctx) : (s.updCtx n c f).mem = s.mem := rfl
@[simp] theorem State.updCtx_hostMem (n : NicheNum) (c : BitVec 4) (f : Ctx → Ctx) : (s.updCtx n c f).hostMem = s.hostMem := rfl
@[simp] theorem State.updCtx_cores (n : NicheNum) (c : BitVec 4) (f : Ctx → Ctx) : (s.updCtx n c f).cores = s.cores := rfl
@[simp] theorem State.updCtx_regions (n : NicheNum) (c : BitVec 4) (f : Ctx → Ctx) : (s.updCtx n c f).regions = s.regions := rfl
@[simp] theorem State.updCtx_place (n : NicheNum) (c : BitVec 4) (f : Ctx → Ctx) : (s.updCtx n c f).place = s.place := rfl
@[simp] theorem State.updCtx_saved (n : NicheNum) (c : BitVec 4) (f : Ctx → Ctx) : (s.updCtx n c f).saved = s.saved := rfl
@[simp] theorem State.updCtx_rels (n : NicheNum) (c : BitVec 4) (f : Ctx → Ctx) : (s.updCtx n c f).rels = s.rels := rfl
@[simp] theorem State.updCtx_fe (n : NicheNum) (c : BitVec 4) (f : Ctx → Ctx) : (s.updCtx n c f).fe = s.fe := rfl
@[simp] theorem State.updCtx_tr (n : NicheNum) (c : BitVec 4) (f : Ctx → Ctx) : (s.updCtx n c f).tr = s.tr := rfl
@[simp] theorem State.updCtx_qcl (n : NicheNum) (c : BitVec 4) (f : Ctx → Ctx) : (s.updCtx n c f).qcl = s.qcl := rfl
@[simp] theorem State.updCtx_err (n : NicheNum) (c : BitVec 4) (f : Ctx → Ctx) : (s.updCtx n c f).err = s.err := rfl
@[simp] theorem State.updCtx_pat (n : NicheNum) (c : BitVec 4) (f : Ctx → Ctx) : (s.updCtx n c f).pat = s.pat := rfl
@[simp] theorem State.updCtx_boot (n : NicheNum) (c : BitVec 4) (f : Ctx → Ctx) : (s.updCtx n c f).boot = s.boot := rfl
@[simp] theorem State.updCtx_pins (n : NicheNum) (c : BitVec 4) (f : Ctx → Ctx) : (s.updCtx n c f).pins = s.pins := rfl
@[simp] theorem State.updCtx_frzCap (n : NicheNum) (c : BitVec 4) (f : Ctx → Ctx) : (s.updCtx n c f).frzCap = s.frzCap := rfl
@[simp] theorem State.updCtx_counters (n : NicheNum) (c : BitVec 4) (f : Ctx → Ctx) : (s.updCtx n c f).counters = s.counters := rfl
@[simp] theorem State.updCtx_coreOf (n : NicheNum) (c : BitVec 4) (f : Ctx → Ctx) (c' : CoreNum) : (s.updCtx n c f).core c' = s.core c' := rfl
@[simp] theorem State.updCtx_regionOf (n : NicheNum) (c : BitVec 4) (f : Ctx → Ctx) (r' : RegionNum) : (s.updCtx n c f).region r' = s.region r' := rfl
@[simp] theorem State.updCtx_queueOf (n : NicheNum) (c : BitVec 4) (f : Ctx → Ctx) (q' : QueueNum) : (s.updCtx n c f).queue q' = s.queue q' := rfl
@[simp] theorem State.updCtx_launchOf (n : NicheNum) (c : BitVec 4) (f : Ctx → Ctx) (l' : Nat) : (s.updCtx n c f).launch? l' = s.launch? l' := rfl
@[simp] theorem State.updCtx_maqOf (n : NicheNum) (c : BitVec 4) (f : Ctx → Ctx) (n' : NicheNum) (m' : BitVec 12) : (s.updCtx n c f).maq? n' m' = s.maq? n' m' := rfl
@[simp] theorem State.updCtx_portOf (n : NicheNum) (c : BitVec 4) (f : Ctx → Ctx) (p' : PortNum) : (s.updCtx n c f).port p' = s.port p' := rfl

/-! ### updNsem -/

@[simp] theorem State.updNsem_pending (n : NicheNum) (k : Nat) (f : NSem → NSem) : (s.updNsem n k f).pending = s.pending := rfl
@[simp] theorem State.updNsem_fresh (n : NicheNum) (k : Nat) (f : NSem → NSem) : (s.updNsem n k f).fresh = s.fresh := rfl
@[simp] theorem State.updNsem_order (n : NicheNum) (k : Nat) (f : NSem → NSem) : (s.updNsem n k f).order = s.order := rfl
@[simp] theorem State.updNsem_ns (n : NicheNum) (k : Nat) (f : NSem → NSem) : (s.updNsem n k f).ns = s.ns := rfl
@[simp] theorem State.updNsem_disc (n : NicheNum) (k : Nat) (f : NSem → NSem) : (s.updNsem n k f).disc = s.disc := rfl
@[simp] theorem State.updNsem_tl (n : NicheNum) (k : Nat) (f : NSem → NSem) : (s.updNsem n k f).tl = s.tl := rfl
@[simp] theorem State.updNsem_mem (n : NicheNum) (k : Nat) (f : NSem → NSem) : (s.updNsem n k f).mem = s.mem := rfl
@[simp] theorem State.updNsem_hostMem (n : NicheNum) (k : Nat) (f : NSem → NSem) : (s.updNsem n k f).hostMem = s.hostMem := rfl
@[simp] theorem State.updNsem_cores (n : NicheNum) (k : Nat) (f : NSem → NSem) : (s.updNsem n k f).cores = s.cores := rfl
@[simp] theorem State.updNsem_regions (n : NicheNum) (k : Nat) (f : NSem → NSem) : (s.updNsem n k f).regions = s.regions := rfl
@[simp] theorem State.updNsem_place (n : NicheNum) (k : Nat) (f : NSem → NSem) : (s.updNsem n k f).place = s.place := rfl
@[simp] theorem State.updNsem_saved (n : NicheNum) (k : Nat) (f : NSem → NSem) : (s.updNsem n k f).saved = s.saved := rfl
@[simp] theorem State.updNsem_rels (n : NicheNum) (k : Nat) (f : NSem → NSem) : (s.updNsem n k f).rels = s.rels := rfl
@[simp] theorem State.updNsem_fe (n : NicheNum) (k : Nat) (f : NSem → NSem) : (s.updNsem n k f).fe = s.fe := rfl
@[simp] theorem State.updNsem_tr (n : NicheNum) (k : Nat) (f : NSem → NSem) : (s.updNsem n k f).tr = s.tr := rfl
@[simp] theorem State.updNsem_qcl (n : NicheNum) (k : Nat) (f : NSem → NSem) : (s.updNsem n k f).qcl = s.qcl := rfl
@[simp] theorem State.updNsem_err (n : NicheNum) (k : Nat) (f : NSem → NSem) : (s.updNsem n k f).err = s.err := rfl
@[simp] theorem State.updNsem_pat (n : NicheNum) (k : Nat) (f : NSem → NSem) : (s.updNsem n k f).pat = s.pat := rfl
@[simp] theorem State.updNsem_boot (n : NicheNum) (k : Nat) (f : NSem → NSem) : (s.updNsem n k f).boot = s.boot := rfl
@[simp] theorem State.updNsem_pins (n : NicheNum) (k : Nat) (f : NSem → NSem) : (s.updNsem n k f).pins = s.pins := rfl
@[simp] theorem State.updNsem_frzCap (n : NicheNum) (k : Nat) (f : NSem → NSem) : (s.updNsem n k f).frzCap = s.frzCap := rfl
@[simp] theorem State.updNsem_counters (n : NicheNum) (k : Nat) (f : NSem → NSem) : (s.updNsem n k f).counters = s.counters := rfl
@[simp] theorem State.updNsem_coreOf (n : NicheNum) (k : Nat) (f : NSem → NSem) (c' : CoreNum) : (s.updNsem n k f).core c' = s.core c' := rfl
@[simp] theorem State.updNsem_regionOf (n : NicheNum) (k : Nat) (f : NSem → NSem) (r' : RegionNum) : (s.updNsem n k f).region r' = s.region r' := rfl
@[simp] theorem State.updNsem_queueOf (n : NicheNum) (k : Nat) (f : NSem → NSem) (q' : QueueNum) : (s.updNsem n k f).queue q' = s.queue q' := rfl
@[simp] theorem State.updNsem_launchOf (n : NicheNum) (k : Nat) (f : NSem → NSem) (l' : Nat) : (s.updNsem n k f).launch? l' = s.launch? l' := rfl
@[simp] theorem State.updNsem_maqOf (n : NicheNum) (k : Nat) (f : NSem → NSem) (n' : NicheNum) (m' : BitVec 12) : (s.updNsem n k f).maq? n' m' = s.maq? n' m' := rfl
@[simp] theorem State.updNsem_portOf (n : NicheNum) (k : Nat) (f : NSem → NSem) (p' : PortNum) : (s.updNsem n k f).port p' = s.port p' := rfl

/-! ### setQueue -/

@[simp] theorem State.setQueue_pending (q : QueueNum) (x : Queue) : (s.setQueue q x).pending = s.pending := rfl
@[simp] theorem State.setQueue_fresh (q : QueueNum) (x : Queue) : (s.setQueue q x).fresh = s.fresh := rfl
@[simp] theorem State.setQueue_order (q : QueueNum) (x : Queue) : (s.setQueue q x).order = s.order := rfl
@[simp] theorem State.setQueue_ns (q : QueueNum) (x : Queue) : (s.setQueue q x).ns = s.ns := rfl
@[simp] theorem State.setQueue_disc (q : QueueNum) (x : Queue) : (s.setQueue q x).disc = s.disc := rfl
@[simp] theorem State.setQueue_tl (q : QueueNum) (x : Queue) : (s.setQueue q x).tl = s.tl := rfl
@[simp] theorem State.setQueue_mem (q : QueueNum) (x : Queue) : (s.setQueue q x).mem = s.mem := rfl
@[simp] theorem State.setQueue_hostMem (q : QueueNum) (x : Queue) : (s.setQueue q x).hostMem = s.hostMem := rfl
@[simp] theorem State.setQueue_cores (q : QueueNum) (x : Queue) : (s.setQueue q x).cores = s.cores := rfl
@[simp] theorem State.setQueue_regions (q : QueueNum) (x : Queue) : (s.setQueue q x).regions = s.regions := rfl
@[simp] theorem State.setQueue_niches (q : QueueNum) (x : Queue) : (s.setQueue q x).niches = s.niches := rfl
@[simp] theorem State.setQueue_place (q : QueueNum) (x : Queue) : (s.setQueue q x).place = s.place := rfl
@[simp] theorem State.setQueue_saved (q : QueueNum) (x : Queue) : (s.setQueue q x).saved = s.saved := rfl
@[simp] theorem State.setQueue_rels (q : QueueNum) (x : Queue) : (s.setQueue q x).rels = s.rels := rfl
@[simp] theorem State.setQueue_tr (q : QueueNum) (x : Queue) : (s.setQueue q x).tr = s.tr := rfl
@[simp] theorem State.setQueue_qcl (q : QueueNum) (x : Queue) : (s.setQueue q x).qcl = s.qcl := rfl
@[simp] theorem State.setQueue_err (q : QueueNum) (x : Queue) : (s.setQueue q x).err = s.err := rfl
@[simp] theorem State.setQueue_pat (q : QueueNum) (x : Queue) : (s.setQueue q x).pat = s.pat := rfl
@[simp] theorem State.setQueue_boot (q : QueueNum) (x : Queue) : (s.setQueue q x).boot = s.boot := rfl
@[simp] theorem State.setQueue_pins (q : QueueNum) (x : Queue) : (s.setQueue q x).pins = s.pins := rfl
@[simp] theorem State.setQueue_frzCap (q : QueueNum) (x : Queue) : (s.setQueue q x).frzCap = s.frzCap := rfl
@[simp] theorem State.setQueue_counters (q : QueueNum) (x : Queue) : (s.setQueue q x).counters = s.counters := rfl
@[simp] theorem State.setQueue_coreOf (q : QueueNum) (x : Queue) (c' : CoreNum) : (s.setQueue q x).core c' = s.core c' := rfl
@[simp] theorem State.setQueue_regionOf (q : QueueNum) (x : Queue) (r' : RegionNum) : (s.setQueue q x).region r' = s.region r' := rfl
@[simp] theorem State.setQueue_nicheOf (q : QueueNum) (x : Queue) (n' : NicheNum) : (s.setQueue q x).niche n' = s.niche n' := rfl
@[simp] theorem State.setQueue_portOf (q : QueueNum) (x : Queue) (p' : PortNum) : (s.setQueue q x).port p' = s.port p' := rfl

/-! ### updQueue -/

@[simp] theorem State.updQueue_pending (q : QueueNum) (f : Queue → Queue) : (s.updQueue q f).pending = s.pending := rfl
@[simp] theorem State.updQueue_fresh (q : QueueNum) (f : Queue → Queue) : (s.updQueue q f).fresh = s.fresh := rfl
@[simp] theorem State.updQueue_order (q : QueueNum) (f : Queue → Queue) : (s.updQueue q f).order = s.order := rfl
@[simp] theorem State.updQueue_ns (q : QueueNum) (f : Queue → Queue) : (s.updQueue q f).ns = s.ns := rfl
@[simp] theorem State.updQueue_disc (q : QueueNum) (f : Queue → Queue) : (s.updQueue q f).disc = s.disc := rfl
@[simp] theorem State.updQueue_tl (q : QueueNum) (f : Queue → Queue) : (s.updQueue q f).tl = s.tl := rfl
@[simp] theorem State.updQueue_mem (q : QueueNum) (f : Queue → Queue) : (s.updQueue q f).mem = s.mem := rfl
@[simp] theorem State.updQueue_hostMem (q : QueueNum) (f : Queue → Queue) : (s.updQueue q f).hostMem = s.hostMem := rfl
@[simp] theorem State.updQueue_cores (q : QueueNum) (f : Queue → Queue) : (s.updQueue q f).cores = s.cores := rfl
@[simp] theorem State.updQueue_regions (q : QueueNum) (f : Queue → Queue) : (s.updQueue q f).regions = s.regions := rfl
@[simp] theorem State.updQueue_niches (q : QueueNum) (f : Queue → Queue) : (s.updQueue q f).niches = s.niches := rfl
@[simp] theorem State.updQueue_place (q : QueueNum) (f : Queue → Queue) : (s.updQueue q f).place = s.place := rfl
@[simp] theorem State.updQueue_saved (q : QueueNum) (f : Queue → Queue) : (s.updQueue q f).saved = s.saved := rfl
@[simp] theorem State.updQueue_rels (q : QueueNum) (f : Queue → Queue) : (s.updQueue q f).rels = s.rels := rfl
@[simp] theorem State.updQueue_tr (q : QueueNum) (f : Queue → Queue) : (s.updQueue q f).tr = s.tr := rfl
@[simp] theorem State.updQueue_qcl (q : QueueNum) (f : Queue → Queue) : (s.updQueue q f).qcl = s.qcl := rfl
@[simp] theorem State.updQueue_err (q : QueueNum) (f : Queue → Queue) : (s.updQueue q f).err = s.err := rfl
@[simp] theorem State.updQueue_pat (q : QueueNum) (f : Queue → Queue) : (s.updQueue q f).pat = s.pat := rfl
@[simp] theorem State.updQueue_boot (q : QueueNum) (f : Queue → Queue) : (s.updQueue q f).boot = s.boot := rfl
@[simp] theorem State.updQueue_pins (q : QueueNum) (f : Queue → Queue) : (s.updQueue q f).pins = s.pins := rfl
@[simp] theorem State.updQueue_frzCap (q : QueueNum) (f : Queue → Queue) : (s.updQueue q f).frzCap = s.frzCap := rfl
@[simp] theorem State.updQueue_counters (q : QueueNum) (f : Queue → Queue) : (s.updQueue q f).counters = s.counters := rfl
@[simp] theorem State.updQueue_coreOf (q : QueueNum) (f : Queue → Queue) (c' : CoreNum) : (s.updQueue q f).core c' = s.core c' := rfl
@[simp] theorem State.updQueue_regionOf (q : QueueNum) (f : Queue → Queue) (r' : RegionNum) : (s.updQueue q f).region r' = s.region r' := rfl
@[simp] theorem State.updQueue_nicheOf (q : QueueNum) (f : Queue → Queue) (n' : NicheNum) : (s.updQueue q f).niche n' = s.niche n' := rfl
@[simp] theorem State.updQueue_portOf (q : QueueNum) (f : Queue → Queue) (p' : PortNum) : (s.updQueue q f).port p' = s.port p' := rfl

/-! ### setLaunch -/

@[simp] theorem State.setLaunch_pending (l : Nat) (x : Launch) : (s.setLaunch l x).pending = s.pending := rfl
@[simp] theorem State.setLaunch_fresh (l : Nat) (x : Launch) : (s.setLaunch l x).fresh = s.fresh := rfl
@[simp] theorem State.setLaunch_order (l : Nat) (x : Launch) : (s.setLaunch l x).order = s.order := rfl
@[simp] theorem State.setLaunch_ns (l : Nat) (x : Launch) : (s.setLaunch l x).ns = s.ns := rfl
@[simp] theorem State.setLaunch_disc (l : Nat) (x : Launch) : (s.setLaunch l x).disc = s.disc := rfl
@[simp] theorem State.setLaunch_tl (l : Nat) (x : Launch) : (s.setLaunch l x).tl = s.tl := rfl
@[simp] theorem State.setLaunch_mem (l : Nat) (x : Launch) : (s.setLaunch l x).mem = s.mem := rfl
@[simp] theorem State.setLaunch_hostMem (l : Nat) (x : Launch) : (s.setLaunch l x).hostMem = s.hostMem := rfl
@[simp] theorem State.setLaunch_cores (l : Nat) (x : Launch) : (s.setLaunch l x).cores = s.cores := rfl
@[simp] theorem State.setLaunch_regions (l : Nat) (x : Launch) : (s.setLaunch l x).regions = s.regions := rfl
@[simp] theorem State.setLaunch_niches (l : Nat) (x : Launch) : (s.setLaunch l x).niches = s.niches := rfl
@[simp] theorem State.setLaunch_place (l : Nat) (x : Launch) : (s.setLaunch l x).place = s.place := rfl
@[simp] theorem State.setLaunch_saved (l : Nat) (x : Launch) : (s.setLaunch l x).saved = s.saved := rfl
@[simp] theorem State.setLaunch_rels (l : Nat) (x : Launch) : (s.setLaunch l x).rels = s.rels := rfl
@[simp] theorem State.setLaunch_tr (l : Nat) (x : Launch) : (s.setLaunch l x).tr = s.tr := rfl
@[simp] theorem State.setLaunch_qcl (l : Nat) (x : Launch) : (s.setLaunch l x).qcl = s.qcl := rfl
@[simp] theorem State.setLaunch_err (l : Nat) (x : Launch) : (s.setLaunch l x).err = s.err := rfl
@[simp] theorem State.setLaunch_pat (l : Nat) (x : Launch) : (s.setLaunch l x).pat = s.pat := rfl
@[simp] theorem State.setLaunch_boot (l : Nat) (x : Launch) : (s.setLaunch l x).boot = s.boot := rfl
@[simp] theorem State.setLaunch_pins (l : Nat) (x : Launch) : (s.setLaunch l x).pins = s.pins := rfl
@[simp] theorem State.setLaunch_frzCap (l : Nat) (x : Launch) : (s.setLaunch l x).frzCap = s.frzCap := rfl
@[simp] theorem State.setLaunch_counters (l : Nat) (x : Launch) : (s.setLaunch l x).counters = s.counters := rfl
@[simp] theorem State.setLaunch_coreOf (l : Nat) (x : Launch) (c' : CoreNum) : (s.setLaunch l x).core c' = s.core c' := rfl
@[simp] theorem State.setLaunch_regionOf (l : Nat) (x : Launch) (r' : RegionNum) : (s.setLaunch l x).region r' = s.region r' := rfl
@[simp] theorem State.setLaunch_nicheOf (l : Nat) (x : Launch) (n' : NicheNum) : (s.setLaunch l x).niche n' = s.niche n' := rfl
@[simp] theorem State.setLaunch_portOf (l : Nat) (x : Launch) (p' : PortNum) : (s.setLaunch l x).port p' = s.port p' := rfl

/-! ### setMaq -/

@[simp] theorem State.setMaq_pending (n : NicheNum) (m : BitVec 12) (x : Maquette) : (s.setMaq n m x).pending = s.pending := rfl
@[simp] theorem State.setMaq_fresh (n : NicheNum) (m : BitVec 12) (x : Maquette) : (s.setMaq n m x).fresh = s.fresh := rfl
@[simp] theorem State.setMaq_order (n : NicheNum) (m : BitVec 12) (x : Maquette) : (s.setMaq n m x).order = s.order := rfl
@[simp] theorem State.setMaq_ns (n : NicheNum) (m : BitVec 12) (x : Maquette) : (s.setMaq n m x).ns = s.ns := rfl
@[simp] theorem State.setMaq_disc (n : NicheNum) (m : BitVec 12) (x : Maquette) : (s.setMaq n m x).disc = s.disc := rfl
@[simp] theorem State.setMaq_tl (n : NicheNum) (m : BitVec 12) (x : Maquette) : (s.setMaq n m x).tl = s.tl := rfl
@[simp] theorem State.setMaq_mem (n : NicheNum) (m : BitVec 12) (x : Maquette) : (s.setMaq n m x).mem = s.mem := rfl
@[simp] theorem State.setMaq_hostMem (n : NicheNum) (m : BitVec 12) (x : Maquette) : (s.setMaq n m x).hostMem = s.hostMem := rfl
@[simp] theorem State.setMaq_cores (n : NicheNum) (m : BitVec 12) (x : Maquette) : (s.setMaq n m x).cores = s.cores := rfl
@[simp] theorem State.setMaq_regions (n : NicheNum) (m : BitVec 12) (x : Maquette) : (s.setMaq n m x).regions = s.regions := rfl
@[simp] theorem State.setMaq_niches (n : NicheNum) (m : BitVec 12) (x : Maquette) : (s.setMaq n m x).niches = s.niches := rfl
@[simp] theorem State.setMaq_place (n : NicheNum) (m : BitVec 12) (x : Maquette) : (s.setMaq n m x).place = s.place := rfl
@[simp] theorem State.setMaq_saved (n : NicheNum) (m : BitVec 12) (x : Maquette) : (s.setMaq n m x).saved = s.saved := rfl
@[simp] theorem State.setMaq_rels (n : NicheNum) (m : BitVec 12) (x : Maquette) : (s.setMaq n m x).rels = s.rels := rfl
@[simp] theorem State.setMaq_tr (n : NicheNum) (m : BitVec 12) (x : Maquette) : (s.setMaq n m x).tr = s.tr := rfl
@[simp] theorem State.setMaq_qcl (n : NicheNum) (m : BitVec 12) (x : Maquette) : (s.setMaq n m x).qcl = s.qcl := rfl
@[simp] theorem State.setMaq_err (n : NicheNum) (m : BitVec 12) (x : Maquette) : (s.setMaq n m x).err = s.err := rfl
@[simp] theorem State.setMaq_pat (n : NicheNum) (m : BitVec 12) (x : Maquette) : (s.setMaq n m x).pat = s.pat := rfl
@[simp] theorem State.setMaq_boot (n : NicheNum) (m : BitVec 12) (x : Maquette) : (s.setMaq n m x).boot = s.boot := rfl
@[simp] theorem State.setMaq_pins (n : NicheNum) (m : BitVec 12) (x : Maquette) : (s.setMaq n m x).pins = s.pins := rfl
@[simp] theorem State.setMaq_frzCap (n : NicheNum) (m : BitVec 12) (x : Maquette) : (s.setMaq n m x).frzCap = s.frzCap := rfl
@[simp] theorem State.setMaq_counters (n : NicheNum) (m : BitVec 12) (x : Maquette) : (s.setMaq n m x).counters = s.counters := rfl
@[simp] theorem State.setMaq_coreOf (n : NicheNum) (m : BitVec 12) (x : Maquette) (c' : CoreNum) : (s.setMaq n m x).core c' = s.core c' := rfl
@[simp] theorem State.setMaq_regionOf (n : NicheNum) (m : BitVec 12) (x : Maquette) (r' : RegionNum) : (s.setMaq n m x).region r' = s.region r' := rfl
@[simp] theorem State.setMaq_nicheOf (n : NicheNum) (m : BitVec 12) (x : Maquette) (n' : NicheNum) : (s.setMaq n m x).niche n' = s.niche n' := rfl
@[simp] theorem State.setMaq_portOf (n : NicheNum) (m : BitVec 12) (x : Maquette) (p' : PortNum) : (s.setMaq n m x).port p' = s.port p' := rfl

/-! ### setPort -/

@[simp] theorem State.setPort_pending (p : PortNum) (x : Port) : (s.setPort p x).pending = s.pending := rfl
@[simp] theorem State.setPort_fresh (p : PortNum) (x : Port) : (s.setPort p x).fresh = s.fresh := rfl
@[simp] theorem State.setPort_order (p : PortNum) (x : Port) : (s.setPort p x).order = s.order := rfl
@[simp] theorem State.setPort_ns (p : PortNum) (x : Port) : (s.setPort p x).ns = s.ns := rfl
@[simp] theorem State.setPort_disc (p : PortNum) (x : Port) : (s.setPort p x).disc = s.disc := rfl
@[simp] theorem State.setPort_tl (p : PortNum) (x : Port) : (s.setPort p x).tl = s.tl := rfl
@[simp] theorem State.setPort_mem (p : PortNum) (x : Port) : (s.setPort p x).mem = s.mem := rfl
@[simp] theorem State.setPort_hostMem (p : PortNum) (x : Port) : (s.setPort p x).hostMem = s.hostMem := rfl
@[simp] theorem State.setPort_cores (p : PortNum) (x : Port) : (s.setPort p x).cores = s.cores := rfl
@[simp] theorem State.setPort_regions (p : PortNum) (x : Port) : (s.setPort p x).regions = s.regions := rfl
@[simp] theorem State.setPort_niches (p : PortNum) (x : Port) : (s.setPort p x).niches = s.niches := rfl
@[simp] theorem State.setPort_place (p : PortNum) (x : Port) : (s.setPort p x).place = s.place := rfl
@[simp] theorem State.setPort_saved (p : PortNum) (x : Port) : (s.setPort p x).saved = s.saved := rfl
@[simp] theorem State.setPort_rels (p : PortNum) (x : Port) : (s.setPort p x).rels = s.rels := rfl
@[simp] theorem State.setPort_fe (p : PortNum) (x : Port) : (s.setPort p x).fe = s.fe := rfl
@[simp] theorem State.setPort_qcl (p : PortNum) (x : Port) : (s.setPort p x).qcl = s.qcl := rfl
@[simp] theorem State.setPort_err (p : PortNum) (x : Port) : (s.setPort p x).err = s.err := rfl
@[simp] theorem State.setPort_pat (p : PortNum) (x : Port) : (s.setPort p x).pat = s.pat := rfl
@[simp] theorem State.setPort_boot (p : PortNum) (x : Port) : (s.setPort p x).boot = s.boot := rfl
@[simp] theorem State.setPort_pins (p : PortNum) (x : Port) : (s.setPort p x).pins = s.pins := rfl
@[simp] theorem State.setPort_frzCap (p : PortNum) (x : Port) : (s.setPort p x).frzCap = s.frzCap := rfl
@[simp] theorem State.setPort_counters (p : PortNum) (x : Port) : (s.setPort p x).counters = s.counters := rfl
@[simp] theorem State.setPort_coreOf (p : PortNum) (x : Port) (c' : CoreNum) : (s.setPort p x).core c' = s.core c' := rfl
@[simp] theorem State.setPort_regionOf (p : PortNum) (x : Port) (r' : RegionNum) : (s.setPort p x).region r' = s.region r' := rfl
@[simp] theorem State.setPort_nicheOf (p : PortNum) (x : Port) (n' : NicheNum) : (s.setPort p x).niche n' = s.niche n' := rfl
@[simp] theorem State.setPort_queueOf (p : PortNum) (x : Port) (q' : QueueNum) : (s.setPort p x).queue q' = s.queue q' := rfl
@[simp] theorem State.setPort_launchOf (p : PortNum) (x : Port) (l' : Nat) : (s.setPort p x).launch? l' = s.launch? l' := rfl
@[simp] theorem State.setPort_maqOf (p : PortNum) (x : Port) (n' : NicheNum) (m' : BitVec 12) : (s.setPort p x).maq? n' m' = s.maq? n' m' := rfl

/-! ### updPort -/

@[simp] theorem State.updPort_pending (p : PortNum) (f : Port → Port) : (s.updPort p f).pending = s.pending := rfl
@[simp] theorem State.updPort_fresh (p : PortNum) (f : Port → Port) : (s.updPort p f).fresh = s.fresh := rfl
@[simp] theorem State.updPort_order (p : PortNum) (f : Port → Port) : (s.updPort p f).order = s.order := rfl
@[simp] theorem State.updPort_ns (p : PortNum) (f : Port → Port) : (s.updPort p f).ns = s.ns := rfl
@[simp] theorem State.updPort_disc (p : PortNum) (f : Port → Port) : (s.updPort p f).disc = s.disc := rfl
@[simp] theorem State.updPort_tl (p : PortNum) (f : Port → Port) : (s.updPort p f).tl = s.tl := rfl
@[simp] theorem State.updPort_mem (p : PortNum) (f : Port → Port) : (s.updPort p f).mem = s.mem := rfl
@[simp] theorem State.updPort_hostMem (p : PortNum) (f : Port → Port) : (s.updPort p f).hostMem = s.hostMem := rfl
@[simp] theorem State.updPort_cores (p : PortNum) (f : Port → Port) : (s.updPort p f).cores = s.cores := rfl
@[simp] theorem State.updPort_regions (p : PortNum) (f : Port → Port) : (s.updPort p f).regions = s.regions := rfl
@[simp] theorem State.updPort_niches (p : PortNum) (f : Port → Port) : (s.updPort p f).niches = s.niches := rfl
@[simp] theorem State.updPort_place (p : PortNum) (f : Port → Port) : (s.updPort p f).place = s.place := rfl
@[simp] theorem State.updPort_saved (p : PortNum) (f : Port → Port) : (s.updPort p f).saved = s.saved := rfl
@[simp] theorem State.updPort_rels (p : PortNum) (f : Port → Port) : (s.updPort p f).rels = s.rels := rfl
@[simp] theorem State.updPort_fe (p : PortNum) (f : Port → Port) : (s.updPort p f).fe = s.fe := rfl
@[simp] theorem State.updPort_qcl (p : PortNum) (f : Port → Port) : (s.updPort p f).qcl = s.qcl := rfl
@[simp] theorem State.updPort_err (p : PortNum) (f : Port → Port) : (s.updPort p f).err = s.err := rfl
@[simp] theorem State.updPort_pat (p : PortNum) (f : Port → Port) : (s.updPort p f).pat = s.pat := rfl
@[simp] theorem State.updPort_boot (p : PortNum) (f : Port → Port) : (s.updPort p f).boot = s.boot := rfl
@[simp] theorem State.updPort_pins (p : PortNum) (f : Port → Port) : (s.updPort p f).pins = s.pins := rfl
@[simp] theorem State.updPort_frzCap (p : PortNum) (f : Port → Port) : (s.updPort p f).frzCap = s.frzCap := rfl
@[simp] theorem State.updPort_counters (p : PortNum) (f : Port → Port) : (s.updPort p f).counters = s.counters := rfl
@[simp] theorem State.updPort_coreOf (p : PortNum) (f : Port → Port) (c' : CoreNum) : (s.updPort p f).core c' = s.core c' := rfl
@[simp] theorem State.updPort_regionOf (p : PortNum) (f : Port → Port) (r' : RegionNum) : (s.updPort p f).region r' = s.region r' := rfl
@[simp] theorem State.updPort_nicheOf (p : PortNum) (f : Port → Port) (n' : NicheNum) : (s.updPort p f).niche n' = s.niche n' := rfl
@[simp] theorem State.updPort_queueOf (p : PortNum) (f : Port → Port) (q' : QueueNum) : (s.updPort p f).queue q' = s.queue q' := rfl
@[simp] theorem State.updPort_launchOf (p : PortNum) (f : Port → Port) (l' : Nat) : (s.updPort p f).launch? l' = s.launch? l' := rfl
@[simp] theorem State.updPort_maqOf (p : PortNum) (f : Port → Port) (n' : NicheNum) (m' : BitVec 12) : (s.updPort p f).maq? n' m' = s.maq? n' m' := rfl

/-! ### mapPorts -/

@[simp] theorem State.mapPorts_pending (f : Nat → Port → Port) : (s.mapPorts f).pending = s.pending := rfl
@[simp] theorem State.mapPorts_fresh (f : Nat → Port → Port) : (s.mapPorts f).fresh = s.fresh := rfl
@[simp] theorem State.mapPorts_order (f : Nat → Port → Port) : (s.mapPorts f).order = s.order := rfl
@[simp] theorem State.mapPorts_ns (f : Nat → Port → Port) : (s.mapPorts f).ns = s.ns := rfl
@[simp] theorem State.mapPorts_disc (f : Nat → Port → Port) : (s.mapPorts f).disc = s.disc := rfl
@[simp] theorem State.mapPorts_tl (f : Nat → Port → Port) : (s.mapPorts f).tl = s.tl := rfl
@[simp] theorem State.mapPorts_mem (f : Nat → Port → Port) : (s.mapPorts f).mem = s.mem := rfl
@[simp] theorem State.mapPorts_hostMem (f : Nat → Port → Port) : (s.mapPorts f).hostMem = s.hostMem := rfl
@[simp] theorem State.mapPorts_cores (f : Nat → Port → Port) : (s.mapPorts f).cores = s.cores := rfl
@[simp] theorem State.mapPorts_regions (f : Nat → Port → Port) : (s.mapPorts f).regions = s.regions := rfl
@[simp] theorem State.mapPorts_niches (f : Nat → Port → Port) : (s.mapPorts f).niches = s.niches := rfl
@[simp] theorem State.mapPorts_place (f : Nat → Port → Port) : (s.mapPorts f).place = s.place := rfl
@[simp] theorem State.mapPorts_saved (f : Nat → Port → Port) : (s.mapPorts f).saved = s.saved := rfl
@[simp] theorem State.mapPorts_rels (f : Nat → Port → Port) : (s.mapPorts f).rels = s.rels := rfl
@[simp] theorem State.mapPorts_fe (f : Nat → Port → Port) : (s.mapPorts f).fe = s.fe := rfl
@[simp] theorem State.mapPorts_qcl (f : Nat → Port → Port) : (s.mapPorts f).qcl = s.qcl := rfl
@[simp] theorem State.mapPorts_err (f : Nat → Port → Port) : (s.mapPorts f).err = s.err := rfl
@[simp] theorem State.mapPorts_pat (f : Nat → Port → Port) : (s.mapPorts f).pat = s.pat := rfl
@[simp] theorem State.mapPorts_boot (f : Nat → Port → Port) : (s.mapPorts f).boot = s.boot := rfl
@[simp] theorem State.mapPorts_pins (f : Nat → Port → Port) : (s.mapPorts f).pins = s.pins := rfl
@[simp] theorem State.mapPorts_frzCap (f : Nat → Port → Port) : (s.mapPorts f).frzCap = s.frzCap := rfl
@[simp] theorem State.mapPorts_counters (f : Nat → Port → Port) : (s.mapPorts f).counters = s.counters := rfl
@[simp] theorem State.mapPorts_coreOf (f : Nat → Port → Port) (c' : CoreNum) : (s.mapPorts f).core c' = s.core c' := rfl
@[simp] theorem State.mapPorts_regionOf (f : Nat → Port → Port) (r' : RegionNum) : (s.mapPorts f).region r' = s.region r' := rfl
@[simp] theorem State.mapPorts_nicheOf (f : Nat → Port → Port) (n' : NicheNum) : (s.mapPorts f).niche n' = s.niche n' := rfl
@[simp] theorem State.mapPorts_queueOf (f : Nat → Port → Port) (q' : QueueNum) : (s.mapPorts f).queue q' = s.queue q' := rfl
@[simp] theorem State.mapPorts_launchOf (f : Nat → Port → Port) (l' : Nat) : (s.mapPorts f).launch? l' = s.launch? l' := rfl
@[simp] theorem State.mapPorts_maqOf (f : Nat → Port → Port) (n' : NicheNum) (m' : BitVec 12) : (s.mapPorts f).maq? n' m' = s.maq? n' m' := rfl

/-! ### count -/

@[simp] theorem State.count_pending (i d : Nat) : (s.count i d).pending = s.pending := rfl
@[simp] theorem State.count_fresh (i d : Nat) : (s.count i d).fresh = s.fresh := rfl
@[simp] theorem State.count_order (i d : Nat) : (s.count i d).order = s.order := rfl
@[simp] theorem State.count_ns (i d : Nat) : (s.count i d).ns = s.ns := rfl
@[simp] theorem State.count_disc (i d : Nat) : (s.count i d).disc = s.disc := rfl
@[simp] theorem State.count_tl (i d : Nat) : (s.count i d).tl = s.tl := rfl
@[simp] theorem State.count_mem (i d : Nat) : (s.count i d).mem = s.mem := rfl
@[simp] theorem State.count_hostMem (i d : Nat) : (s.count i d).hostMem = s.hostMem := rfl
@[simp] theorem State.count_cores (i d : Nat) : (s.count i d).cores = s.cores := rfl
@[simp] theorem State.count_regions (i d : Nat) : (s.count i d).regions = s.regions := rfl
@[simp] theorem State.count_niches (i d : Nat) : (s.count i d).niches = s.niches := rfl
@[simp] theorem State.count_place (i d : Nat) : (s.count i d).place = s.place := rfl
@[simp] theorem State.count_saved (i d : Nat) : (s.count i d).saved = s.saved := rfl
@[simp] theorem State.count_rels (i d : Nat) : (s.count i d).rels = s.rels := rfl
@[simp] theorem State.count_fe (i d : Nat) : (s.count i d).fe = s.fe := rfl
@[simp] theorem State.count_tr (i d : Nat) : (s.count i d).tr = s.tr := rfl
@[simp] theorem State.count_qcl (i d : Nat) : (s.count i d).qcl = s.qcl := rfl
@[simp] theorem State.count_err (i d : Nat) : (s.count i d).err = s.err := rfl
@[simp] theorem State.count_pat (i d : Nat) : (s.count i d).pat = s.pat := rfl
@[simp] theorem State.count_boot (i d : Nat) : (s.count i d).boot = s.boot := rfl
@[simp] theorem State.count_pins (i d : Nat) : (s.count i d).pins = s.pins := rfl
@[simp] theorem State.count_frzCap (i d : Nat) : (s.count i d).frzCap = s.frzCap := rfl
@[simp] theorem State.count_coreOf (i d : Nat) (c' : CoreNum) : (s.count i d).core c' = s.core c' := rfl
@[simp] theorem State.count_regionOf (i d : Nat) (r' : RegionNum) : (s.count i d).region r' = s.region r' := rfl
@[simp] theorem State.count_nicheOf (i d : Nat) (n' : NicheNum) : (s.count i d).niche n' = s.niche n' := rfl
@[simp] theorem State.count_queueOf (i d : Nat) (q' : QueueNum) : (s.count i d).queue q' = s.queue q' := rfl
@[simp] theorem State.count_launchOf (i d : Nat) (l' : Nat) : (s.count i d).launch? l' = s.launch? l' := rfl
@[simp] theorem State.count_maqOf (i d : Nat) (n' : NicheNum) (m' : BitVec 12) : (s.count i d).maq? n' m' = s.maq? n' m' := rfl
@[simp] theorem State.count_portOf (i d : Nat) (p' : PortNum) : (s.count i d).port p' = s.port p' := rfl

/-! ### scramble -/

@[simp] theorem State.scramble_pending (a n : Nat) : (s.scramble a n).pending = s.pending := rfl
@[simp] theorem State.scramble_order (a n : Nat) : (s.scramble a n).order = s.order := rfl
@[simp] theorem State.scramble_ns (a n : Nat) : (s.scramble a n).ns = s.ns := rfl
@[simp] theorem State.scramble_disc (a n : Nat) : (s.scramble a n).disc = s.disc := rfl
@[simp] theorem State.scramble_tl (a n : Nat) : (s.scramble a n).tl = s.tl := rfl
@[simp] theorem State.scramble_hostMem (a n : Nat) : (s.scramble a n).hostMem = s.hostMem := rfl
@[simp] theorem State.scramble_cores (a n : Nat) : (s.scramble a n).cores = s.cores := rfl
@[simp] theorem State.scramble_regions (a n : Nat) : (s.scramble a n).regions = s.regions := rfl
@[simp] theorem State.scramble_niches (a n : Nat) : (s.scramble a n).niches = s.niches := rfl
@[simp] theorem State.scramble_place (a n : Nat) : (s.scramble a n).place = s.place := rfl
@[simp] theorem State.scramble_saved (a n : Nat) : (s.scramble a n).saved = s.saved := rfl
@[simp] theorem State.scramble_rels (a n : Nat) : (s.scramble a n).rels = s.rels := rfl
@[simp] theorem State.scramble_fe (a n : Nat) : (s.scramble a n).fe = s.fe := rfl
@[simp] theorem State.scramble_tr (a n : Nat) : (s.scramble a n).tr = s.tr := rfl
@[simp] theorem State.scramble_qcl (a n : Nat) : (s.scramble a n).qcl = s.qcl := rfl
@[simp] theorem State.scramble_err (a n : Nat) : (s.scramble a n).err = s.err := rfl
@[simp] theorem State.scramble_pat (a n : Nat) : (s.scramble a n).pat = s.pat := rfl
@[simp] theorem State.scramble_boot (a n : Nat) : (s.scramble a n).boot = s.boot := rfl
@[simp] theorem State.scramble_pins (a n : Nat) : (s.scramble a n).pins = s.pins := rfl
@[simp] theorem State.scramble_frzCap (a n : Nat) : (s.scramble a n).frzCap = s.frzCap := rfl
@[simp] theorem State.scramble_counters (a n : Nat) : (s.scramble a n).counters = s.counters := rfl
@[simp] theorem State.scramble_coreOf (a n : Nat) (c' : CoreNum) : (s.scramble a n).core c' = s.core c' := rfl
@[simp] theorem State.scramble_regionOf (a n : Nat) (r' : RegionNum) : (s.scramble a n).region r' = s.region r' := rfl
@[simp] theorem State.scramble_nicheOf (a n : Nat) (n' : NicheNum) : (s.scramble a n).niche n' = s.niche n' := rfl
@[simp] theorem State.scramble_queueOf (a n : Nat) (q' : QueueNum) : (s.scramble a n).queue q' = s.queue q' := rfl
@[simp] theorem State.scramble_launchOf (a n : Nat) (l' : Nat) : (s.scramble a n).launch? l' = s.launch? l' := rfl
@[simp] theorem State.scramble_maqOf (a n : Nat) (n' : NicheNum) (m' : BitVec 12) : (s.scramble a n).maq? n' m' = s.maq? n' m' := rfl
@[simp] theorem State.scramble_portOf (a n : Nat) (p' : PortNum) : (s.scramble a n).port p' = s.port p' := rfl

/-! ### A part just written, and the others -/

@[simp] theorem State.core_setCore_same (c : CoreNum) (x : Core) : (s.setCore c x).core c = x := by simp [State.core, State.setCore]
@[simp] theorem State.core_updCore_same (c : CoreNum) (f : Core → Core) : (s.updCore c f).core c = f (s.core c) := by simp [State.updCore]
theorem State.core_setCore_other {c c' : CoreNum} (h : c' ≠ c) (x : Core) : (s.setCore c x).core c' = s.core c' :=
  Sparse.getD_put_other _ _ _ _ _ (fun e => h (BitVec.eq_of_toNat_eq e))
theorem State.core_updCore_other {c c' : CoreNum} (h : c' ≠ c) (f : Core → Core) : (s.updCore c f).core c' = s.core c' :=
  State.core_setCore_other s h _

@[simp] theorem State.region_setRegion_same (r : RegionNum) (x : Region) : (s.setRegion r x).region r = x := by simp [State.region, State.setRegion]
@[simp] theorem State.region_updRegion_same (r : RegionNum) (f : Region → Region) : (s.updRegion r f).region r = f (s.region r) := by simp [State.updRegion]
theorem State.region_setRegion_other {r r' : RegionNum} (h : r' ≠ r) (x : Region) : (s.setRegion r x).region r' = s.region r' :=
  Sparse.getD_put_other _ _ _ _ _ (fun e => h (BitVec.eq_of_toNat_eq e))
theorem State.region_updRegion_other {r r' : RegionNum} (h : r' ≠ r) (f : Region → Region) : (s.updRegion r f).region r' = s.region r' :=
  State.region_setRegion_other s h _

@[simp] theorem State.niche_setNiche_same (n : NicheNum) (x : Niche) : (s.setNiche n x).niche n = x := by simp [State.niche, State.setNiche]
@[simp] theorem State.niche_updNiche_same (n : NicheNum) (f : Niche → Niche) : (s.updNiche n f).niche n = f (s.niche n) := by simp [State.updNiche]
theorem State.niche_setNiche_other {n n' : NicheNum} (h : n' ≠ n) (x : Niche) : (s.setNiche n x).niche n' = s.niche n' :=
  Sparse.getD_put_other _ _ _ _ _ (fun e => h (BitVec.eq_of_toNat_eq e))
theorem State.niche_updNiche_other {n n' : NicheNum} (h : n' ≠ n) (f : Niche → Niche) : (s.updNiche n f).niche n' = s.niche n' :=
  State.niche_setNiche_other s h _

@[simp] theorem State.queue_setQueue_same (q : QueueNum) (x : Queue) : (s.setQueue q x).queue q = x := by simp [State.queue, State.setQueue]
@[simp] theorem State.queue_updQueue_same (q : QueueNum) (f : Queue → Queue) : (s.updQueue q f).queue q = f (s.queue q) := by simp [State.updQueue]
theorem State.queue_setQueue_other {q q' : QueueNum} (h : q' ≠ q) (x : Queue) : (s.setQueue q x).queue q' = s.queue q' :=
  Sparse.getD_put_other _ _ _ _ _ (fun e => h (BitVec.eq_of_toNat_eq e))
theorem State.queue_updQueue_other {q q' : QueueNum} (h : q' ≠ q) (f : Queue → Queue) : (s.updQueue q f).queue q' = s.queue q' :=
  State.queue_setQueue_other s h _

@[simp] theorem State.port_setPort_same (p : PortNum) (x : Port) : (s.setPort p x).port p = x := by simp [State.port, State.setPort]
@[simp] theorem State.port_updPort_same (p : PortNum) (f : Port → Port) : (s.updPort p f).port p = f (s.port p) := by simp [State.updPort]
theorem State.port_setPort_other {p p' : PortNum} (h : p' ≠ p) (x : Port) : (s.setPort p x).port p' = s.port p' :=
  Sparse.getD_put_other _ _ _ _ _ (fun e => h (BitVec.eq_of_toNat_eq e))
theorem State.port_updPort_other {p p' : PortNum} (h : p' ≠ p) (f : Port → Port) : (s.updPort p f).port p' = s.port p' :=
  State.port_setPort_other s h _

@[simp] theorem State.launch_setLaunch_same (l : Nat) (x : Launch) : (s.setLaunch l x).launch? l = some x := by
  simp [State.launch?, State.setLaunch]
theorem State.launch_setLaunch_other {l l' : Nat} (h : l' ≠ l) (x : Launch) : (s.setLaunch l x).launch? l' = s.launch? l' :=
  Sparse.find_put_other _ _ _ _ h
@[simp] theorem State.maq_setMaq_same (n : NicheNum) (m : BitVec 12) (x : Maquette) : (s.setMaq n m x).maq? n m = some x := by
  simp [State.maq?, State.setMaq]

end Sys2Proof.Machine
end

