-- ==== Sys2Proof/Laws/Issue.lean ====
section
/-! SUPPORT. What the issue of an instruction comes to when it takes its own effect, for the SE and for a group of the VE,
and what the shared forms of register and predicate instructions then leave. -/

namespace Sys2Proof.Machine

/-! ## Finite maps and cores updated twice -/

theorem Sparse.put_put {α : Type} (m : Sparse α) (i : Nat) (x y : α) : Sparse.put (Sparse.put m i x) i y = Sparse.put m i y := by
  induction m with
  | nil => simp [Sparse.put]
  | cons p m ih =>
    obtain ⟨k, v⟩ := p
    simp only [Sparse.put]
    split
    · simp [Sparse.put]
    · split
      · simp [Sparse.put]
      · simp [Sparse.put, *]

theorem State.setCore_setCore (s : State) (c : CoreNum) (k l : Core) : (s.setCore c k).setCore c l = s.setCore c l := by
  simp [State.setCore, Sparse.put_put]

theorem State.updCore_updCore (s : State) (c : CoreNum) (f g : Core → Core) :
    (s.updCore c f).updCore c g = s.updCore c (fun k => g (f k)) := by
  simp [State.updCore, State.setCore, State.core, Sparse.put_put]

@[simp] theorem State.updCore_core (s : State) (c : CoreNum) (f : Core → Core) : (s.updCore c f).core c = f (s.core c) := by
  simp [State.updCore, State.setCore, State.core]

/-! ## Registers that a younger instruction writes (R564) -/

@[simp] theorem State.awaits_nil (s : State) (c : CoreNum) (slot : Option (BitVec 5)) : s.awaits c slot [] = false := by
  unfold State.awaits
  cases slot <;> simp only [Bool.or_false, List.any_eq_false, List.contains_nil, Bool.and_false, Bool.or_self] <;>
    (try simp only [Bool.or_eq_false_iff, List.any_eq_false]) <;> (try constructor) <;> intros <;> (try split) <;> simp

@[simp] theorem State.overwrite_nil (s : State) (c : CoreNum) (slot : Option (BitVec 5)) (ls : List Nat) : s.overwrite c slot ls [] = s := by
  simp [State.overwrite]

/-- An overwrite of which no access is outstanding. -/
theorem State.overwrite_free {s : State} {c : CoreNum} {slot : Option (BitVec 5)} {regs : List Nat} (h : s.awaits c slot regs = false)
    (ls : List Nat) : s.overwrite c slot ls regs = s := by simp [State.overwrite, h]

@[simp] theorem State.cyclesOf_updCore (s : State) (c c' : CoreNum) (f : Core → Core) : (s.updCore c f).cyclesOf c' = s.cyclesOf c' := rfl

/-- What an overwrite can change: of its core, the registers that its loads skip and the results of the transcendental unit. -/
theorem State.overwrite_eq (s : State) (c : CoreNum) (slot : Option (BitVec 5)) (ls regs : List Nat) :
    ∃ loads xf, s.overwrite c slot ls regs = s ∨
      s.overwrite c slot ls regs = s.updCore c (fun k => { k with loads := loads, ve := { k.ve with xf := xf } }) := by
  unfold State.overwrite
  split
  · exact ⟨[], [], .inl rfl⟩
  · exact ⟨_, _, .inr rfl⟩

theorem State.overwrite_core (s : State) (c c' : CoreNum) (slot : Option (BitVec 5)) (ls regs : List Nat) :
    (s.overwrite c slot ls regs).core c' =
      { s.core c' with
        loads := ((s.overwrite c slot ls regs).core c').loads
        ve := { (s.core c').ve with xf := ((s.overwrite c slot ls regs).core c').ve.xf } } := by
  obtain ⟨l, x, h | h⟩ := s.overwrite_eq c slot ls regs
  · rw [h]
  · rw [h]
    by_cases e : c' = c
    · subst e; simp
    · have e' : (s.updCore c (fun k => { k with loads := l, ve := { k.ve with xf := x } })).core c' = s.core c' := by
        simp only [State.updCore, State.setCore, State.core]
        rw [Sparse.getD_put_other]
        intro h; exact e (BitVec.eq_of_toNat_eq h)
      rw [e']

@[simp] theorem State.overwrite_se (s : State) (c c' : CoreNum) (slot : Option (BitVec 5)) (ls regs : List Nat) :
    ((s.overwrite c slot ls regs).core c').se = (s.core c').se := by rw [State.overwrite_core]

@[simp] theorem State.overwrite_groups (s : State) (c c' : CoreNum) (slot : Option (BitVec 5)) (ls regs : List Nat) :
    ((s.overwrite c slot ls regs).core c').ve.groups = (s.core c').ve.groups := by rw [State.overwrite_core]

@[simp] theorem State.overwrite_veFlags (s : State) (c c' : CoreNum) (slot : Option (BitVec 5)) (ls regs : List Nat) :
    ((s.overwrite c slot ls regs).core c').ve.flags = (s.core c').ve.flags := by rw [State.overwrite_core]

theorem State.overwrite_other (s : State) (c c' : CoreNum) (slot : Option (BitVec 5)) (ls regs : List Nat) (h : c' ≠ c) :
    (s.overwrite c slot ls regs).core c' = s.core c' := by
  obtain ⟨l, x, e | e⟩ := s.overwrite_eq c slot ls regs
  · rw [e]
  · rw [e]; simp only [State.updCore, State.setCore, State.core]
    rw [Sparse.getD_put_other]
    intro e; exact h (BitVec.eq_of_toNat_eq e)

theorem State.overwrite_cores (s : State) (c : CoreNum) (slot : Option (BitVec 5)) (ls regs : List Nat) :
    s.overwrite c slot ls regs = { s with cores := (s.overwrite c slot ls regs).cores } := by
  obtain ⟨l, x, e | e⟩ := s.overwrite_eq c slot ls regs
  · rw [e]
  · rw [e]; rfl

/-- The loads of the other streams stay. -/
theorem State.overwrite_loads (s : State) (c : CoreNum) (slot : Option (BitVec 5)) (ls regs : List Nat) :
    ((s.overwrite c slot ls regs).core c).loads.filter (fun e => e.slot ≠ slot) = (s.core c).loads.filter (fun e => e.slot ≠ slot) := by
  unfold State.overwrite
  cases h : s.awaits c slot regs
  · simp
  · simp only [Bool.not_true, Bool.false_eq_true, if_false, State.updCore_core, ne_eq]
    induction (s.core c).loads with
    | nil => rfl
    | cons e l ih =>
      simp only [List.map_cons, List.filter_cons, ih]
      by_cases he : e.slot = slot <;> simp [he]

/-! ## Issue -/

/-- An SE instruction that takes its own effect. -/
theorem State.seIssue_go {s t : State} {c : CoreNum} {w : W64} {reads : List (Nat × Nat)} {dst : Option Nat} {eff : Bool}
    {body : State → Option State} {wait : State → State} (h : s.SeGo c w reads dst eff) (hb : body (s.overwrite c none [0] dst.toList) = some t) :
    s.seIssue c w reads dst eff body wait = .next (t.selfAdd c 2 1) := by
  obtain ⟨h1, h0, h2, h3, h4, h5, h6, h7⟩ := h
  have hu : s.regUe c reads = none := by simp [State.regUe, h7]
  have hr : s.regReplay c 0 reads = s := by
    unfold State.regReplay; split <;> simp [h6]
  simp [State.seIssue, h1, h0, h2, h3, h4, h5, hu, hr, hb]

/-- An instruction of a group that takes its own effect. -/
theorem State.veIssue_go {s t : State} {g : VeAt} {w : W64} {reads : List (Nat × Nat)} {dsts : List Nat} {eff : Bool}
    {body : State → Group → Nat → List Nat → Option State} {wait : State → Group → List Nat → State} {x : Group} {pc : Nat}
    {act : List Nat} (h : s.VeGo g w reads dsts eff x pc act)
    (hb : body ((s.over g act dsts).setGroup g.core g.slot.toNat x) x pc act = some t) :
    s.veIssue g w reads dsts eff body wait = .next (t.veIssued g act.length) := by
  obtain ⟨⟨x0, y, lanes, h1, h2, h0, h3, h4, h5⟩, hs, hf, hl, h6, h7⟩ := h
  have hu : s.regUe g.core reads = none := by simp [State.regUe, h7]
  have hr : s.regReplay g.core 1 reads = s := by
    unfold State.regReplay; split <;> simp [h6]
  subst h4 h5
  have hs' : (lanes.filter (y.test w)).isEmpty = false := by simpa [List.isEmpty_eq_false_iff] using hs
  simp only [State.over] at hb
  simp [State.veIssue, h1, h2, h0, h3, hs', hf, hl, hu, hr, hb]

/-- A register instruction of the SE. -/
theorem State.seReg_go {s : State} {c : CoreNum} {w : W64} {reads : List (Nat × Nat)} {d : Nat} (f : Se → W64 × Byte)
    (h : s.SeGo c w reads (some d) false) : s.seReg c w reads d f = .next (s.seDone c d (f (s.core c).se).1 (f (s.core c).se).2) := by
  refine (State.seIssue_go h (by exact rfl)).trans ?_
  simp only [State.seResult, State.selfAdd, State.updCore_updCore, State.seDone, State.overwrite_se, Option.toList]
  congr 1; congr 1; funext k
  simp only [Se.setReg]; split <;> rfl

/-- A predicate instruction of the SE. -/
theorem State.sePred_go {s : State} {c : CoreNum} {w : W64} {reads : List (Nat × Nat)} {d : Nat} (f : Se → Bool)
    (h : s.SeGo c w reads none false) : s.sePred c w reads d f = .next (s.sePredDone c d (f (s.core c).se)) := by
  refine (State.seIssue_go h (by exact rfl)).trans ?_
  simp only [State.sePredResult, State.selfAdd, State.updCore_updCore, State.sePredDone, Option.toList, State.overwrite_nil]

theorem State.setGroup_veIssued (s : State) (g : VeAt) (x y : Group) (fl : Byte) (n : Nat) :
    (((s.setGroup g.core g.slot.toNat x).veFlags g.core fl).setGroup g.core g.slot.toNat y).veIssued g n = s.veDone g y fl n := by
  simp only [State.veIssued, State.setGroup, State.veFlags, State.selfAdd, State.updCore_updCore, State.veDone]
  congr 1; funext k
  simp [Sparse.put_put, State.cyclesOf_updCore]

theorem State.setGroup_veIssued' (s : State) (g : VeAt) (x y : Group) (n : Nat) :
    ((s.setGroup g.core g.slot.toNat x).setGroup g.core g.slot.toNat y).veIssued g n = s.veDone g y 0 n := by
  simp only [State.veIssued, State.setGroup, State.selfAdd, State.updCore_updCore, State.veDone]
  congr 1; funext k
  simp [Sparse.put_put, State.cyclesOf_updCore]

/-- A register instruction of the VE. -/
theorem State.veLanes_go {s : State} {g : VeAt} {w : W64} {reads : List (Nat × Nat)} {d : Nat} (f : Group → Nat → W32 × Byte)
    {x : Group} {pc : Nat} {act : List Nat} (h : s.VeGo g w reads [d] false x pc act) :
    s.veLanes g w reads d f =
      .next ((s.over g act [d]).veDone g ((x.writeLanes act d (fun l => (f x l).1)).advance act) (act.foldl (fun a l => a ||| (f x l).2) 0) act.length) := by
  refine (State.veIssue_go h (by exact rfl)).trans ?_
  rw [State.veNext, State.setGroup_veIssued]

/-- A predicate instruction of the VE. -/
theorem State.vePreds_go {s : State} {g : VeAt} {w : W64} {reads : List (Nat × Nat)} {d : Nat} (f : Group → Nat → Bool)
    {x : Group} {pc : Nat} {act : List Nat} (h : s.VeGo g w reads [] false x pc act) :
    s.vePreds g w reads d f = .next (s.veDone g ((x.writePreds act d (f x)).advance act) 0 act.length) := by
  refine (State.veIssue_go h (by exact rfl)).trans ?_
  rw [State.veNext, State.setGroup_veIssued', State.over, State.overwrite_nil]

/-- The rounding of an element does not depend on the accesses outstanding. -/
theorem State.laneMode_over (s : State) (g : VeAt) (act regs : List Nat) (c : CoreNum) (x : Group) (f : RFmt) (l e : Nat) :
    (s.over g act regs).laneMode c x f l e = s.laneMode c x f l e := by
  unfold State.laneMode State.blockOf State.over
  rw [State.overwrite_core s g.core c]
  rfl

/-- The rounding of an element does not depend on the groups. -/
theorem State.laneMode_setGroup (s : State) (c : CoreNum) (i : Nat) (z x : Group) (f : RFmt) (l e : Nat) :
    (s.setGroup c i z).laneMode c x f l e = s.laneMode c x f l e := by
  unfold State.laneMode State.blockOf State.setGroup
  simp only [State.updCore_core, Ve.seed]

/-- A rounding instruction of the VE. -/
theorem State.veRound_go {s : State} {g : VeAt} {w : W64} {reads : List (Nat × Nat)} {f : RFmt} {n : Nat}
    (op : Group → Nat → (Nat → RMode) → W32 × Byte) {x : Group} {pc : Nat} {act : List Nat}
    (h : s.VeGo g w reads [f.dst.toNat] false x pc act) :
    s.veRound g w reads f n op =
      .next ((s.over g act [f.dst.toNat]).veDone g (((x.writeLanes act f.dst.toNat (fun l => (op x l (s.laneMode g.core x f l)).1)).srAdvance act f n).advance act)
        (act.foldl (fun a l => a ||| (op x l (s.laneMode g.core x f l)).2) 0) act.length) := by
  refine (State.veIssue_go h (by exact rfl)).trans ?_
  have e : ∀ l, ((s.over g act [f.dst.toNat]).setGroup g.core g.slot.toNat x).laneMode g.core x f l = s.laneMode g.core x f l :=
    fun l => funext fun i => (State.laneMode_setGroup _ g.core _ x x f l i).trans (State.laneMode_over s g act _ g.core x f l i)
  simp only [e, State.veNext, State.setGroup_veIssued, List.foldl_map, Group.writeLanes]

/-- An instruction of either engine that takes its own effect. -/
theorem State.memIssue_go {s s0 u : State} {t : Strm} {w : W64} {reads : List (Nat × Nat)} {dsts : List Nat} {eff : Bool}
    {body : State → Nat → List Nat → Option State} {wait : State → List Nat → State} {pc : Nat} {ls : List Nat}
    (h : s.StrmGo t w reads dsts eff s0 pc ls) (hb : body s0 pc ls = some u) :
    s.memIssue t w reads dsts eff body wait = .next (u.counted t ls) := by
  cases t with
  | se c =>
    obtain ⟨h, rfl, rfl, rfl⟩ := h
    exact State.seIssue_go (body := fun s => body s (s.core c).se.pc.toNat [0]) (wait := fun s => wait s [0]) h
      (by simpa only [State.overwrite_se] using hb)
  | ve g =>
    obtain ⟨x, h, rfl⟩ := h
    exact State.veIssue_go (body := fun s _ pc act => body s pc act) (wait := fun s _ act => wait s act) h hb

/-! ## Registers and threads of a group -/

theorem Group.reg_setReg_same (x : Group) (l i : Nat) (v : W32) : (x.setReg l i v).reg l i = v := by
  simp [Group.reg, Group.setReg]

theorem Group.reg_setReg_other (x : Group) (l i l' i' : Nat) (v : W32) (hi : i < 256) (hi' : i' < 256) (h : l' ≠ l ∨ i' ≠ i) :
    (x.setReg l i v).reg l' i' = x.reg l' i' := by
  simp only [Group.reg, Group.setReg]
  rw [Sparse.getD_put_other _ _ _ _ _ (by omega)]

theorem Group.thread_setReg (x : Group) (l i : Nat) (v : W32) (l' : Nat) : (x.setReg l i v).thread l' = x.thread l' := rfl

theorem Group.writeLanes_reg (x : Group) (act : List Nat) (d : Nat) (v : Nat → W32) (hd : d < 256) (l r : Nat) (hr : r < 256) :
    (x.writeLanes act d v).reg l r = if l ∈ act ∧ r = d then v l else x.reg l r := by
  unfold Group.writeLanes
  induction act generalizing x with
  | nil => simp
  | cons a act ih =>
    rw [List.foldl_cons, ih]
    by_cases h1 : l ∈ act ∧ r = d
    · rw [if_pos h1, if_pos ⟨List.mem_cons_of_mem _ h1.1, h1.2⟩]
    · rw [if_neg h1]
      by_cases h2 : l = a ∧ r = d
      · obtain ⟨rfl, rfl⟩ := h2; rw [Group.reg_setReg_same, if_pos (by simp)]
      · rw [Group.reg_setReg_other _ _ _ _ _ _ hd hr (by omega), if_neg]
        rintro ⟨h3, h4⟩
        rcases List.mem_cons.mp h3 with h5 | h5
        · exact h2 ⟨h5, h4⟩
        · exact h1 ⟨h5, h4⟩

theorem Group.writeLanes_thread (x : Group) (act : List Nat) (d : Nat) (v : Nat → W32) (l : Nat) :
    (x.writeLanes act d v).thread l = x.thread l ∧ (x.writeLanes act d v).threads = x.threads := by
  unfold Group.writeLanes
  induction act generalizing x with
  | nil => exact ⟨rfl, rfl⟩
  | cons a act ih => exact ih _

theorem Group.mapLanes_reg (x : Group) (act : List Nat) (f : Nat → Thread → Thread) (l r : Nat) : (x.mapLanes act f).reg l r = x.reg l r := by
  unfold Group.mapLanes
  induction act generalizing x with
  | nil => rfl
  | cons a act ih => exact (ih _).trans rfl

theorem Group.thread_updThread (x : Group) (l : Nat) (f : Thread → Thread) (l' : Nat) (h : l < x.threads.length) :
    (x.updThread l f).thread l' = if l' = l then f (x.thread l) else x.thread l' := by
  simp only [Group.updThread, Group.thread, List.getD_eq_getElem?_getD, List.getElem?_set]
  by_cases e : l' = l
  · subst e; simp [h]
  · rw [if_neg e, if_neg (Ne.symm e)]

theorem Group.mapLanes_thread (x : Group) (act : List Nat) (f : Nat → Thread → Thread) (hn : act.Nodup)
    (hl : ∀ l ∈ act, l < x.threads.length) (l : Nat) :
    (x.mapLanes act f).thread l = if l ∈ act then f l (x.thread l) else x.thread l := by
  unfold Group.mapLanes
  induction act generalizing x with
  | nil => simp
  | cons a act ih =>
    have ha : a < x.threads.length := hl a (by simp)
    have hn' := List.nodup_cons.mp hn
    rw [List.foldl_cons, ih _ hn'.2 (fun l h => by simpa [Group.updThread] using hl l (by simp [h]))]
    rw [Group.thread_updThread _ _ _ _ ha]
    by_cases e : l = a
    · subst e; simp [hn'.1]
    · simp [e]

end Sys2Proof.Machine
end

