-- ==== Sys2Proof/Laws/Frieze.lean ====
section
/-! SUPPORT. What a Frieze event can do: it writes records to memory, the state of the region buffers and the two record
counters, and nothing else. -/

namespace Sys2Proof.Machine

/-- `t` is `s` but for memory, the regions and the global counters; of a region, only its buffer's state differs. -/
def FrzOnly (s t : State) : Prop :=
  t = { s with mem := t.mem, regions := t.regions, counters := t.counters } ∧
    ∀ q, { t.region q with frz := (s.region q).frz } = s.region q

theorem FrzOnly.refl (s : State) : FrzOnly s s := ⟨rfl, fun _ => rfl⟩

theorem FrzOnly.trans {s t u : State} (h : FrzOnly s t) (k : FrzOnly t u) : FrzOnly s u := by
  refine ⟨by rw [k.1, h.1], fun q => ?_⟩
  have h1 := h.2 q
  rw [← k.2 q] at h1
  exact h1

theorem FrzOnly.ite {s t u : State} {p : Prop} [Decidable p] (h : FrzOnly s t) (k : FrzOnly s u) : FrzOnly s (if p then t else u) := by
  split <;> assumption

theorem FrzOnly.setMem (s : State) (m : Memory) : FrzOnly s { s with mem := m } := ⟨rfl, fun _ => rfl⟩

theorem FrzOnly.setCounters (s : State) (m : Sparse W64) : FrzOnly s { s with counters := m } := ⟨rfl, fun _ => rfl⟩

theorem State.region_updRegion (s : State) (r q : RegionNum) (f : Region → Region) :
    (s.updRegion r f).region q = if q = r then f (s.region r) else s.region q := by
  unfold State.updRegion State.setRegion State.region
  split
  · rename_i h; subst h; simp
  · rename_i h
    exact Sparse.getD_put_other _ _ _ _ _ (fun e => h (BitVec.eq_of_toNat_eq e))

theorem FrzOnly.upd {s t : State} (h : FrzOnly s t) (r : RegionNum) (f : Region → Region)
    (hf : ∀ x, { f x with frz := x.frz } = x := by intro x; rfl) : FrzOnly s (t.updRegion r f) := by
  refine h.trans ⟨rfl, fun q => ?_⟩
  rw [State.region_updRegion]
  split
  · rename_i e; subst e; exact hf _
  · rfl

theorem FrzOnly.counted {s t : State} (h : FrzOnly s t) (i d : Nat) : FrzOnly s (t.count i d) := h.trans (FrzOnly.setCounters t _)

theorem FrzOnly.foldl {α : Type} {s : State} (f : State → α → State) (hf : ∀ t x, FrzOnly t (f t x)) (l : List α) (t : State)
    (h : FrzOnly s t) : FrzOnly s (l.foldl f t) := by
  induction l generalizing t with
  | nil => exact h
  | cons x l ih => exact ih _ (h.trans (hf t x))

theorem FrzOnly.move (s : State) (r : RegionNum) : FrzOnly s (s.frzMove r) := by
  unfold State.frzMove
  exact (FrzOnly.refl s).upd r _

theorem FrzOnly.put (s : State) (r : RegionNum) (x : FrzRec) : FrzOnly s (s.frzPut r x) := by
  unfold State.frzPut
  exact (((FrzOnly.move s r).trans (FrzOnly.setMem _ _)).upd r _).counted _ _

theorem FrzOnly.sync (s : State) (r : RegionNum) : FrzOnly s (s.frzSync r) := by
  unfold State.frzSync
  exact (FrzOnly.put _ _ _).upd r _

theorem FrzOnly.frozenLoss (s : State) (r : RegionNum) : FrzOnly s (s.frzFrozenLoss r) := FrzOnly.setMem s _

theorem FrzOnly.freeze (s : State) (r : RegionNum) : FrzOnly s (s.frzFreeze r) := by
  unfold State.frzFreeze
  exact ((FrzOnly.refl s).upd r _).trans (FrzOnly.frozenLoss _ _)

theorem FrzOnly.drop (s : State) (r : RegionNum) : FrzOnly s (s.frzDrop r) := by
  unfold State.frzDrop
  exact (((FrzOnly.refl s).upd r _).trans (FrzOnly.ite (FrzOnly.frozenLoss _ _) (FrzOnly.refl _))).counted _ _

theorem FrzOnly.prefix_ (s : State) (r : RegionNum) : FrzOnly s (s.frzPrefix r) := by
  unfold State.frzPrefix
  exact FrzOnly.ite (((FrzOnly.put _ _ _).upd r _).trans (FrzOnly.sync _ _)) (FrzOnly.ite (FrzOnly.sync _ _) (FrzOnly.refl s))

theorem FrzOnly.trigger1 (s : State) (r : RegionNum) (a b c : Nat) : FrzOnly s (s.frzTrigger1 r a b c) := by
  unfold State.frzTrigger1
  refine FrzOnly.ite (FrzOnly.refl s) ?_
  exact ((FrzOnly.ite (FrzOnly.sync _ _) (FrzOnly.refl s)).upd r _).trans (FrzOnly.put _ _ _)

theorem FrzOnly.trigger (s : State) (r : RegionNum) (a b : Nat) : FrzOnly s (s.frzTrigger r a b) := by
  unfold State.frzTrigger
  refine FrzOnly.ite (FrzOnly.refl s) (FrzOnly.ite ?_ (FrzOnly.trigger1 _ _ _ _ _))
  exact FrzOnly.foldl _ (fun t i => FrzOnly.ite (FrzOnly.trigger1 _ _ _ _ _) (FrzOnly.refl t)) _ _ (FrzOnly.trigger1 _ _ _ _ _)

theorem FrzOnly.typed (s : State) (r : RegionNum) (type : Nat) : FrzOnly s (s.frzTyped r type) := by
  unfold State.frzTyped
  exact FrzOnly.ite (FrzOnly.trigger _ _ _ _) (FrzOnly.refl s)

theorem FrzOnly.settle (s : State) (r : RegionNum) : FrzOnly s (s.frzSettle r) := by
  unfold State.frzSettle
  exact FrzOnly.ite (FrzOnly.freeze _ _) (FrzOnly.refl s)

theorem FrzOnly.refuse (s : State) (r : RegionNum) : FrzOnly s (s.frzRefuse r) := by
  unfold State.frzRefuse
  exact (FrzOnly.ite (FrzOnly.freeze _ _) (FrzOnly.refl s)).trans (FrzOnly.drop _ _)

theorem FrzOnly.enter (s : State) (r : RegionNum) (recs : List FrzRec) : FrzOnly s (s.frzEnter r recs) := by
  unfold State.frzEnter
  refine FrzOnly.ite ?_ (FrzOnly.refuse _ _)
  exact (FrzOnly.foldl _ (fun t x => FrzOnly.put t r x) _ _ (FrzOnly.prefix_ _ _)).trans (FrzOnly.settle _ _)

theorem FrzOnly.drain (s : State) (r : RegionNum) (n : Nat) : FrzOnly s (s.frzDrain r n) := by
  induction n generalizing s with
  | zero => exact FrzOnly.refl s
  | succ n ih =>
    unfold State.frzDrain
    split
    · exact FrzOnly.refl s
    · exact FrzOnly.ite (FrzOnly.refl s) ((((FrzOnly.refl s).upd r _).trans (FrzOnly.enter _ _ _)).trans (ih _))

theorem FrzOnly.stage (s : State) (r : RegionNum) (recs : List FrzRec) : FrzOnly s (s.frzStage r recs) := by
  unfold State.frzStage
  exact FrzOnly.ite (FrzOnly.enter _ _ _) (FrzOnly.ite ((FrzOnly.refl s).upd r _) (FrzOnly.drop _ _))

/-- An event of one or two records. -/
theorem State.frieze_only (s : State) (r : RegionNum) (type : Nat) (recs : List FrzRec) : FrzOnly s (s.frieze r type recs) := by
  unfold State.frieze
  exact ((FrzOnly.typed s r type).trans (FrzOnly.drain _ _ _)).trans (FrzOnly.stage _ _ _)

theorem State.frieze1_only (s : State) (r : RegionNum) (type core engine slot : Nat) (time w1 : W64) :
    FrzOnly s (s.frieze1 r type core engine slot time w1) := State.frieze_only _ _ _ _

theorem State.friezeWait_only (s : State) (r : RegionNum) (k type core engine slot waited : Nat) (w1 : Nat) :
    FrzOnly s (s.friezeWait r k type core engine slot waited w1) := by
  unfold State.friezeWait
  exact FrzOnly.ite (State.frieze1_only _ _ _ _ _ _ _ _) (FrzOnly.refl s)

theorem State.frzResync_only (s : State) (r : RegionNum) : FrzOnly s (s.frzResync r) := by
  unfold State.frzResync
  refine (FrzOnly.typed s r _).trans (FrzOnly.ite ?_ (FrzOnly.refuse _ _))
  exact (FrzOnly.ite (FrzOnly.sync _ _) (FrzOnly.prefix_ _ _)).trans (FrzOnly.settle _ _)

theorem FrzOnly.cores {s t : State} (h : FrzOnly s t) : t.cores = s.cores := by rw [h.1]

theorem FrzOnly.core {s t : State} (h : FrzOnly s t) (c : CoreNum) : t.core c = s.core c := by rw [h.1]; rfl

theorem FrzOnly.niches {s t : State} (h : FrzOnly s t) : t.niches = s.niches := by rw [h.1]

theorem FrzOnly.niche {s t : State} (h : FrzOnly s t) (n : NicheNum) : t.niche n = s.niche n := by rw [h.1]; rfl

theorem FrzOnly.tl {s t : State} (h : FrzOnly s t) : t.tl = s.tl := by rw [h.1]

/-- A field of a region other than its buffer is kept. -/
theorem FrzOnly.region {s t : State} (h : FrzOnly s t) (q : RegionNum) : t.region q = { s.region q with frz := (t.region q).frz } := by
  rw [← h.2 q]

end Sys2Proof.Machine
end

