-- ==== Sys2Proof/Laws/Memory.lean ====
section
/-! SUPPORT. Memory: a read after a write, and the canonical form that every operation keeps. -/

namespace Sys2Proof.Machine

/-! ## What a write leaves -/

theorem find_cellsDel_other (m : List Host.Cell) (i j : Nat) (h : j ≠ i) : Sparse.find (cellsDel m i) j = Sparse.find m j ∨
    ¬ Sparse.rising m = true := by
  by_cases hr : Sparse.rising m = true
  · left
    rw [Sparse.rising_iff] at hr
    induction m with
    | nil => simp [cellsDel, Sparse.find]
    | cons p m ih =>
      obtain ⟨k, v⟩ := p
      obtain ⟨h1, h2⟩ := List.pairwise_cons.1 hr
      simp only [cellsDel]
      split
      · rename_i e; subst e
        simp only [Sparse.find, if_neg h]
        split
        · rename_i hlt
          cases m with
          | nil => simp [Sparse.find]
          | cons q m =>
            have := h1 q (List.mem_cons_self)
            obtain ⟨k2, v2⟩ := q
            simp only at this
            have e1 : ¬ j = k2 := by omega
            have e2 : j < k2 := by omega
            simp [Sparse.find, e1, e2]
        · rfl
      · split
        · rfl
        · simp only [Sparse.find]
          rw [ih h2]
  · exact .inr hr

/-- A key below every key of a map is not in it. -/
theorem Sparse.find_none_of_lt {α : Type} (m : Sparse α) (i : Nat) (h : ∀ p ∈ m, i < p.1) : Sparse.find m i = none := by
  cases m with
  | nil => rfl
  | cons p m =>
    have h1 := h p (List.mem_cons_self)
    obtain ⟨k, v⟩ := p
    simp only at h1
    have e1 : ¬ i = k := by omega
    simp [Sparse.find, e1, h1]

theorem find_cellsDel_same (m : List Host.Cell) (i : Nat) (hr : Sparse.rising m = true) : Sparse.find (cellsDel m i) i = none := by
  rw [Sparse.rising_iff] at hr
  induction m with
  | nil => simp [cellsDel, Sparse.find]
  | cons p m ih =>
    obtain ⟨k, v⟩ := p
    obtain ⟨h1, h2⟩ := List.pairwise_cons.1 hr
    simp only [cellsDel]
    split
    · rename_i e; subst e
      exact Sparse.find_none_of_lt m i (fun q hq => h1 q hq)
    · split
      · rename_i hne hlt
        simp [Sparse.find, hne, hlt]
      · rename_i hne hlt
        simp [Sparse.find, hne, hlt, ih h2]

/-- The keys of a memory in canonical form rise. -/
theorem Memory.rising_of_wf {m : Memory} (h : m.wf = true) : Sparse.rising m.cells = true := by
  simp [Memory.wf] at h; exact h.1

@[simp] theorem Memory.setByte_havoc (m : Memory) (a : Nat) (b : Byte) : (m.setByte a b).havoc = m.havoc := by
  unfold Memory.setByte; split <;> rfl

@[simp] theorem Memory.setByte_poison (m : Memory) (a : Nat) (b : Byte) : (m.setByte a b).poison = m.poison := by
  unfold Memory.setByte; split <;> rfl

@[simp] theorem Memory.setBytes_havoc (m : Memory) (a : Nat) (bs : List Byte) : (m.setBytes a bs).havoc = m.havoc := by
  induction bs generalizing m a with
  | nil => rfl
  | cons b bs ih => simp [Memory.setBytes, ih]

@[simp] theorem Memory.setBytes_poison (m : Memory) (a : Nat) (bs : List Byte) : (m.setBytes a bs).poison = m.poison := by
  induction bs generalizing m a with
  | nil => rfl
  | cons b bs ih => simp [Memory.setBytes, ih]

/-- The byte written is read back. -/
theorem Memory.byte_setByte_same (m : Memory) (a : Nat) (b : Byte) (h : m.wf = true) : (m.setByte a b).byte a = b := by
  unfold Memory.setByte
  split
  · rename_i hz
    simp only [Bool.and_eq_true, Option.isNone_iff_eq_none, beq_iff_eq] at hz
    simp [Memory.byte, find_cellsDel_same _ _ (Memory.rising_of_wf h), Memory.unlisted, hz.1, hz.2]
  · simp [Memory.byte]

/-- Another byte stays. -/
theorem Memory.byte_setByte_other (m : Memory) (a j : Nat) (b : Byte) (h : m.wf = true) (hj : j ≠ a) : (m.setByte a b).byte j = m.byte j := by
  unfold Memory.setByte
  split
  · have := (find_cellsDel_other m.cells a j hj).resolve_right (by simpa using Memory.rising_of_wf h)
    simp [Memory.byte, this, Memory.unlisted]
  · simp [Memory.byte, Sparse.find_put_other _ _ _ _ hj, Memory.unlisted]

/-! ## The canonical form -/

theorem Memory.setByte_wf (m : Memory) (a : Nat) (b : Byte) (h : m.wf = true) : (m.setByte a b).wf = true := by
  have hr := Memory.rising_of_wf h
  simp only [Memory.wf, Bool.and_eq_true] at h
  unfold Memory.setByte
  split
  · simp only [Memory.wf, Bool.and_eq_true]
    rw [cellsDel_eq _ _ hr]
    refine ⟨Sparse.rising_filter _ _ hr, ?_⟩
    rw [List.all_eq_true]
    intro p hp
    exact List.all_eq_true.1 h.2 p (List.mem_filter.1 hp).1
  · rename_i hz
    simp only [Memory.wf, Bool.and_eq_true]
    refine ⟨Sparse.rising_put _ _ _ hr, ?_⟩
    rw [List.all_eq_true]
    intro p hp
    rcases Sparse.mem_put hp with rfl | hp
    · simp only [Bool.and_eq_true, not_and, Option.isNone_iff_eq_none, beq_iff_eq] at hz
      by_cases hn : havocSeed m.havoc a = none
      · simpa using Or.inr (hz hn)
      · simp [Option.isSome_iff_ne_none, hn]
    · exact List.all_eq_true.1 h.2 p hp

theorem Memory.setBytes_wf (m : Memory) (a : Nat) (bs : List Byte) (h : m.wf = true) : (m.setBytes a bs).wf = true := by
  induction bs generalizing m a with
  | nil => exact h
  | cons b bs ih => exact ih _ _ (Memory.setByte_wf m a b h)

@[simp] theorem Memory.wf_poison (m : Memory) (p : List Nat) : Memory.wf { m with poison := p } = m.wf := rfl

theorem Memory.addPoison_wf (m : Memory) (ws : List Nat) (h : m.wf = true) : (m.addPoison ws).wf = true := h

theorem Memory.dropPoison_wf (m : Memory) (ws : List Nat) (h : m.wf = true) : (m.dropPoison ws).wf = true := h

/-- A store changes bytes and poison bits alone. -/
theorem Memory.store_eq (m : Memory) (a : Nat) (bs : List Byte) :
    m.store a bs = { m.setBytes a bs with poison := (m.store a bs).poison } := by
  unfold Memory.store; dsimp only; split <;> rfl

theorem Memory.store_wf (m : Memory) (a : Nat) (bs : List Byte) (h : m.wf = true) : (m.store a bs).wf = true := by
  rw [Memory.store_eq]; exact Memory.setBytes_wf m a bs h

theorem Memory.merge_wf (m : Memory) (a : Nat) (bs : List Byte) (h : m.wf = true) : (m.merge a bs).wf = true :=
  Memory.setBytes_wf m a bs h

theorem Memory.setWord_wf (m : Memory) (a : Nat) (v : W64) (h : m.wf = true) : (m.setWord a v).wf = true := Memory.store_wf m a _ h

theorem Memory.scramble_wf (m : Memory) (a n seed : Nat) (h : m.wf = true) : (m.scramble a n seed).wf = true := by
  have hr := Memory.rising_of_wf h
  simp only [Memory.wf, Bool.and_eq_true] at h
  simp only [Memory.scramble, Memory.wf, Bool.and_eq_true]
  refine ⟨Sparse.rising_filter _ _ hr, ?_⟩
  rw [List.all_eq_true]
  intro p hp
  have h1 := List.all_eq_true.1 h.2 p (List.mem_filter.1 hp).1
  simp only [Bool.or_eq_true, bne_iff_ne, ne_eq] at h1 ⊢
  rcases h1 with h1 | h1
  · left
    simp only [havocSeed]
    split
    · rfl
    · exact h1
  · exact .inr h1

/-- Outside a range, the seeds are as before once the range has been cut out. -/
theorem havocSeed_cut (a n : Nat) (h : List (Nat × Nat × Nat)) (j : Nat) (hj : ¬ (a ≤ j ∧ j < a + n)) :
    havocSeed (cutRange a n h) j = havocSeed h j := by
  induction h with
  | nil => rfl
  | cons p h ih =>
    obtain ⟨b, k, sd⟩ := p
    simp only [cutRange]
    split
    · rename_i ho
      simp only [overlaps, Bool.and_eq_true, decide_eq_true_eq] at ho
      by_cases h1 : b < a <;> by_cases h2 : a + n < b + k
      · simp only [h1, h2, if_true, List.cons_append, List.nil_append, havocSeed, ih]
        split
        · rename_i h3; rw [if_pos (by omega)]
        · split
          · rename_i h3 h4; rw [if_pos (by omega)]
          · rename_i h3 h4; rw [if_neg (by omega)]
      · simp only [h1, h2, if_true, if_false, List.cons_append, List.nil_append, List.append_nil, havocSeed, ih]
        split
        · rename_i h3; rw [if_pos (by omega)]
        · rename_i h3; rw [if_neg (by omega)]
      · simp only [h1, h2, if_true, if_false, List.cons_append, List.nil_append, havocSeed, ih]
        split
        · rename_i h3; rw [if_pos (by omega)]
        · rename_i h3; rw [if_neg (by omega)]
      · simp only [h1, h2, if_false, List.nil_append, havocSeed, ih]
        rw [if_neg (by omega)]
    · simp only [havocSeed, ih]

theorem Memory.zero_wf (m : Memory) (a n : Nat) (h : m.wf = true) : (m.zero a n).wf = true := by
  have hr := Memory.rising_of_wf h
  simp only [Memory.wf, Bool.and_eq_true] at h
  simp only [Memory.zero, Memory.wf, Bool.and_eq_true]
  refine ⟨Sparse.rising_filter _ _ hr, ?_⟩
  rw [List.all_eq_true]
  intro p hp
  obtain ⟨h0, hout⟩ := List.mem_filter.1 hp
  have h1 := List.all_eq_true.1 h.2 p h0
  simp only [Bool.or_eq_true, Bool.not_eq_true', Bool.and_eq_false_iff, decide_eq_false_iff_not] at h1 hout ⊢
  rw [havocSeed_cut a n m.havoc p.1 (by omega)]
  exact h1

theorem Memory.copyFrom_wf (m src : Memory) (a b n : Nat) (h : m.wf = true) : (m.copyFrom src a b n).wf = true :=
  Memory.addPoison_wf _ _ (Memory.store_wf m b _ h)

/-! ## Reads after stores -/

theorem Memory.byte_congr {m m' : Memory} (h1 : m.cells = m'.cells) (h2 : m.havoc = m'.havoc) (a : Nat) : m.byte a = m'.byte a := by
  simp [Memory.byte, Memory.unlisted, h1, h2]

/-- A byte outside the bytes written stays. -/
theorem Memory.byte_setBytes_other (m : Memory) (a : Nat) (bs : List Byte) (j : Nat) (h : m.wf = true)
    (hj : j < a ∨ a + bs.length ≤ j) : (m.setBytes a bs).byte j = m.byte j := by
  induction bs generalizing m a with
  | nil => rfl
  | cons b bs ih =>
    simp only [Memory.setBytes]
    rw [ih _ _ (Memory.setByte_wf m a b h) (by simp at hj ⊢; omega)]
    exact Memory.byte_setByte_other m a j b h (by simp at hj; omega)

/-- The bytes written are read back. -/
theorem Memory.byte_setBytes_in (m : Memory) (a : Nat) (bs : List Byte) (i : Nat) (h : m.wf = true) (hi : i < bs.length) :
    (m.setBytes a bs).byte (a + i) = bs[i] := by
  induction bs generalizing m a i with
  | nil => simp at hi
  | cons b bs ih =>
    simp only [Memory.setBytes]
    cases i with
    | zero =>
      rw [Memory.byte_setBytes_other _ _ _ _ (Memory.setByte_wf m a b h) (by omega)]
      simpa using Memory.byte_setByte_same m a b h
    | succ i =>
      have := ih (m.setByte a b) (a + 1) i (Memory.setByte_wf m a b h) (by simpa using hi)
      simp only [List.getElem_cons_succ]
      rw [← this]; congr 1; omega

/-- A store leaves the other bytes. -/
theorem Memory.byte_store_other (m : Memory) (a : Nat) (bs : List Byte) (j : Nat) (h : m.wf = true)
    (hj : j < a ∨ a + bs.length ≤ j) : (m.store a bs).byte j = m.byte j := by
  rw [Memory.store_eq]
  exact Memory.byte_setBytes_other m a bs j h hj

/-- A store's bytes are read back. -/
theorem Memory.byte_store_in (m : Memory) (a : Nat) (bs : List Byte) (i : Nat) (h : m.wf = true) (hi : i < bs.length) :
    (m.store a bs).byte (a + i) = bs[i] := by
  rw [Memory.store_eq]
  exact Memory.byte_setBytes_in m a bs i h hi

@[simp] theorem Memory.bytes_length (m : Memory) (a n : Nat) : (m.bytes a n).length = n := by
  induction n generalizing a with
  | zero => rfl
  | succ n ih => simp [Memory.bytes, ih]

/-- The bytes of a range, one by one. -/
theorem Memory.bytes_get (m : Memory) (a n i : Nat) (hi : i < (m.bytes a n).length) : (m.bytes a n)[i] = m.byte (a + i) := by
  induction n generalizing a i with
  | zero => simp [Memory.bytes] at hi
  | succ n ih =>
    cases i with
    | zero => simp [Memory.bytes]
    | succ i =>
      simp only [Memory.bytes, List.getElem_cons_succ]
      rw [ih]; congr 1; omega

/-- A load of what was just stored. -/
theorem Memory.bytes_store_same (m : Memory) (a : Nat) (bs : List Byte) (h : m.wf = true) : (m.store a bs).bytes a bs.length = bs := by
  apply List.ext_getElem
  · simp
  · intro i h1 h2
    rw [Memory.bytes_get]
    exact Memory.byte_store_in m a bs i h h2

/-- Memory reset to zero reads zero there, and elsewhere as before. -/
theorem Memory.byte_zero_other (m : Memory) (a n j : Nat) (h : m.wf = true) (hj : ¬ (a ≤ j ∧ j < a + n)) : (m.zero a n).byte j = m.byte j := by
  have hr := Memory.rising_of_wf h
  have hf : Sparse.find (m.cells.filter (fun p => !(decide (a ≤ p.1) && decide (p.1 < a + n)))) j = Sparse.find m.cells j := by
    rw [Sparse.rising_iff] at hr
    generalize m.cells = l at hr
    clear h
    induction l with
    | nil => rfl
    | cons p l ih =>
      obtain ⟨k, v⟩ := p
      obtain ⟨h1, h2⟩ := List.pairwise_cons.1 hr
      by_cases hk : a ≤ k ∧ k < a + n
      · have hne : ¬ j = k := by omega
        simp only [List.filter_cons, hk, decide_true, Bool.and_self, Bool.not_true, Bool.false_eq_true, if_false, ih h2, Sparse.find, if_neg hne]
        split
        · rename_i hlt
          exact Sparse.find_none_of_lt l j (fun q hq => Nat.lt_trans hlt (h1 q hq))
        · rfl
      · have hk' : (!(decide (a ≤ k) && decide (k < a + n))) = true := by
          simp only [Bool.not_eq_true', Bool.and_eq_false_iff, decide_eq_false_iff_not]; omega
        simp only [List.filter_cons, hk', if_true, Sparse.find, ih h2]
  simp only [Memory.zero, Memory.byte, Memory.unlisted, hf, havocSeed_cut a n m.havoc j hj]

end Sys2Proof.Machine
end

