-- ==== Sys2Proof/WellFormed.lean ====
section
/-! DEFINITION. Which commands the outside can present at all: numbers within the part, registers accessed in whole
aligned units, packets and lines of the size their format has. `exec` is total without it. -/

namespace Sys2Proof

/-- Trestle ports are TP00 to TP35 (R23). -/
def portOk (p : PortNum) : Bool := decide (p.toNat < 36)

/-- A register access is 4 or 8 bytes at its natural alignment (R10). -/
def registerAccessOk (off : BitVec 32) (bytes : Nat) : Bool :=
  (bytes == 4 && off.toNat % 4 == 0) || (bytes == 8 && off.toNat % 8 == 0)

/-- A packet carries at most 4,096 bytes of data (table Packet header). -/
def packetOk (p : Packet) : Bool := decide (p.data.length ≤ 4096)

/-- Sixteen bulk channels carry an RDIMM of up to 256 GiB each (table of capacities, 01_package.md; R257). -/
def dimmsOk (d : List Nat) : Bool := decide (d.length ≤ 16) && d.all (fun g => decide (g ≤ 256))

/-- A host line is 64 bytes at a multiple of 64 (R460). -/
def lineOk (line : BitVec 48) : Bool := line.toNat % 64 == 0

/-- A command that the outside can present. -/
def Instr.wf : Instr → Bool
  | .registerWrite _ off bytes _ => registerAccessOk off bytes
  | .bookedSlotStart p => portOk p
  | .tlBookWrite _ ofRegion n _ _ => ofRegion || portOk n
  | .hello p _ => portOk p
  | .credit p _ _ _ _ _ => portOk p
  | .replay p _ => portOk p
  | .time p _ _ _ _ => portOk p
  | .book p _ _ _ _ _ => portOk p
  | .flitReject p => portOk p
  | .flitAccept p _ _ => portOk p
  | .retrainDone p _ => portOk p
  | .portEnable _ p _ => portOk p
  | .portRetrain _ p => portOk p
  | .read p k => portOk p && packetOk k
  | .write p k => portOk p && packetOk k
  | .atomic p k => portOk p && packetOk k
  | .resp p k => portOk p && packetOk k
  | .ack p k => portOk p && packetOk k
  | .contribPacket p k => portOk p && packetOk k
  | .fence p k => portOk p && packetOk k
  | .lease p k => portOk p && packetOk k
  | .assign p k => portOk p && packetOk k
  | .channelReclaim p _ _ => portOk p
  | .hostAccess _ _ off bytes _ =>
    (bytes == 1 || bytes == 2 || bytes == 4 || bytes == 8) && off.toNat % bytes == 0
  | .hostLineRequest line _ => lineOk line
  | .hostWriteback line data => lineOk line && data.length == 64
  | .hostRecallAnswer line => lineOk line
  | .recallTimeout line => lineOk line
  | .deviceFatalRecovery _ dimms => dimmsOk dimms
  | .reset dimms => dimmsOk dimms
  | .perstNDeassert p => dimmsOk p.dimms
  | .hbmRepair stack _ => decide (stack.toNat < 12)
  | .memoryPatrolScrub pa _ => pa.toNat % 8 == 0
  | _ => true

end Sys2Proof
end

