-- ==== Sys2Proof/Tests/Slice0.lean ====
section
/-! SUPPORT. The model's own tests: which commands are well formed, worked examples of the spec, and, for each statement that has
hypotheses, a concrete state and operands that meet them (`witness_…`). -/

namespace Sys2Proof.Tests

/-! The tests are elaborated one after another: each holds a thread of its own otherwise, and a thread costs memory. -/
set_option Elab.async false

open Sys2Proof Sys2Proof.Machine

/-! ## Small states -/

/-- A queue entry of an engine, of the kernel at address 0x1000 of niche 1. -/
def entryOf (k : Eng) : EngineEntry :=
  { kind := k, node := 0, maquette := 0, niche := 1, bank := false, super := false, word1 := 0x1000, word2 := 0x0001_0000_0000_0000,
    word3 := 0, word4 := 0, word5 := 0, bankPa := 0x1000_0000_0000, window := 0x5_0000, launch := 7, rank := 0 }

/-- A group of two threads at 0x2000, v1 to v3 of each written. -/
def grp0 : Machine.Group :=
  { regs := 16, threads := [{ pc := 0x2000 }, { pc := 0x2000 }],
    vregs := [(1, 5), (2, 7), (3, 9), (8, 0x2008), (9, 0), (257, 6), (258, 8), (259, 10), (264, 0x2008), (265, 0)] }

/-- Core C0000, in the running region RG00, with one kernel on the SE and that group on the VE; s1 is 5, s2
is 7, s4 is 0x1008. The translation cache maps 64 KiB at 0 to HBM4, uncached, and 64 KiB at 0x1_0000 to HBM4, cached. -/
def core0 : Core :=
  { se := { sregs := [(1, 5), (2, 7), (4, 0x1008), (5, 0x1_0000)], pc := 0x1000, entry := some (entryOf .se), running := true },
    ve := { entry := some (entryOf .ve), started := true, running := true, groups := [(0, grp0)], blocks := [(0, {})] },
    tc := [{ niche := 1, level := 0, va := 0, leaf := 0x1_000D }, { niche := 1, level := 0, va := 0x1_0000, leaf := 0x2_001D }],
    dc := { lfsr := 1, ready := true }, ic := { ready := true } }

/-- A device with that core, firmware running, niche 1 holding RG00 by context 0. -/
def s0 : State :=
  { disc := { mode := 2, fwReady := true, bulkGib := 64 }, pins := { perst := false },
    cores := [(0, core0)], regions := [(0, { clock := 0, holder := some (1, 0) })] }

def g0 : VeAt := { core := 0, slot := 0 }

/-- The instruction cache of the core holds a word at 0x1000, the SE's address, and at 0x2000, the group's. -/
def holding (s : State) (w : W64) : State :=
  let l (a : Nat) : CacheLine := { addr := a, data := leBytes 8 w.toNat ++ List.replicate 56 0 }
  s.updCore 0 (fun k => { k with ic := { k.ic with lines := [(0, l 0x1_2000), (128, l 0x1_1000)] } })

/-! ## Whether an instruction issues, as a Bool -/

def seGo (s : State) (c : CoreNum) (w : W64) (reads : List (Nat × Nat)) (_dst : Option Nat) (effectful : Bool) : Bool :=
  s.seReady c && s.iword (.se c) (s.core c).se.pc.toNat == some w && legal false 0 w && seTest (s.core c).se.preds w &&
    !s.awaits c none ((reads.filter (fun r => r.1 == 0)).map (·.2)) && !(effectful && s.loadsPending c none) &&
    !s.armed 2 && !s.armed 14

theorem seGo_go {s : State} {c : CoreNum} {w : W64} {reads : List (Nat × Nat)} {dst : Option Nat} {e : Bool}
    (h : seGo s c w reads dst e = true) : s.SeGo c w reads dst e := by
  simp only [seGo, Bool.and_eq_true, Bool.not_eq_true'] at h
  exact ⟨h.1.1.1.1.1.1.1, by simpa using h.1.1.1.1.1.1.2, h.1.1.1.1.1.2, h.1.1.1.1.2, h.1.1.1.2, h.1.1.2, h.1.2, h.2⟩

/-- What an instruction of a group acts on, when it issues. -/
def veGo (s : State) (g : VeAt) (w : W64) (reads : List (Nat × Nat)) (_dsts : List Nat) (effectful : Bool) :
    Option (Machine.Group × Nat × List Nat) :=
  match s.veReady g with
  | none => none
  | some x0 =>
    match x0.choose with
    | none => none
    | some (y, pc, lanes) =>
      let act := lanes.filter (y.test w)
      if s.iword (.ve g) pc == some w && legal true y.regs w && !act.isEmpty && !s.awaits g.core (some g.slot) ((reads.filter (fun r => r.1 == 1)).map (·.2)) &&
          !(effectful && s.loadsPending g.core (some g.slot)) && !s.armed 2 && !s.armed 14
      then some (y.advance (lanes.filter (fun l => !y.test w l)), pc, act) else none

theorem veGo_go {s : State} {g : VeAt} {w : W64} {reads : List (Nat × Nat)} {dsts : List Nat} {e : Bool} {p : Machine.Group → Nat → List Nat → Bool}
    (h : (match veGo s g w reads dsts e with | some r => p r.1 r.2.1 r.2.2 | none => false) = true) :
    ∃ x pc act, s.VeGo g w reads dsts e x pc act ∧ p x pc act = true := by
  unfold veGo at h
  cases h1 : s.veReady g with
  | none => simp [h1] at h
  | some x0 =>
    cases h2 : x0.choose with
    | none => simp [h1, h2] at h
    | some r =>
      obtain ⟨y, pc, lanes⟩ := r
      simp only [h1, h2] at h
      split at h
      · rename_i r hr
        split at hr
        · rename_i hc
          cases hr
          simp only [Bool.and_eq_true, Bool.not_eq_true'] at hc
          exact ⟨_, _, _, ⟨⟨x0, y, lanes, h1, h2, by simpa using hc.1.1.1.1.1.1, hc.1.1.1.1.1.2, rfl, rfl⟩, by simpa [List.isEmpty_iff] using hc.1.1.1.1.2, hc.1.1.1.2, hc.1.1.2, hc.1.2, hc.2⟩, h⟩
        · cases hr
      · cases h

theorem seAll {s : State} {l : List W64} {rd : List (Nat × Nat)} {d : Option Nat} {e : Bool} (h : l.all (fun w => seGo (holding s w) 0 w rd d e) = true) :
    ∀ w ∈ l, (holding s w).SeGo 0 w rd d e := fun w hw => seGo_go (List.all_eq_true.mp h w hw)

/-- Every lane in `act` is a lane of the group, once. -/
def lanesOk (x : Machine.Group) (_ : Nat) (act : List Nat) : Bool := decide act.Nodup && act.all (fun l => decide (l < x.threads.length))

/-- Some group and lanes on which the word issues, the lanes those of the group. -/
theorem veAll {s : State} {l : List W64} {rd : List (Nat × Nat)} {ds : List Nat} {e : Bool}
    (h : l.all (fun w => match veGo (holding s w) g0 w rd ds e with | some r => lanesOk r.1 r.2.1 r.2.2 | none => false) = true) :
    ∀ w ∈ l, ∃ x pc act, (holding s w).VeGo g0 w rd ds e x pc act ∧ lanesOk x pc act = true :=
  fun w hw => veGo_go (List.all_eq_true.mp h w hw)

def r0 : RFmt := { pred := 0, pneg := false, dst := 3, src1 := 1, src2 := 2, src3 := 0, fmt := 0, fmt2 := 0, rnd := 0, sat := 0, flush := false, rsvd := 0 }
def i0 : IFmt := { pred := 0, pneg := false, dst := 3, src1 := 1, imm := 16 }
def m0 : MFmt := { pred := 0, pneg := false, dst := 3, src1 := 1, src2 := 2, scope := 0, size := 0, space := false, sx := false, off := 0 }

/-! ## Witnesses: the scalar engine -/

theorem witness_scalarArithmetic : ∀ w ∈ [0, 1, 2, 3, 4].map (fun fn => encR 1 fn r0), (holding s0 w).SeGo 0 w (sReads r0) (some 3) false := seAll (by decide)

theorem witness_scalarLogicShiftAndSelect :
    (∀ w ∈ [5, 6, 7, 8, 9, 10, 11, 12, 13, 14].map (fun fn => encR 1 fn r0), (holding s0 w).SeGo 0 w (sReads r0) (some 3) false) ∧
    (∀ w ∈ [encR 1 15 r0], (holding s0 w).SeGo 0 w (sReads r0 ++ [(2, 0)]) (some 3) false) := ⟨seAll (by decide), seAll (by decide)⟩

theorem witness_scalarImmediateAndCompare :
    (∀ w ∈ [0, 14].map (fun fn => encI 2 fn i0), (holding s0 w).SeGo 0 w [(0, 1)] (some 3) false) ∧
    (∀ w ∈ [0, 5].map (fun fn => encR 3 fn r0), (holding s0 w).SeGo 0 w (sReads r0) none false) ∧
    (∀ w ∈ [0, 5].map (fun fn => encI 4 fn i0), (holding s0 w).SeGo 0 w [(0, 1)] none false) ∧
    (∀ w ∈ [encI 5 0 { i0 with src1 := 0 }], (holding s0 w).SeGo 0 w [] (some 3) false) ∧
    (∀ w ∈ [encI 5 1 { i0 with src1 := 0 }], (holding s0 w).SeGo 0 w [(0, 3)] (some 3) false) :=
  ⟨seAll (by decide), seAll (by decide), seAll (by decide), seAll (by decide), seAll (by decide)⟩

theorem witness_predicateLogic :
    (∀ w ∈ [0, 1, 2, 3].map (fun fn => encR 6 fn r0), (holding s0 w).SeGo 0 w [(2, 1), (2, 2)] none false) ∧
    (∀ w ∈ [0, 1, 2, 3].map (fun fn => encR 6 fn r0), ∃ x pc act, (holding s0 w).VeGo g0 w [(2, 1), (2, 2)] [] false x pc act ∧ lanesOk x pc act = true) :=
  ⟨seAll (by decide), veAll (by decide)⟩

/-! ## Witnesses: the vector engine -/

/-- Operands in pairs. -/
def p0 : RFmt := { r0 with dst := 4, src1 := 2, src2 := 6 }
/-- Operands of one register. -/
def u0 : RFmt := { r0 with src2 := 0 }
/-- F32 operands, and H16 operands. -/
def f0 : RFmt := { r0 with fmt := 0xC }
def h0 : RFmt := { r0 with fmt := 0xA }

theorem witness_vectorInteger :
    (∀ w ∈ [0, 2, 3, 14].map (fun fn => encR 8 fn r0), ∃ x pc act, (holding s0 w).VeGo g0 w (vReads r0) [3] false x pc act ∧ lanesOk x pc act = true) ∧
    (∀ w ∈ [encR 8 15 r0], ∃ x pc act, (holding s0 w).VeGo g0 w (vReads r0 ++ [(2, 0)]) [3] false x pc act ∧ lanesOk x pc act = true) ∧
    (∀ w ∈ [0, 14].map (fun fn => encI 9 fn i0) ++ [17, 18].map (fun fn => encR 8 fn u0),
      ∃ x pc act, (holding s0 w).VeGo g0 w [(1, 1)] [3] false x pc act ∧ lanesOk x pc act = true) ∧
    (∀ w ∈ [encR 8 16 p0], ∃ x pc act, (holding s0 w).VeGo g0 w (pairRegs 2 ++ pairRegs 6) [4, 5] false x pc act ∧ lanesOk x pc act = true) :=
  ⟨veAll (by decide), veAll (by decide), veAll (by decide), veAll (by decide)⟩

theorem witness_vectorFrame : (255 : Nat) < 256 ∧ [0, 1].Nodup ∧ ∀ l ∈ [0, 1], l < grp0.threads.length := by decide

theorem witness_vectorFloat :
    (∀ w ∈ [0, 1, 2, 4, 5].map (fun fn => encR 0xA fn f0) ++ [encR 0xA 0 h0], ∃ x pc act, (holding s0 w).VeGo g0 w (vReads f0) [3] false x pc act ∧ lanesOk x pc act = true) ∧
    (∀ w ∈ [encR 0xA 3 f0], ∃ x pc act, (holding s0 w).VeGo g0 w (vReads f0 ++ [(1, 0)]) [3] false x pc act ∧ lanesOk x pc act = true) ∧
    (∀ w ∈ [6, 7].map (fun fn => encR 0xA fn { f0 with src2 := 0 }), ∃ x pc act, (holding s0 w).VeGo g0 w [(1, 1)] [3] false x pc act ∧ lanesOk x pc act = true) :=
  ⟨veAll (by decide), veAll (by decide), veAll (by decide)⟩

theorem witness_vectorCompareAndConvert :
    (∀ w ∈ [0, 5].map (fun fn => encR 0xB fn r0) ++ [8, 11].map (fun fn => encR 0xB fn f0),
      ∃ x pc act, (holding s0 w).VeGo g0 w (vReads r0) [] false x pc act ∧ lanesOk x pc act = true) ∧
    (∀ w ∈ [encR 0xC 0 { f0 with src2 := 0, fmt2 := 0xA }], ∃ x pc act, (holding s0 w).VeGo g0 w [(1, 1)] [3] false x pc act ∧ lanesOk x pc act = true) :=
  ⟨veAll (by decide), veAll (by decide)⟩

/-- The device with a slice of group 0 in the transcendental unit. -/
def sXf : State := s0.setCore 0 { core0 with ve := { core0.ve with xf := [{ slot := 0, dst := 3, results := [(0, 1)], flags := 0 }] } }

theorem witness_transcendentalUnit :
    (∀ w ∈ [0, 1, 2, 3, 4, 5, 6].map (fun fn => encR 0xD fn { f0 with src2 := 0 }),
      ∃ x pc act, (holding s0 w).VeGo g0 w [(1, 1)] [3] false x pc act ∧ lanesOk x pc act = true) ∧
    ((sXf.core 0).ve.xf ≠ [] ∧ sXf.clocked 0 = true ∧ (sXf.group 0 0).isSome = true) := ⟨veAll (by decide), by decide⟩

theorem witness_vectorLanes :
    (∀ w ∈ [encI 0xF 0 { i0 with src1 := 0 }] ++ [0, 1, 2, 3, 4, 5, 6].map (fun k => encR 0xE 3 { r0 with src1 := 0, src2 := BitVec.ofNat 8 k }),
      ∃ x pc act, (holding s0 w).VeGo g0 w [] [3] false x pc act ∧ lanesOk x pc act = true) ∧
    (∀ w ∈ [encR 0xE 0 r0], ∃ x pc act, (holding s0 w).VeGo g0 w (vReads r0) [3] false x pc act ∧ lanesOk x pc act = true) ∧
    (∀ w ∈ [encR 0xE 1 u0], ∃ x pc act, (holding s0 w).VeGo g0 w [(1, 1)] [3] false x pc act ∧ lanesOk x pc act = true) ∧
    (∀ w ∈ [encR 0xE 2 u0], ∃ x pc act, (holding s0 w).VeGo g0 w [(2, 1)] [3] false x pc act ∧ lanesOk x pc act = true) ∧
    (s0.core 0).ve.entry = some (entryOf .ve) := ⟨veAll (by decide), veAll (by decide), veAll (by decide), veAll (by decide), by decide⟩

/-! ## Witnesses: control and system instructions -/

/-- No field but OP and FN; a target in s4 (v8); a link in s6 (v6, v7). -/
def i1 : IFmt := { i0 with dst := 0, src1 := 0, imm := 0 }
def jr : IFmt := { i1 with src1 := 4 }
def jv : IFmt := { i1 with src1 := 8 }

/-- Every active lane's target in v8 and v9 is a legal one. -/
def goodTargets (x : Machine.Group) (_ : Nat) (act : List Nat) : Bool := act.all (fun l => fld (x.pair l 8) 57 7 == 0 && (x.pair l 8).toNat % 8 == 0)

theorem witness_branchesAndJumps :
    (∀ w ∈ [encI 0x10 0 { i1 with imm := -1 }], (holding s0 w).SeGo 0 w [] none false) ∧
    (∀ w ∈ [encI 0x10 1 { i1 with dst := 6, imm := 4 }], (holding s0 w).SeGo 0 w [] (some 6) false) ∧
    (∀ w ∈ [encI 0x10 2 jr], (holding s0 w).SeGo 0 w [(0, 4)] none false) ∧
    (∀ w ∈ [encI 0x10 3 { jr with dst := 6 }], (holding s0 w).SeGo 0 w [(0, 4)] (some 6) false) ∧
    (fld ((s0.core 0).se.reg 4) 57 7 = 0 ∧ ((s0.core 0).se.reg 4).toNat % 8 = 0) ∧
    (∀ w ∈ [encI 0x10 0 i1], ∃ x pc act, (holding s0 w).VeGo g0 w [] [] false x pc act ∧ lanesOk x pc act = true) ∧
    (∀ w ∈ [encI 0x10 1 { i1 with dst := 6 }], ∃ x pc act, (holding s0 w).VeGo g0 w [] [6, 7] false x pc act ∧ lanesOk x pc act = true) ∧
    (∃ x pc act, (holding s0 (encI 0x10 2 jv)).VeGo g0 (encI 0x10 2 jv) [(1, 8), (1, 9)] [] false x pc act ∧ goodTargets x pc act = true) ∧
    (∃ x pc act, (holding s0 (encI 0x10 3 { jv with dst := 6 })).VeGo g0 (encI 0x10 3 { jv with dst := 6 }) [(1, 8), (1, 9)] [6, 7] false x pc act ∧ goodTargets x pc act = true) :=
  ⟨seAll (by decide), seAll (by decide), seAll (by decide), seAll (by decide), by decide, veAll (by decide), veAll (by decide),
    veGo_go (by decide), veGo_go (by decide)⟩

/-- The device whose group has its second thread elsewhere. -/
def sTwo : State := s0.setCore 0 { core0 with ve := { core0.ve with groups := [(0, { grp0 with threads := [{ pc := 0x2000 }, { pc := 0x2010 }] })] } }

theorem arrived_no {x : Machine.Group} (h : x.threads.all (fun t => t.arrived == .no) = true) : ∀ l, (x.thread l).arrived = .no := by
  intro l
  unfold Group.thread
  rw [List.getD_eq_getElem?_getD]
  cases hl : x.threads[l]? with
  | none => rfl
  | some t => simpa using List.all_eq_true.mp h t (List.mem_of_getElem? hl)

/-- Lanes of the group, not all of those that live, and none at a barrier. -/
def leavesOthers (x : Machine.Group) (pc : Nat) (act : List Nat) : Bool :=
  lanesOk x pc act && (List.range 32).any (fun l => !act.contains l && !(x.thread l).exited) && x.threads.all (fun t => t.arrived == .no)

theorem witness_exitBreakAndIllegal :
    (∀ w ∈ [encI 0x10 4 i1, encI 0x3C 4 { i1 with imm := 0xFFFF }], (holding s0 w).SeGo 0 w [] none true) ∧ (∀ w, (holding s0 w).storesPending 0 none = false ∧ (holding s0 w).farStores 0 none = false ∧ (holding s0 w).olderPending 0 none = false) ∧
    (∃ x pc act, (holding sTwo (encI 0x10 4 i1)).VeGo g0 (encI 0x10 4 i1) [] [] true x pc act ∧ leavesOthers x pc act = true) ∧
    (∀ p ∈ (sTwo.core 0).ve.groups, ∀ l, (p.2.thread l).arrived = .no) ∧
    ((holding s0 0).seReady 0 = true ∧ legal false 0 0 = false ∧ (holding s0 0).iword (.se 0) 0x1000 = some 0) ∧
    (∀ w ∈ [encI 0x3C 4 { i1 with imm := 0xFFFF }], ∃ x pc act, (holding s0 w).VeGo g0 w [] [] true x pc act ∧ lanesOk x pc act = true) ∧
    (∀ w, (holding s0 w).storesPending 0 (some 0) = false ∧ (holding s0 w).farStores 0 (some 0) = false ∧ (holding s0 w).olderPending 0 (some 0) = false) ∧
    (∃ x0 x pc lanes, (holding s0 0).veReady g0 = some x0 ∧ x0.choose = some (x, pc, lanes) ∧
      (holding s0 0).iword (.ve g0) pc = some 0 ∧ legal true x0.regs 0 = false) :=
  ⟨seAll (by decide), fun _ => ⟨rfl, rfl, rfl⟩, veGo_go (by decide), fun p hp => by
      have : p = (0, { grp0 with threads := [{ pc := 0x2000 }, { pc := 0x2010 }] }) := List.mem_singleton.mp hp
      subst this; exact arrived_no (by decide), by decide, veAll (by decide), fun _ => ⟨rfl, rfl, rfl⟩,
    ⟨_, _, _, _, rfl, rfl, by decide, by decide⟩⟩

theorem witness_systemReads :
    (∀ w ∈ [0, 3].map (fun fn => encI 0x3C fn { i1 with dst := 4 }), (holding s0 w).SeGo 0 w [] (some 4) false) ∧
    (∀ w ∈ [encI 0x3C 1 { i1 with dst := 4 }], (holding s0 w).SeGo 0 w [] (some 4) true) ∧
    (∀ w ∈ [encI 0x3C 2 { i1 with imm := 0xFF }], (holding s0 w).SeGo 0 w [] none true) ∧
    (∀ w ∈ [0, 3].map (fun fn => encI 0x3C fn { i1 with dst := 4 }), ∃ x pc act, (holding s0 w).VeGo g0 w [] [4, 5] false x pc act ∧ lanesOk x pc act = true) ∧
    (∀ w ∈ [encI 0x3C 1 { i1 with dst := 4 }], ∃ x pc act, (holding s0 w).VeGo g0 w [] [4] true x pc act ∧ lanesOk x pc act = true) ∧
    (∀ w, (∀ z ∈ ((holding s0 w).core 0).ve.xf, z.slot ≠ g0.slot ∧ z.flags = 0) ∧ (∀ z ∈ ((holding s0 w).core 0).loads, z.atom = none)) ∧
    (∀ w ∈ [encI 0x3C 2 { i1 with imm := 0xFF }], ∃ x pc act, (holding s0 w).VeGo g0 w [] [] true x pc act ∧ lanesOk x pc act = true) :=
  ⟨seAll (by decide), seAll (by decide), seAll (by decide), veAll (by decide), veAll (by decide), fun _ => ⟨fun _ h => (List.not_mem_nil h).elim, fun _ h => (List.not_mem_nil h).elim⟩, veAll (by decide)⟩

/-! ## Witnesses: memory -/

/-- An access of the SE at s1 (5) in the drawer; and at s1 in the uncached page, at s5 (0x1_0000) in the cached one. -/
def md : MFmt := { m0 with src2 := 0, space := true }
def mu : MFmt := { m0 with src2 := 0 }
def mc : MFmt := { mu with src1 := 5 }
/-- A store of s2. -/
def ms (f : MFmt) : MFmt := { f with dst := 0, src2 := 2 }

def sDl : State := holding s0 (encM 0x20 0 md)

theorem witness_drawerLoads :
    ((5 : Int) % 2 ≠ 0 ∧ (((0 : Int) - 1) % 1 = 0 ∧ (0 : Int) - 1 < 0) ∧ ((0x2_0000 : Int) % 8 = 0 ∧ (0x2_0000 : Int) ≤ 0x2_0000) ∧ ((0x1_FFF8 : Int) % 8 = 0 ∧ (0x1_FFF8 : Int) < 0x2_0000)) ∧
    (sDl.SeGo 0 (encM 0x20 0 md) [(0, 1)] (some 3) false ∧ md.space = true ∧ sDl.bulkOk ∧ bit sDl.err.inject 0 = false ∧
      sDl.mem.poisoned (drawerBase 0 + 5) 1 = false ∧ (sDl.core 0).loads = [] ∧ (sDl.core 0).se.buffer = [] ∧ (sDl.core 0).storesOut = [] ∧ (sDl.core 0).pathBad = 0) :=
  ⟨by decide, seGo_go (by decide), by decide, by unfold State.bulkOk; decide, by decide, by decide, by decide, by decide, by decide, by decide⟩

theorem witness_homeAccess :
    s0.mem.wf = true ∧ bit s0.err.inject 0 = false ∧
    ∀ a ∈ [0, 0x8F_FFFF_FFFF, 0x1000_0000_0000, 0x100F_FFFF_FFFF, 0x2000_0000_0000, 0x2000_7FFF_FFFF, 0x2100_0000_0000, 0x2100_3FFF_FFFF],
      (s0.classOf a).isMemory = true := by decide

def sIs : State := holding s0 (encM 0x21 0 (ms md))

theorem witness_storeIssue :
    sIs.StrmGo (.se 0) (encM 0x21 0 (ms md)) ([(0, 1)] ++ dataReads (.se 0) 0 2) [] false sIs 0x1000 [0] ∧ sIs.heldBack 0 none = false ∧
    sIs.resolveAll (.se 0) (sIs.bases (.se 0) (ms md) [0]) 0 true 1 .store = ([(0, 2 ^ 58, .ok (.dev (drawerBase 0 + 5)) false)], sIs) ∧
    sIs.storesPending 0 none = false ∧ sIs.bufferRoom 0 none = true :=
  ⟨⟨seGo_go (by decide), rfl, rfl, rfl⟩, by decide, rfl, by decide, by decide⟩

/-- Nothing at hand, and the byte of the drawer at hand. -/
def sNone : State := holding s0 (encM 0x20 0 mu)
def sByte : State := { holding s0 (encM 0x20 0 md) with mem := { cells := [⟨drawerBase 0 + 5, 7⟩] } }

def resolved (s : State) (f : MFmt) : List (Nat × Nat × Acc) × State := s.resolveAll (.se 0) (s.bases (.se 0) f [0]) 0 f.space 1 .load
def loaded (s : State) (f : MFmt) : List (Nat × Nat × Acc × Got) × State := (resolved s f).2.loadLanes (.se 0) (resolved s f).1 1

/-- A load of a byte at hand in the drawer, and one of a byte that is not at hand. -/
theorem witness_loadIssue :
    (sByte.StrmGo (.se 0) (encM 0x20 0 md) (addrReads (.se 0) md) (dataRegs (.se 0) 0 3) false sByte 0x1000 [0] ∧ sByte.heldBack 0 none = false ∧
      (resolved sByte md).1 = [(0, 2 ^ 58, .ok (.dev (drawerBase 0 + 5)) false)] ∧ (loaded sByte md).2.isStrong (.dev (drawerBase 0 + 5)) = false ∧
      (loaded sByte md).1 = [(0, 2 ^ 58, .ok (.dev (drawerBase 0 + 5)) false, .bytes [7])] ∧ ((loaded sByte md).2.pathRead 0).1 = false) ∧
    (sNone.StrmGo (.se 0) (encM 0x20 0 mu) (addrReads (.se 0) mu) (dataRegs (.se 0) 0 3) false sNone 0x1000 [0] ∧ sNone.heldBack 0 none = false ∧
      (resolved sNone mu).1 = [(0, 5, .ok (.dev 0x1_0005) false)] ∧ (loaded sNone mu).2.isStrong (.dev 0x1_0005) = false ∧
      (loaded sNone mu).1 = [(0, 5, .ok (.dev 0x1_0005) false, .miss)]) :=
  ⟨⟨⟨seGo_go (by decide), rfl, rfl, rfl⟩, by decide +kernel⟩, ⟨seGo_go (by decide), rfl, rfl, rfl⟩, by decide⟩

/-- Stores in the buffer of the SE: to its drawer, to uncached HBM4, and to a line that the data cache holds. -/
def e1 : StoreEntry := { slot := none, lanes := [{ lane := 0, va := 0, tgt := .dev (drawerBase 0 + 0x1_FFFF), cache := false, bytes := [7] }] }
def e2 : StoreEntry := { slot := none, lanes := [{ lane := 0, va := 0, tgt := .dev 0x1_0000, cache := false, bytes := [7] }] }
/-- The second on its way. -/
def eOut : StoreEntry := { e2 with lanes := e2.lanes.map (fun x => { x with port := 1 }) }
def e3 : StoreEntry := { slot := none, lanes := [{ lane := 0, va := 0, tgt := .dev 0x2_0000, cache := true, bytes := [7] }] }
def sSt : State := s0.updCore 0 (fun k => { k with
  se := { k.se with buffer := [e1, e2, e3] }, storesOut := [eOut],
  dc := { k.dc with lines := [(0, { addr := s0.lineOf (.dev 0x2_0000), data := List.replicate 64 0 })] } })

theorem witness_storesLeaveTheBuffer :
    sSt.bulkOk ∧ (∀ e ∈ [e1, e2, e3], e.rel = none ∧ e.stat = none ∧ e.slot.isSome = false) ∧
    (∀ i < 3, sSt.mayLeave 0 ((sSt.core 0).se.buffer.take i) ([e1, e2, e3].getD i e1) = true) ∧
    (drawerBase 0 ≤ drawerBase 0 + 0x1_FFFF ∧ drawerBase 0 + 0x1_FFFF < drawerBase 0 + 0x2_0000 ∧ bit sSt.err.inject 0 = false) ∧
    (sSt.classOf 0x1_0000 ≠ .drawer ∧ sSt.transfers 0 false + e2.lanes.length ≤ 6) ∧
    ((sSt.core 0).dc.shut = false ∧ (((sSt.readSet 0 (sSt.lineOf (.dev 0x2_0000))).core 0).dc.hit (sSt.lineOf (.dev 0x2_0000))).isSome = true) ∧
    ((sSt.core 0).storesOut[0]? = some eOut ∧ sSt.drains 0 = true ∧ (∀ x ∈ eOut.lanes, sSt.lands 0 x = true) ∧ sSt.armed 11 = false ∧
      sSt.linesHeld 0x1_0000 1 true = []) :=
  ⟨by unfold State.bulkOk; decide, by decide⟩

/-- A load of a byte of uncached HBM4 outstanding. -/
def l1 : LoadEntry := { id := 0, slot := none, dst := some 3, size := 1, sx := false, pc := 0x1000,
                        lanes := [{ lane := 0, va := 5, tgt := .dev 0x1_0005, cache := false, bytes := [], port := 1 }] }
def sLd : State := s0.updCore 0 (fun k => { k with loads := [l1] })

theorem witness_loadResponse :
    (sLd.core 0).loads[0]? = some l1 ∧ sLd.drains 0 = true ∧ l1.atom = none ∧ l1.lanes.filter (fun y => y.bytes.isEmpty) = l1.lanes ∧
    (∀ y ∈ l1.lanes, y.bad = none ∧ y.port ≠ 0 ∧ sLd.lands 0 y = true) ∧
    (sLd.classOf 0x1_0005).isMemory = true ∧ sLd.linesHeld 0x1_0005 1 false = [] ∧ sLd.mem.poisoned 0x1_0005 1 = false ∧
    bit sLd.err.inject 0 = false := by decide

/-! ## Witnesses: ordering, atomics, caches, hints -/

/-- A 4-byte access at s6 in the uncached page. -/
def m4 : MFmt := { m0 with src1 := 6, src2 := 2, size := 2 }
def sAt : State := s0.updCore 0 (fun k => { k with se := { k.se with sregs := [(1, 5), (2, 7), (6, 0x100)] } })
def at4 : Tgt := .dev 0x1_0100
def resolved4 (s : State) (k : AccKind) : List (Nat × Nat × Acc) × State := s.resolveAll (.se 0) (s.bases (.se 0) m4 [0]) 0 false 4 k
def wAcq : W64 := encM 0x22 0 { m4 with src2 := 0 }
def wRel : W64 := encM 0x23 0 { m4 with dst := 0 }
/-- The word at 0x1_0100 holds 1, 2, 3, 4; and a group's store to that home is on its way before the acquire. -/
def sAcq : State := { holding sAt wAcq with mem := { cells := [⟨0x1_0100, 1⟩, ⟨0x1_0101, 2⟩, ⟨0x1_0102, 3⟩, ⟨0x1_0103, 4⟩] } }
def sBehind : State := sAcq.updCore 0 (fun k => { k with storesOut := [{ eOut with slot := some 0 }] })
def sRel : State := holding sAt wRel
def wAt (fn : Nat) : W64 := encM 0x24 fn m4

/-- A release of the SE, at SYSTEM scope with an older store before it, and at CORE scope alone, to the core's drawer. -/
def eRel (scope : BitVec 3) : StoreEntry := { e1 with rel := some scope, num := 1 }
def sWaits : State := s0.updCore 0 (fun k => { k with se := { k.se with buffer := [e2, eRel 4] } })
def sFree : State := s0.updCore 0 (fun k => { k with se := { k.se with buffer := [eRel 1] } })

theorem witness_acquireAndRelease :
    (sAcq.StrmGo (.se 0) wAcq [(0, 6)] [3] false sAcq 0x1000 [0] ∧ sBehind.StrmGo (.se 0) wAcq [(0, 6)] [3] false sBehind 0x1000 [0] ∧
      sRel.StrmGo (.se 0) wRel ([(0, 6)] ++ dataReads (.se 0) 2 2) [] false sRel 0x1000 [0]) ∧
    (sAcq.heldBack 0 none = false ∧ sBehind.heldBack 0 none = false ∧ sRel.heldBack 0 none = false) ∧
    (∀ s ∈ [sAcq, sBehind], (resolved4 s .load).1 = [(0, 0x100, .ok at4 false)] ∧ (resolved4 s .load).2.heldLines [at4] 4 false = [] ∧
      (((resolved4 s .load).2.acqLanes (.se 0) 0 (resolved4 s .load).1 4).2).isStrong at4 = false) ∧
    ((((resolved4 sAcq .load).2.acqLanes (.se 0) 0 (resolved4 sAcq .load).1 4).1.map (fun r => r.2.2.2)) = [.bytes [1, 2, 3, 4]] ∧
      (((resolved4 sAcq .load).2.acqLanes (.se 0) 0 (resolved4 sAcq .load).1 4).2.pathRead 0).1 = false ∧
      (((resolved4 sBehind .load).2.acqLanes (.se 0) 0 (resolved4 sBehind .load).1 4).1.map (fun r => r.2.2.2)) = [.miss]) ∧
    ((resolved4 sRel .store).1 = [(0, 0x100, .ok at4 false)] ∧ (resolved4 sRel .store).2.isStrong at4 = false ∧
      (resolved4 sRel .store).2.bufferRoom 0 none = true) ∧
    sWaits.releasedTo 0 none 4 1 = false ∧
    (sFree.bulkOk ∧ sFree.mayLeave 0 [] (eRel 1) = true ∧ bit sFree.err.inject 0 = false ∧
      ∀ x ∈ (eRel 1).lanes, x.cache = false ∧ x.tgt = .dev (drawerBase 0 + 0x1_FFFF)) :=
  ⟨⟨⟨seGo_go (by decide), rfl, rfl, rfl⟩, ⟨seGo_go (by decide), rfl, rfl, rfl⟩, ⟨seGo_go (by decide), rfl, rfl, rfl⟩⟩, by decide, by decide +kernel,
    by decide +kernel, by decide, by decide, by unfold State.bulkOk; decide, by decide⟩

theorem witness_mergedAtomics : s0.mem.wf = true ∧ (s0.classOf 0x8F_FFFF_FFFC).isMemory = true ∧ bit s0.err.inject 0 = false := by decide

theorem witness_atomicsAtHome :
    (∀ fn ∈ [0, 8, 10], (holding sAt (wAt fn)).StrmGo (.se 0) (wAt fn) ([(0, 6)] ++ dataReads (.se 0) 2 2 ++ []) [3] true (holding sAt (wAt fn)) 0x1000 [0]) ∧
    (holding sAt (wAt 9)).StrmGo (.se 0) (wAt 9) ([(0, 6)] ++ dataReads (.se 0) 2 2 ++ dataReads (.se 0) 2 3) [3] true (holding sAt (wAt 9)) 0x1000 [0] ∧
    (∀ fn ∈ [0, 8, 9, 10], let s := holding sAt (wAt fn)
      s.heldBack 0 none = false ∧ (resolved4 s .atomic).1 = [(0, 0x100, .ok at4 false)] ∧ bit (resolved4 s .atomic).2.err.inject 0 = false ∧
      s.bufferRoom 0 none = true ∧ (resolved4 s .atomic).2.uncachedNow 0 at4 = true ∧ (resolved4 s .atomic).2.reaches 0 at4 = true ∧
      (resolved4 s .atomic).2.isStrong at4 = false ∧ (resolved4 s .atomic).2.mem.poisoned 0x1_0100 4 = false ∧
      (resolved4 s .atomic).2.linesHeld 0x1_0100 4 true = [] ∧ (resolved4 s .atomic).2.ownStores 0 none at4 4 = false) :=
  ⟨fun fn h => ⟨seGo_go ((by decide : ∀ fn ∈ [0, 8, 10],
      seGo (holding sAt (wAt fn)) 0 (wAt fn) ([(0, 6)] ++ dataReads (.se 0) 2 2 ++ []) (some 3) true = true) fn h), rfl, rfl, rfl⟩,
    ⟨seGo_go (by decide), rfl, rfl, rfl⟩, by decide⟩

/-- The SE that lost a store to address 8. -/
def sLost : State := s0.updCore 0 (fun k => { k with se := { k.se with lost := some 8 } })
def mo : MFmt := { m0 with dst := 0, src1 := 0, src2 := 0 }

/-- The words of the barriers, and of the cache operations by line, on the whole cache and on a range. -/
def wOrd (fn : Nat) : W64 := encM 0x25 fn mo
def wLine (fn : Nat) : W64 := encM 0x26 fn { mo with src1 := 1 }
def wAll (fn : Nat) : W64 := encM 0x26 fn { mo with size := 2 }
def wRange (fn : Nat) : W64 := encM 0x26 fn { mo with src1 := 1, src2 := 2, size := 1 }

theorem witness_orderingAndCacheOperations :
    (∀ fn ∈ [0, 1, 2], (holding s0 (wOrd fn)).StrmGo (.se 0) (wOrd fn) [] [] (fn != 1) (holding s0 (wOrd fn)) 0x1000 [0]) ∧
    (∀ w, (holding s0 w).storesPending 0 none = false ∧ (holding s0 w).backsPending 0 = false ∧ (holding s0 w).lostOf (.se 0) [0] = none) ∧
    (∀ fn ∈ [1, 2], (holding sLost (wOrd fn)).lostOf (.se 0) [0] = some 8 ∧
      (((holding sLost (wOrd fn)).clearLost (.se 0) [0]).strmFault (.se 0) 0 0x1000 8 8).isSome = true ∧
      seGo (holding sLost (wOrd fn)) 0 (wOrd fn) [] none (fn != 1) = true) ∧
    (∀ w, let k := (holding s0 w).core 0; k.dc.shut = false ∧ k.buffer none = []) ∧
    (∀ fn ∈ [0, 1, 2], (holding s0 (wAll fn)).StrmGo (.se 0) (wAll fn) [] [] true (holding s0 (wAll fn)) 0x1000 [0]) ∧
    (∀ fn ∈ [0, 1, 2], (holding s0 (wLine fn)).StrmGo (.se 0) (wLine fn) [(0, 1)] [] true (holding s0 (wLine fn)) 0x1000 [0]) ∧
    (∀ fn ∈ [0, 1, 2], (holding s0 (wRange fn)).StrmGo (.se 0) (wRange fn) [(0, 1), (0, 2)] [] true (holding s0 (wRange fn)) 0x1000 [0]) ∧
    (∀ fn ∈ [0, 2], ((holding s0 (wAll fn)).cleanLines 0 (.engine false) (fun _ => true)).cleaned 0 (.engine false) (fun _ => true) = true) ∧
    (∀ fn ∈ [0, 1, 2], (match ((holding s0 (wLine fn)).laneLines 0 (cacheKind fn false) false [(0, 5)]).1 with | .ok _ => true | _ => false) = true) ∧
    (∀ fn ∈ [0, 1, 2], (match ((holding s0 (wRange fn)).rangeLines 0 (cacheKind fn false) false 2 5 7 [] none).1 with | .ok _ => true | _ => false) = true) :=
  ⟨fun fn h => ⟨seGo_go ((by decide : ∀ fn ∈ [0, 1, 2], seGo (holding s0 (wOrd fn)) 0 (wOrd fn) [] none (fn != 1) = true) fn h), rfl, rfl, rfl⟩,
    fun _ => ⟨rfl, rfl, rfl⟩, by decide, fun _ => ⟨rfl, rfl⟩,
    fun fn h => ⟨seGo_go ((by decide : ∀ fn ∈ [0, 1, 2], seGo (holding s0 (wAll fn)) 0 (wAll fn) [] none true = true) fn h), rfl, rfl, rfl⟩,
    fun fn h => ⟨seGo_go ((by decide : ∀ fn ∈ [0, 1, 2], seGo (holding s0 (wLine fn)) 0 (wLine fn) [(0, 1)] none true = true) fn h), rfl, rfl, rfl⟩,
    fun fn h => ⟨seGo_go ((by decide : ∀ fn ∈ [0, 1, 2], seGo (holding s0 (wRange fn)) 0 (wRange fn) [(0, 1), (0, 2)] none true = true) fn h), rfl, rfl, rfl⟩,
    by decide, by decide, by decide⟩

/-- A hint of the niche at an address with no translation. -/
def hint0 (fn : BitVec 5) : Hint := { fn := fn, va := 0, len := 1, region := 0 }
def sHint : State := s0.updNiche 1 (fun x => { x with hints := [hint0 0] })

def wHint (fn : Nat) : W64 := encM 0x27 fn { mo with src1 := 1, src2 := 2 }

theorem witness_hints :
    (∀ fn ∈ [0, 10], (holding s0 (wHint fn)).StrmGo (.se 0) (wHint fn) [(0, 1), (0, 2)] [] true (holding s0 (wHint fn)) 0x1000 [0]) ∧
    (sHint.niche 1).hints = [hint0 0] ∧ (sHint.walk 1 0).isLeaf = false :=
  ⟨fun fn h => ⟨seGo_go ((by decide : ∀ fn ∈ [0, 10],
    seGo (holding s0 (wHint fn)) 0 (wHint fn) [(0, 1), (0, 2)] none true = true) fn h), rfl, rfl, rfl⟩, by decide⟩

/-! ## Witnesses: barriers, semaphores, command issue, quantising -/

/-- The group with its other thread already at a barrier. -/
def sBar (k : Arrival) : State :=
  s0.setCore 0 { core0 with ve := { core0.ve with groups := [(0, { grp0 with threads := [{ pc := 0x2000 }, { pc := 0x2010, arrived := k }] })] } }

/-- After the arrival of `act`: everyone that lives has arrived at the barrier, or someone has not. -/
def meets (k : Arrival) (all : Bool) (x : Machine.Group) (_ : Nat) (act : List Nat) : Bool :=
  let y := x.mapLanes act (fun _ t => { t with arrived := k })
  !y.live.isEmpty && (y.live.all (fun l => (y.thread l).arrived == k)) == all

theorem witness_threadBarriers :
    ((s0.setGroup 0 0 grp0).released 0 (some 0) 0 = true ∧ grp0.live ≠ [] ∧ Sparse.rising (s0.core 0).ve.groups = true) ∧
    (∃ x pc act, (holding (sBar .group) (encM 0x28 0 mo)).VeGo g0 (encM 0x28 0 mo) [] [] true x pc act ∧ meets .group true x pc act = true) ∧
    (∃ x pc act, (holding (sBar .no) (encM 0x28 0 mo)).VeGo g0 (encM 0x28 0 mo) [] [] true x pc act ∧ meets .group false x pc act = true) ∧
    (∃ x pc act, (holding (sBar .block) (encM 0x28 1 mo)).VeGo g0 (encM 0x28 1 mo) [] [] true x pc act ∧ meets .block true x pc act = true) ∧
    (∃ x pc act, (holding (sBar .no) (encM 0x28 1 mo)).VeGo g0 (encM 0x28 1 mo) [] [] true x pc act ∧ meets .block false x pc act = true) :=
  ⟨by decide, veGo_go (by decide), veGo_go (by decide), veGo_go (by decide), veGo_go (by decide)⟩

/-- Semaphore 63 by 0xFFFF, and by 1. -/
def iS : IFmt := { i1 with imm := 0x3F_FFFF }
def iT : IFmt := { i1 with imm := 0x3F_0001 }
def sSem : State := s0.updCore 0 (fun k => k.setSem 63 { count := 1 })
/-- Niche semaphore 4,095, named by s1. -/
def sNs : State := (s0.updCore 0 (fun k => { k with se := k.se.setReg 1 4095 })).updNsem 1 4095 (fun x => { x with count := 1 })

theorem witness_semaphores :
    (∀ w ∈ [0, 1, 2].map (fun fn => encI 0x29 fn iS) ++ [0, 1, 2].map (fun fn => encI 0x29 fn iT), (holding sSem w).SeGo 0 w [] none true) ∧
    (∀ w, (holding sSem w).released 0 none 1 = true ∧ ((holding sSem w).core 0).sem 63 = { count := 1 }) ∧
    (∀ w ∈ [0, 1, 2].map (fun fn => encI 0x2A fn { i1 with src1 := 1, imm := 1 }) ++ [1, 2].map (fun fn => encI 0x2A fn { i1 with src1 := 1, imm := 0xFFFF }),
      (holding sNs w).SeGo 0 w [(0, 1)] none true) ∧
    (∀ w, let s := holding sNs w
      s.ownerNiche 0 = 1 ∧ (s.operand (.se 0) 0 2 1).toNat = 4095 ∧ (s.niche 1).nsem 4095 = { count := 1 } ∧ s.released 0 none 4 = true ∧
      s.lostOf (.se 0) [0] = none) ∧ sLost.lostOf (.se 0) [0] = some 8 :=
  ⟨seAll (by decide), fun _ => ⟨rfl, rfl⟩, seAll (by decide), fun _ => ⟨rfl, rfl, rfl, rfl, rfl⟩, by decide⟩

theorem witness_commandIssue :
    (∀ w ∈ [encR 0x30 0 { r0 with dst := 0 }, encR 0x31 0 { r0 with dst := 0 }], (holding s0 w).SeGo 0 w [(0, 1), (0, 2)] none true) ∧
    (∀ w, (holding s0 w).released 0 none 1 = true ∧ ((holding s0 w).core 0).me.fifo = [] ∧ ((holding s0 w).core 0).de.fifo = []) :=
  ⟨seAll (by decide), fun _ => ⟨rfl, rfl, rfl⟩⟩

/-- A source in v1, its scale 0x80 in v2, no record or one at 64 (v3), the place of QST in v4. -/
def fq : RFmt := { r0 with dst := 4, src1 := 1, src2 := 2, src3 := 3, fmt := 0, fmt2 := 0xC }
def grpQ (rec_ : W32) : Machine.Group := { grp0 with threads := [{ pc := 0x2000 }], vregs := [(1, 0x3F80_0000), (2, 0x80), (3, rec_), (4, 0)] }
def sQ (rec_ : W32) : State := s0.setCore 0 { core0 with ve := { core0.ve with groups := [(0, grpQ rec_)] } }
def recordAt (n : Nat) (x : Machine.Group) (_ : Nat) (act : List Nat) : Bool := x.num (act.headD 0) 3 == n && decide act.Nodup

theorem witness_quantising :
    (∃ x pc act, (holding (sQ 0xFFFF_FFFF) (encR 0x38 0 fq)).VeGo g0 (encR 0x38 0 fq) (qReads fq false) [4] false x pc act ∧ recordAt 0xFFFF_FFFF x pc act = true) ∧
    (∃ x pc act, (holding (sQ 64) (encR 0x38 0 fq)).VeGo g0 (encR 0x38 0 fq) (qReads fq false) [4] false x pc act ∧ recordAt 64 x pc act = true) ∧
    (∃ x pc act, (holding (sQ 64) (encR 0x39 0 fq)).VeGo g0 (encR 0x39 0 fq) (qReads fq true) [] false x pc act ∧ recordAt 64 x pc act = true) ∧
    (recordFault 0xFFFF_FFFF = none ∧ recordFault 64 = none ∧ qstFault 0 0 64 = none) ∧
    (∀ w, ((holding (sQ 64) w).setGroup 0 0 (grpQ 64)).heldBack 0 (some 0) = false ∧ ((holding (sQ 64) w).setGroup 0 0 (grpQ 64)).bufferRoom 0 (some 0) = true) :=
  ⟨veGo_go (by decide), veGo_go (by decide), veGo_go (by decide), by decide, fun _ => ⟨rfl, rfl⟩⟩

/-! ## Witnesses: the matrix engine, the DMA engine, the armature -/

def cmd (lo hi : W64) : FifoCmd := { lo := lo, hi := hi, issuer := .insn 0x1000, launch := 7, rank := 0, node := 0, super := false }

/-- MULTIPLY of one row, 32 columns and one block of format 0; DRAIN to F32 at 0, its record at 128; FLAGS; SPILL and RESUME of grant 0; KIND 15. -/
def cMul : FifoCmd := cmd 0 1
def cDrain : FifoCmd := cmd 1 (0xC * 2 ^ 30 + 4 * 2 ^ 39)
def cFlags : FifoCmd := cmd 2 0xFF
def cSpill : FifoCmd := cmd 3 0
def cResume : FifoCmd := cmd 4 0
def cBad : FifoCmd := cmd 15 0

/-- The ME with a command at the head, a grant for the core, and a drain record of zeros but PITCH 8 in the drawer. -/
def sMe (f : FifoCmd) : State :=
  let s := (s0.updMe 0 (fun m => { m with fifo := [f] })).updRegion 0 (fun x => { x with grants := [(0, { valid := true, niche := 1 })] })
  { s with mem := s.mem.store (drawerBase 0 + 128) ([0, 0, 0, 0, 0, 0, 0, 0, 8] ++ List.replicate 23 0) }

/-- Its drain record as it is read. -/
def rec0 (s : State) : List Byte := (s.mem.blurred s.fresh 0 (cDrain.dest (s.mem.bytesAt s.fresh (drawerBase 0 + 128) 32))).bytesAt s.fresh (drawerBase 0 + 128) 32

theorem witness_matrixCommands :
    (∀ f ∈ [cMul, cDrain, cFlags, cSpill, cResume, cBad], bit (sMe f).err.inject 0 = false ∧ ((sMe f).core 0).me.canStart f = true ∧
      ((sMe f).core 0).me.fifo = [f] ∧ (sMe f).runs 0 = true ∧ f.waitEn = false) ∧
    (5 ≤ cBad.kind ∧ cMul.kind = 0 ∧ cMul.doesDrain = false ∧ cDrain.kind = 1 ∧ cDrain.doesDrain = true ∧ cFlags.kind = 2 ∧ cSpill.kind = 3 ∧
      cResume.kind = 4 ∧ cResume.drains = false) ∧
    (∀ f ∈ [cMul, cDrain, cFlags, cSpill, cResume], f.fieldsOk = true) ∧
    (0 < cMul.chunks ∧ ((cMul.toRun [] 0).chunkAt).isSome = true) ∧
    (cDrain.paramOff = 128 ∧ (sMe cDrain).mem.firstPoison (drawerBase 0 + 128) 32 = none ∧ cDrain.recordOk (rec0 (sMe cDrain)) = true) ∧
    ((sMe cSpill).grantOk 0 cSpill = true ∧ (sMe cResume).grantOk 0 cResume = true ∧ ((sMe cResume).region 0).spillPoison = [] ∧
      ((sMe cResume).region 0).spillBad = []) := by decide +kernel

/-- A run of the ME with a chunk to do, its shadow weights loaded; one with a column group's write to perform; one with all done. -/
def run0 : MeRun := { cmd := cMul, chunk := 0, chunks := 1, shadow := some { blocks := [], bad := none } }
def grn1 : Granule := { col := 0, cols := 1, writes := [(0, [7])] }
def run1 : MeRun := { cmd := cMul, chunk := 1, chunks := 1, writes := [grn1] }
def run2 : MeRun := { cmd := cMul, chunk := 1, chunks := 1 }
def sRun (r : MeRun) : State := s0.updMe 0 (fun m => { m with runs := [r] })
def chunk0 : ChunkAt := { aOff := 0, bOff := 0, tiles := [], kbs := [] }

theorem witness_matrixRuns :
    (((sRun run0).core 0).me.runs = [run0] ∧ run0.chunk < run0.chunks ∧ run0.chunkAt.isSome = true ∧ (run0.shadow.map (·.bad)) = some none ∧
      (sRun run0).rowPoison 0 cMul (run0.chunkAt.getD chunk0) = none ∧ ((sRun run0).core 0).pathBad = 0 ∧ cMul.audit = false ∧
      (sRun run0).runs 0 = true ∧ drainBefore [] cMul = false) ∧
    (((sRun run1).core 0).me.waiting[0]? = some (0, 0, grn1) ∧ (sRun run1).clocked 0 = true) ∧
    (((sRun run2).core 0).me.runs = [run2] ∧ run2.finished = true ∧ cMul.sigEn = false ∧ cMul.issuer = .insn 0x1000) := by decide +kernel

/-- LIST of one entry in the drawer; CONTRIB of one X40 value at 0 to reduction 0; KIND 15. -/
def cList : FifoCmd := cmd 0x10 1
def cCon : FifoCmd := cmd (1 + 8 * 2 ^ 34) 0
def red0 : Reduction :=
  { niche := 1, launch := 7, index := 0, f := 1, g := 1, c := 2, x80 := false, rows := 1, cols := 1, resultVa := 0,
    got := [], parts := [(0, 1, [some 0]), (1, 2, [some 0])], flags := 0, done := false }
def sDe (f : FifoCmd) : State := let s := s0.updDe 0 (fun m => { m with fifo := [f] })
  { s with fe := { s.fe with reds := [red0] } }

theorem witness_dmaCommands :
    (∀ f ∈ [cList, cCon, cBad], ((sDe f).core 0).de.run = none ∧ ((sDe f).core 0).de.fifo = [f] ∧ (sDe f).runs 0 = true ∧ f.deWaitEn = false ∧
      bit (sDe f).err.inject 0 = false) ∧
    (2 ≤ cBad.kind ∧ cList.kind = 0 ∧ cList.listOk = true ∧ cCon.kind = 1 ∧ cCon.contribOk = true) ∧
    ((sDe cCon).fe.reds.findIdx? (fun r => r.launch == cCon.launch && r.index == fld cCon.hi 0 16) = some 0 ∧ (sDe cCon).fe.reds[0]? = some red0 ∧
      red0.accepts (bit cCon.lo 4) cCon.conRows cCon.conCols (fld cCon.hi 30 14) (fld cCon.hi 44 6) (fld cCon.hi 50 7) = true) ∧
    (red0.done = false ∧ red0.isNode 0 2 64 0 red0.ranks = true ∧ red0.part 0 (red0.split 0 2) = some [some 0] ∧ red0.part (red0.split 0 2) 2 = some [some 0] ∧ red0.part 0 2 = none) := by decide

/-- An entry that copies 8 bytes of the drawer from 0 to 64, due in slot 1. -/
def blk0 : BlockWords := { w0 := 2 ^ 62, w1 := 2 ^ 62 + 64, w2 := 7, w3 := 2 ^ 48 }
def run3 : DeRun := { cmd := cList, isList := true, space := true, addr := 0, count := 1, next := 0, anchor := 0, blocks := [], ahead := [(0, some blk0.bytes)] }
def piece0 : Piece := { src := some (.dev (drawerBase 0)), dst := .dev (drawerBase 0 + 64), len := 8 }
def run4 : DeRun := { run3 with count := 2, next := 1, ahead := [], blocks := [{ index := 0, w2 := 7, w3 := 2 ^ 48, pieces := [piece0] }] }
def sBlk (r : DeRun) : State := s0.updDe 0 (fun m => { m with run := some r })
/-- A block that waits for its signal's semaphore at the first tick after its due slot. -/
def run5 : DeRun := { run4 with blocks := [{ index := 0, w2 := 2 ^ 45 + 7, w3 := 2 ^ 48, pieces := [piece0] }] }
def sLate : State := ((sBlk run5).updCore 0 (fun k => k.setSem 0 { queue := [{ who := .se, need := 1 }] })).updRegion 0 (fun x => { x with tl := 2048 })

theorem witness_dmaBlocks :
    ((sBlk run3).runs 0 = true ∧ run3.isList = true ∧ run3.next < run3.count ∧ run3.waiting = false ∧ run3.blocks = [] ∧
      ((sBlk run3).readEntry 0 run3 0).1 = .words blk0 ∧ blk0.ok = true ∧ bit blk0.w2 38 = false ∧ bit blk0.w2 55 = false ∧
      (match ((sBlk run3).blockPieces 0 false blk0).1 with | .ok ps => !farBlock ps | _ => false) = true) ∧
    (run4.blocks.all (fun b => !b.performed && !b.stale && b.done == 0 && !bit b.w2 45 && b.pieces == [piece0]) = true ∧ run4.next < run4.count ∧
      (sBlk run4).runs 0 = true ∧ (sBlk run4).drains 0 = true ∧ (sBlk run4).pieceReach 0 piece0 = true ∧ (sBlk run4).blockBusy 0 7 0 = false ∧
      ((sBlk run4).classOf (drawerBase 0 + 64)).isMemory = true ∧
      ((sBlk run4).classOf (drawerBase 0)).isMemory = true ∧ (sBlk run4).linesHeld (drawerBase 0 + 64) 8 true = [] ∧
      (sBlk run4).linesHeld (drawerBase 0) 8 false = [] ∧ overlaps (drawerBase 0 + 64) 8 (drawerBase 0) 8 = false ∧
      (sBlk run4).mem.firstPoison (drawerBase 0) 8 = none ∧ bit (sBlk run4).err.inject 0 = false ∧ (sBlk run4).mem.wf = true) ∧
    (sLate.lateEntry 0 run5).isSome = true := by decide +kernel

/-! ## Witnesses: engine entries, kernels, caches -/

/-- An idle core 0 with an entry in each engine's queue. -/
def entL : EngineEntry := { entryOf .ve with word3 := 0, word4 := 2 ^ 24, word5 := 0 }
def sIdle : State := s0.setCore 0 { seQ := [entryOf .se], veQ := [entL], meQ := [entryOf .me], deQ := [entryOf .de],
                                    dc := { lfsr := 1, ready := true }, ic := { ready := true } }

theorem witness_engineEntryFetch :
    sIdle.runs 0 = true ∧ (∀ i < 4, bit (sIdle.core 0).control i = false) ∧ (sIdle.core 0).se.entry = none ∧ (sIdle.core 0).ve.entry = none ∧
    (sIdle.core 0).me.fifo.length < 8 ∧ (sIdle.core 0).de.fifo.length < 8 := by decide

/-- A launch of one block of 32 threads and 1 KiB, one of all 128 KiB, and one of a byte more. -/
def entOk : EngineEntry := { entryOf .ve with word3 := 31 * 2 ^ 24 + 1024 * 2 ^ 39, word4 := 2 ^ 24 }
def entFull : EngineEntry := { entOk with word3 := 31 * 2 ^ 24 + 131072 * 2 ^ 39 }
def entBad : EngineEntry := { entOk with word3 := 31 * 2 ^ 24 + 131073 * 2 ^ 39 }
def sCore (f : Core → Core) : State := s0.updCore 0 f
def sLaunch : State := sCore (fun k => { k with ve := { entry := some entOk } })
def sAdmit : State := sCore (fun k => { k with ve := { entry := some entOk, started := true, running := true, endBlock := 1 } })

theorem witness_launchStart :
    (sLaunch.core 0).ve.entry = some entOk ∧ (sLaunch.core 0).ve.started = false ∧ entOk.badShape = false ∧ entFull.badShape = false ∧ entBad.badShape = true ∧
    ((sAdmit.core 0).ve.nextBlock ≠ (sAdmit.core 0).ve.endBlock ∧ (sAdmit.core 0).headLimit = 0 ∧ freeSlots (sAdmit.core 0).ve.blocks 16 ≠ [] ∧
      (sAdmit.core 0).drawerRun entOk.kib (128 - entOk.reserve) = some 0 ∧ entOk.kib ≠ 0) := by decide +kernel

/-- The data cache of a core is at rest. -/
def calm (s : State) : Bool :=
  let d := (s.core 0).dc
  d.flush.isEmpty && d.wb.isNone && d.miss.isNone && d.dirtyOnes.isEmpty && s.backsOf 0 .flush == 0

/-- Kernels about to start; ended, with and without a lost store; drained. -/
def sStart : State := sCore (fun k => { k with se := { k.se with running := false }, ve := { k.ve with running := false } })
def sEnd (a : Option W64) : State := sCore (fun k => { k with se := { k.se with ended := true, lost := a }, ve := { k.ve with ended := true } })
def sDone : State := sCore (fun k => { k with se := { k.se with drained := true }, ve := { k.ve with drained := true } })
/-- Thread 0 waits at its group's barrier since tick 0, at tick 10,000,000. -/
def sStall : State := (s0.setCore 0 { core0 with ve := { core0.ve with groups :=
  [(0, { grp0 with threads := [{ pc := 0x2000, arrived := .group }, { pc := 0x2010 }], barStart := some 0 })] } }).updRegion 0 (fun x => { x with tl := 10_000_000 })

theorem witness_kernels :
    ((sStart.core 0).dc.ready = true ∧ (sStart.core 0).se.entry.isSome = true ∧ (sStart.core 0).se.running = false ∧ (sStart.core 0).se.ended = false ∧
      sStart.engineStores 0 false = false ∧ (sStart.core 0).ve.started = true ∧ (sStart.core 0).ve.running = false ∧ sStart.engineStores 0 true = false) ∧
    (((sEnd none).core 0).se.ended = true ∧ ((sEnd none).core 0).se.drained = false ∧ (sEnd none).engineStores 0 false = false ∧
      ((sEnd none).core 0).engineLoads false = false ∧ ((sEnd none).core 0).lostAtEnd ((sEnd none).core 0).se.lost 7 = none ∧
      ((sEnd (some 8)).core 0).lostAtEnd ((sEnd (some 8)).core 0).se.lost 7 = some 8 ∧ ((sEnd none).core 0).ve.xf = [] ∧
      ((sEnd none).core 0).lostAtEnd ((sEnd none).core 0).ve.lost 7 = none) ∧
    (calm sStart = true ∧ calm (sEnd none) = true) ∧
    (sDone.backsPending 0 = false ∧ (sDone.core 0).se.drained = true ∧ (sDone.core 0).ve.drained = true) ∧
    ((sStall.group 0 0).map (fun g => g.at_ .group) = some [0] ∧ (sStall.niche (sStall.ownerNiche 0)).control.toNat / 2 ^ 32 % 2 ^ 16 = 10000 ∧
      10000 * 1000 ≤ sStall.waited 0 0 ∧ sStall.storesPending 0 (some 0) = false) := by decide +kernel

/-- A miss on line 0x1_0000 by the SE, from its home or arrived from another device; and a victim in the write-back buffer. -/
def sMiss : State := sCore (fun k => { k with dc := { k.dc with miss := some (0x1_0000, false), missPort := 1 } })
def sCame : State := sCore (fun k => { k with dc := { k.dc with miss := some (0x1_0000, false), arrived := some (List.replicate 64 0, []) } })
def wb0 : CacheLine := { addr := 0x2_0000, data := List.replicate 64 0 }
def sWb : State := sCore (fun k => { k with dc := { k.dc with wb := some wb0 } })

theorem witness_caches :
    (∀ s ∈ [sMiss, sCame], (s.core 0).dc.miss = some (0x1_0000, false) ∧ s.drains 0 = true ∧ (s.core 0).dc.fillWaits 0x1_0000 = false) ∧
    ((sCame.core 0).dc.arrived.isSome = true ∧ (sMiss.core 0).dc.arrived = none ∧ sMiss.isLocal 0x1_0000 = true ∧
      sMiss.awake (some 0) 0x1_0000 = true ∧ sMiss.inTurn 0 { lane := 0, va := 0, tgt := .dev 0x1_0000, cache := true, bytes := [], port := 1, node := 0 } = true ∧
      (sMiss.classOf 0x1_0000).isMemory = true ∧ (sMiss.core 0).dc.way 0x1_0000 = none) ∧
    ((sWb.core 0).dc.wb = some wb0 ∧ (sWb.core 0).dc.wbSent = false ∧ sWb.backReady 0 wb0 = true ∧ sWb.lineBad 0 wb0 0 64 = false ∧
      sWb.isLocal 0x2_0000 = true ∧ (sWb.classOf 0x2_0000).isMemory = true ∧ sWb.backsOf 0 .buffer = 0) ∧
    (s0.fetchAt (.se 0) = some (0x1000, 0) ∧ windowOff (s0.entryOn (.se 0)) 0x1000 = none ∧
      (s0.translate (some 0) (s0.ownerNiche 0) 0x1000 .fetch).1 = .ok (.dev 0x1_1000) false ∧ (s0.core 0).ic.has (s0.lineOf (.dev 0x1_1000)) = false ∧
      (s0.core 0).ic.bad (s0.lineOf (.dev 0x1_1000)) 0 = false ∧ s0.reaches 0 (.dev 0x1_1000) = true ∧
      s0.linesHeld 0x1_1000 64 false = [] ∧ (s0.classOf 0x1_1000).isMemory = true ∧ s0.mem.firstPoison 0x1_1000 64 = none ∧ s0.mem.poisoned 0x1_1000 8 = false) ∧
    ((s0.region 0).running = true ∧ isFw .firmware = true ∧ bit (s0.core 0).control 6 = true ∧ bit s0.err.inject 0 = false) := by decide +kernel

/-- A load of the SE from an address that no leaf maps (R259, R260: NPL_ROOT is 0): PAGE_FAULT at lane 0 with the address in
DETAIL; no exception for a walk of another kind of access. -/
theorem test_walkOfALoad :
    let w := encM 0x20 0 { mu with src1 := 6 }
    let s := holding (s0.updCore 0 (fun k => { k with se := k.se.setReg 6 0x9_0000 })) w
    s.nextFault (.se 0) w .load = some (0, 2, 0x9_0000) ∧ s.nextFault (.se 0) w .store = none := by decide

/-- The SE issues nothing while the instruction cache does not hold the word at its address (R91). -/
theorem test_fetchedWordIssues :
    let w := encR 1 0 r0
    (s0.iword (.se 0) 0x1000, (holding s0 w).iword (.se 0) 0x1000, (holding s0 w).iword (.ve g0) 0x2000, (holding s0 w).iword (.se 0) 0x1040) =
      (none, some w, some w, none) := by decide

/-! ## Witnesses: the timeline, the region clocks, Frieze, placement -/

/-- The timeline with a load armed: far ahead; back; near; and with a board source, LOCKED or in HOLDOVER. -/
def sTl (state : BitVec 3) (control now load : W64) : State :=
  { State.reset with ns := 70_000_000, tl := { now := now, state := state, control := control, load := load } }

theorem witness_timelineCommands :
    (∀ s ∈ [sTl 1 0x100 0 1001, sTl 0 0x100 9 8, sTl 2 0x100 0 1001, sTl 0 0x100 0 1000], fld s.tl.control 0 2 ≠ 1 ∧ bit s.tl.control 8 = true) ∧
    (1000 + 0 < 1001 ∧ (sTl 0 0x100 9 8).noContext = true ∧ ¬ (1000 + 0 < 1000)) ∧
    ((∀ s ∈ [sTl 0 0 0 0, sTl 2 1 0 0], s.edgeValid = true) ∧ ({ State.reset with tl := { control := 1, lastEdge := some 0 } } : State).edgeValid = false) ∧
    (fld (sTl 2 1 0 0).tl.control 0 2 = 1 ∧ bit (sTl 2 1 0 0).tl.control 8 = false) ∧
    (tlRight .firmware = true ∧ tlRight .supervisor = true ∧ (sTl 2 0 0 0).tl.state = 2 ∧ (sTl 3 0 0 0).tl.state = 3 ∧
      (sTl 2 0 0 0).tl.lastInput + 64 * 1024 ≤ (sTl 2 0 0 0).ns ∧ (sTl 3 0 0 0).tl.holdSince + 20000000 ≤ (sTl 3 0 0 0).ns ∧
      (sTl 2 1 0 0).ns < (sTl 2 1 0 0).tl.lastInput + 2000000000) ∧
    (bookRight .placement false = true ∧ bookRight .firmware true = true ∧ bookRight .supervisor true = false) ∧
    (State.reset.tl.bookNext = [] ∧ frameOf 0xF_FFFF < frameOf 0x10_0000) := by decide

/-- A port booked for a niche at slot 0, which its peer matches. -/
def sBook : State := ({ State.reset with tl := { portBook := [(0, 0x105)] } } : State).updPort 0 (fun x => { x with peerBook := [(0, 0x1_0105)] })

theorem witness_bookedSlot : bit (sBook.tl.portEntry 0 0) 0 = true ∧ bit (sBook.tl.portEntry 0 0) 16 = false ∧
    (sBook.port 0).matched 0 (sBook.tl.portEntry 0 0) = true := by decide

def sClk (clock : W64) (ts : List W64) : State := { State.reset with regions := [(0, { clock := clock, targets := ts })] }

theorem witness_regionClocks :
    (isFw .supervisor = false ∧ clockAllowed (fld ((sClk 0 []).region 0).clockReg 0 3) 1 = true ∧ clockAllowed (fld ((sClk 2 []).region 0).clockReg 0 3) 3 = true ∧
      clockAllowed (fld ((sClk 0 []).region 0).clockReg 0 3) 3 = false ∧ clockAllowed (fld ((sClk 3 []).region 0).clockReg 0 3) 1 = false) ∧
    (((sClk 2 [3]).region 0).targets = [3] ∧ ((sClk 2 [3]).region 0).state ≠ 3 ∧ (sClk 2 [3]).regionDrained 0 = true) ∧
    (((sClk 0x40 []).region 0).running = true ∧ bit ((sClk 0x40 []).region 0).clock 6 = true) := by decide

/-- Frieze of a running region: armed with a trigger tick passed; a STREAM buffer with a record and a ring in the host or here. -/
def sFrz (f : FrzRegion) : State := { s0 with regions := [(0, { clock := 0, tl := 0x4_0000_0000, frz := f })] }
def fz1 : FrzRegion := { trigTick := 1, lastSync := some 0 }
def fz2 (sink : W64) : FrzRegion := { control := 0x81, fill := 1, next := 1, sink := sink }

theorem witness_friezeCommands :
    (isFwOrSup .supervisor = true ∧ fz1.armed = true ∧ ({ control := 0 } : FrzRegion).armed = false ∧ fz1.triggered = false ∧ bit fz1.control 17 = false) ∧
    (fz1.trigTick ≠ 0 ∧ ((sFrz fz1).region 0).running = true ∧ fz1.trigTick.toNat ≤ ((sFrz fz1).region 0).tl.toNat ∧
      (0 : W64).toNat + 2 ^ 34 ≤ ((sFrz fz1).stamp 0).toNat) ∧
    ((fz2 0x55).stream = true ∧ bit (fz2 0x55).sink 0 = true ∧ (fz2 0x55).fill ≠ 0 ∧
      ((fz2 0x55).sinkWrite - (fz2 0x55).sinkRead).toNat ≠ 2 ^ fld (fz2 0x55).sink 1 5 ∧ (sFrz (fz2 0x55)).sinkBusy 0 = false ∧ bit (fz2 0x55).sink 6 = true ∧
      (sFrz (fz2 0x55)).frzBudget 0 1 = true) ∧
    ((fz2 0x15).stream = true ∧ bit (fz2 0x15).sink 0 = true ∧ ((fz2 0x15).sinkWrite - (fz2 0x15).sinkRead).toNat ≠ 2 ^ fld (fz2 0x15).sink 1 5 ∧
      bit (fz2 0x15).sink 6 = false ∧ (sFrz (fz2 0x15)).isLocal 0 = true) := ⟨by decide, by decide, by decide, by decide⟩

/-- A page table of niche 1 at 0x10_0000, one table a level, with a leaf for address 0, and a pool of 4 MiB of HBM4. -/
def sPage (leaf : W64) : State :=
  let m : Memory := ((((s0.mem.setWord 0x10_0000 0x10_1001).setWord 0x10_1000 0x10_2001).setWord 0x10_2000 0x10_3001).setWord 0x10_3000 0x10_4001).setWord 0x10_4000 leaf
  { s0 with mem := m, niches := [(1, { nplRoot := 0x10_0001, pools := [(0, 0x20_0005)] })] }

/-- Unbacked; backed in the bulk tier. -/
def leaf0 : W64 := 0x27
def leaf1 : W64 := 0x1000_0000_0000 + 0xA27

/-- A niche with no pool of its own that may ask the peer of port 0. -/
def sAsk : State := (sPage leaf0).updNiche 1 (fun x => { x with pools := [], nplControl := 2 }) |>.updPort 0 (fun p => { p with state := 2 })

theorem witness_pages :
    ((sPage leaf0).placedLeaf 1 0 = some (0, 0x10_4000, leaf0) ∧ bit leaf0 11 = false ∧ bit leaf0 10 = false ∧ bit ((sPage leaf0).niche 1).nplControl 1 = false ∧
      (sPage leaf0).fillOf 1 0 = none ∧ (sPage leaf0).chooseFrame 1 0 0x1_0000 = .frame 1 0x20_0000 ∧ sAsk.placedLeaf 1 0 = some (0, 0x10_4000, leaf0) ∧
      sAsk.fillOf 1 0 = none ∧ sAsk.chooseFrame 1 0 0x1_0000 = .ask) ∧
    ((sPage leaf1).placedLeaf 1 0 = some (0, 0x10_4000, leaf1) ∧ bit leaf1 11 = true ∧ bit leaf1 10 = false ∧ bit leaf1 6 = false ∧ leafTier leaf1 = 2 ∧
      bit (sPage leaf1).place.control 0 = true ∧ bit ((sPage leaf1).niche 1).nplControl 2 = true ∧
      (sPage leaf1).freeFrame 1 1 0x1_0000 none = some 0x20_0000 ∧ fld (sPage leaf1).place.control 15 7 ≤ ({ tally := 127 } : PageInfo).tally) := by decide +kernel

/-- A HOT and a PIN at that page, of a niche that may pin nothing. -/
def sHintPage (fn : BitVec 5) : State := (sPage leaf1).updNiche 1 (fun x => { x with hints := [hint0 fn] })
def tooMany (s : State) (h : Hint) : Bool :=
  h.fn == 8 && decide (fld (s.niche 1).nplControl 4 20 < (s.niche 1).pinned.toNat + s.pinUnits 1 (s.hintVas 1 (h.va + h.len) (h.len / 0x1_0000 + 2) h.va))

theorem witness_hintProcess : ∀ fn ∈ [0, 8], ((sHintPage fn).niche 1).hints = [hint0 fn] ∧ ((sHintPage fn).walk 1 0).isLeaf = true ∧
    tooMany (sHintPage fn) (hint0 fn) = (fn == 8) := by decide +kernel

def mig0 : Migration := { niche := 1, va := 0, leafAddr := 0x10_4000, oldFrame := 0x1000_0000_0000, newFrame := 0x20_0000, tier := 1, bytes := 0x1_0000 }
def sMig : State := { sPage leaf1 with place := { migs := [mig0] } }

theorem witness_migration : sMig.place.migs[0]? = some mig0 ∧ mig0.copying = false ∧ sMig.frameBusy mig0.oldFrame.toNat mig0.bytes = false ∧
    sMig.frameBusy mig0.newFrame.toNat mig0.bytes = false ∧ mig0.oldFrame.toNat / 2 ^ 48 = sMig.myDevice ∧ mig0.newFrame.toNat / 2 ^ 48 = sMig.myDevice ∧
    sMig.tr.held.find? (fun h => h.1 == mig0.niche && overlaps h.2 0x20_0000 mig0.oldFrame.toNat 1) = none ∧ bit sMig.err.inject 0 = false ∧
    (let u := sMig.flushFrame 1 mig0.oldFrame.toNat mig0.bytes
     u.frameDirty 1 mig0.oldFrame.toNat mig0.bytes = false ∧ u.frameBusy mig0.oldFrame.toNat mig0.bytes = false) ∧
    sMig.mem.poisoned mig0.leafAddr 8 = false := by decide +kernel

def sShoot : State := s0.updNiche 2 (fun x => { x with shoot := 0, shooting := some (0, 0x1_0000) })

theorem witness_placementRegisters :
    (isFwOrSup (.job 1) = false ∧ isFwOrSup .firmware = true ∧ bit (s0.niche 1).shoot 1 = true ∧ bit (sShoot.niche 2).shoot 1 = false ∧
      s0.resident 1 = true ∧ s0.resident 2 = false) ∧
    ((sShoot.niche 2).shooting = some (0, 0x1_0000) ∧ sShoot.accessesIn 2 0 0x1_0000 = false) ∧
    (bit (0xFFF_FFFF_FFFF : W64) 44 = false ∧ ((s0.niche 1).nsem 4095).count < 2 ^ 32) := by decide

/-! ## Witnesses: the front end -/

/-- Queue 0 of niche 1, context 0 valid, of a kind, enabled, its entry 0 the words given, already read ahead. -/
def qOf (kind : Nat) (ws : List W64) : Queue :=
  { base := 1, config := BitVec.ofNat 64 (kind + 0x10 + 0x80), tail := 1, ahead := [(0, some ws)] }
def sQu (x : Queue) : State :=
  let s := (s0.updNiche 1 (fun n => { n with grant := 1, ctxs := [(0, { control := 1, state := 1 })] }))
  s.setQueue 0 x
def entryWords (op : W64) (w3 w4 w5 w6 : W64) : List W64 := [op, 0, 0, w3, w4, w5, w6, 0]
/-- The state after entry 0 started. -/
def started (s : State) (ws : List W64) : State :=
  (s.readSlot 0 0).2.updQueue 0 (fun y => { y with next := 1, entries := y.entries ++ [{ seq := 0, words := ws, since := s.tl.now }], ahead := [] })

/-- Entry 0 of a queue of kind 0 is at hand and may start. -/
def canRun (s : State) (ws : List W64) : Bool :=
  let x := s.queue 0
  bit x.base 0 && !x.halted && x.kind != 2 && x.unstarted != 0 && x.entries.all (fun e => !e.bars) &&
    decide ((s.readSlot 0 x.next).1 = .words ws) && !x.marks.contains x.next && s.canStart x ({ seq := 0, words := ws } : QEntry).op (ws.getD 0 0) &&
    bit ((started s ws).ctx x.niche x.ctx).control 0

theorem witness_doorbell :
    (s0.mayRing (.job 1) 0 = false ∧ s0.mayRing .supervisor 0 = true ∧ bit (s0.queue 0).base 0 = false) ∧
    (bit (qOf 0 []).base 0 = true ∧ (qOf 0 []).kind ≠ 2 ∧ (qOf 2 []).kind = 2 ∧ 2 ^ ((qOf 0 []).config.toNat / 4 % 32) = 16) := by decide

theorem witness_queueEntries :
    ([0, 5, 6, 7, 8, 255].all (fun op => canRun (sQu (qOf 0 (entryWords op 3 9 0 0))) (entryWords op 3 9 0 0)) = true) ∧
    ([entryWords 0 0 0 0 0, entryWords 5 3 9 0 0, entryWords 6 3 9 0 0].all (fun ws => entryFault 0 { seq := 0, words := ws } == 0) = true) ∧
    (((started (sQu (qOf 0 [])) []).niche 1).fence 3).toNat < 9 ∧ bit (3 : W64) 24 = false := by decide +kernel

def maq0 : Maquette :=
  { area := 0x100_0000, nodes := [], reds := [], objs := [], lists := [], resident := false, paramVa := 0, current := false, capt0 := 0, capt1 := 0,
    cast := [], recast := false, lastLaunch := none }
def sMq (ws : List W64) : State := (sQu (qOf 0 ws)).setMaq 1 0 maq0
def wsRemove : List W64 := entryWords 7 0 0 0 0
def wsLaunch : List W64 := entryWords 2 5 0 0 0
def wsPatch : List W64 := entryWords 3 0x20_0000 (8 * 2 ^ 16) 0 0
def wsInstall : List W64 := entryWords 1 0x20_0000 128 0x100_0000 131456
def wsAbort : List W64 := entryWords 4 0 0 0 0

theorem witness_removeAndLaunch :
    ([wsRemove, wsLaunch].all (fun ws => canRun (sMq ws) ws && entryFault 0 { seq := 0, words := ws } == 0) = true) ∧
    ((started (sMq wsRemove) wsRemove).maq? 1 0 = some maq0 ∧ (started (sMq wsRemove) wsRemove).maqBusy 1 0 = false ∧
      maq0.resident = false ∧ maq0.recast = false) := by decide +kernel

/-- An image of one node of one rank with an SE part, at 0x20_0000. -/
def image0 : List Byte :=
  [3, 0, 64, 0, 0, 0, 0, 0, 1, 0x1000, 0, 0, 1 + 0xFFFF * 2 ^ 24, 0, 0, 0].flatMap (fun w : Nat => leBytes 8 w)
def sImg (ws : List W64) : State := { sMq ws with mem := s0.mem.store 0x20_0000 image0 }
def eOf (ws : List W64) : QEntry := { seq := 0, words := ws }

/-- The state after an entry of the queue started, and after its image was read. -/
def inst : State := started (sImg wsInstall) wsInstall
def read1 : State := (inst.gather 0 (eOf wsInstall) false 0x20_0000 128 true).2
def imgI : Image := match checkImage image0 131456 with | .ok img => img | .error _ => { nodes := [], reds := [], objs := [], lists := [], resident := false, paramVa := 0, bank := [] }
/-- The lists of its block-list reads, and the cast of its nodes and of those lists. -/
def lists0 : Option (List (Nat × List CastEntry)) := (read1.readCastLists 0 (eOf wsInstall) imgI.lists).1
def read2 : State := (read1.readCastLists 0 (eOf wsInstall) imgI.lists).2

theorem witness_install :
    (canRun (sImg wsInstall) wsInstall = true ∧ entryFault 0 (eOf wsInstall) = 0 ∧ (qOf 0 wsInstall).entries = []) ∧
    (inst.tierOf 0x100_0000 131456 = some 1 ∧ inFirmware 0x100_0000 131456 = false) ∧
    (inst.gather 0 (eOf wsInstall) false 0x20_0000 128 true).1 = .bytes image0 ∧
    (match checkImage image0 131456 with | .ok img => decide (img.objs = []) | .error _ => false) = true ∧
    ((read1.queue 0).niche = 1 ∧ read1.maqBusy 1 0 = false ∧ read1.linesHeld 0x100_0000 (0x2_0000 + 128) true = []) ∧
    (lists0 = some [] ∧ (read2.queue 0).niche = 1 ∧
      (match read2.castRanks 1 imgI.nodes with | some (cast, u) => (u.castLists 1 imgI.nodes cast []).isSome | none => false) = true) := by decide +kernel

theorem witness_patchAndAbort :
    (canRun (sImg wsPatch) wsPatch = true ∧ entryFault 0 (eOf wsPatch) = 0 ∧ (qOf 0 wsPatch).entries = [] ∧ maq0.patchBank = some true ∧
      ((started (sImg wsPatch) wsPatch).gather 0 (eOf wsPatch) false 0x20_0000 8 false).1 = .bytes (image0.take 8)) ∧
    (let t := ((started (sImg wsPatch) wsPatch).gather 0 (eOf wsPatch) false 0x20_0000 8 false).2
     t.linesHeld (maq0.bankAt true) 0x1_0000 true = [] ∧ t.linesHeld (maq0.bankAt false) 0x1_0000 false = []) ∧
    (canRun (sImg wsAbort) wsAbort = true ∧ entryFault 0 (eOf wsAbort) = 0) ∧
    (0 < ((1 : W32) - 0).toNat ∧ (2 ^ 31 : Nat) ≤ 2 ^ 31) := by decide +kernel

/-- A FENCE_WAIT and a LAUNCH under way, and an entry that is final, as targets of an ABORT. -/
def sTgt (e : QEntry) : State := sQu { qOf 0 [] with next := 1, entries := [e], ahead := [], tail := 2 }

theorem witness_abortTargets :
    (({ eOf [] with isFinal := true } : QEntry).isFinal = true ∧ (eOf [5]).op = 5 ∧ (eOf [5]).outcome = none ∧ (eOf [5]).launch = none ∧ (eOf [2]).op = 2) ∧
    ((sTgt (eOf [2])).queue 0).entries.find? (fun g => g.seq == 0) = some (eOf [2]) ∧
    ((sTgt (eOf [2])).queue 0).entries.find? (fun g => g.seq == 1) = none ∧ bit ((sTgt (eOf [2])).queue 0).base 0 = true := by decide

/-- Entry 0 with its outcome decided; a FENCE_WAIT past its time; a disabled queue; a halted one; two queues that wait for each other. -/
def eEnd : QEntry := { eOf (entryWords 0 0 0 0 0) with outcome := some (1, 0) }
def sHalt : State := sQu { qOf 0 [] with halted := true }
def sWaitQ : State := { sQu { qOf 0 [] with next := 1, entries := [eOf (entryWords 5 0 9 0 0)] } with tl := { now := 1_000_000_000 } }

theorem witness_queueControl :
    (((sTgt eEnd).queue 0).headOwed = false ∧ ((sTgt eEnd).queue 0).entries.find? (fun e => e.seq == 0) = some eEnd ∧ eEnd.outcome = some (1, 0) ∧ eEnd.isFinal = false ∧ bit (eEnd.w 0) 10 = false ∧
      ((sTgt eEnd).tr.ops.any (fun o => o.purpose == .completion 0 0)) = false ∧
      (sTgt eEnd).endWaits 0 eEnd = none) ∧
    (bit (s0.queue 0).base 0 = false ∧ (s0.queue 0).state = 0 ∧ ringInFirmware { s0.queue 0 with base := 1 } = false ∧
      ((s0.updQueue 0 (fun y => { y with base := 1 })).queueWrite 0 false 0 (leBytes 8 0) (.ring 0)).1 = .done) ∧
    (ringInFirmware { qOf 0 [] with base := 0 } = false ∧ (sHalt.queue 0).halted = true ∧ (sHalt.queue 0).headOwed = false ∧ (s0.queue 0).head = (s0.queue 0).tail) ∧
    ((sWaitQ.queue 0).entries.find? (·.onFence) ≠ none ∧ (sWaitQ.niche 1).control.toNat / 2 ^ 48 % 2 ^ 16 = 1000 ∧ 1000 * 1000000 ≤ (sWaitQ.tl.now - 0).toNat) := by decide +kernel

/-- Queue 0 waits for fence 3, which queue 1 signals after it waits for fence 4, which queue 0 signals. -/
def sCyc : State :=
  let q (a b : W64) : Queue := { qOf 0 [] with next := 1, tail := 2, entries := [eOf (entryWords 5 a 9 0 0)], ahead := [(1, some (entryWords 6 b 9 0 0))] }
  ((sQu (q 3 4)).setQueue 1 (q 4 3))

theorem witness_fenceCycle :
    (let t := [(0 : QueueNum), 1].foldl (fun s q => s.readRing q) sCyc
     cycleSet ([(0 : QueueNum), 1].map (fun q => (q, (t.queue q).signalsIn))) (t.fenceWaits 1).length (t.fenceWaits 1)) ≠ [] := by decide +kernel

/-- A launch of a maquette with one node of one rank on core 0. -/
def node0 : NodeRec :=
  { parts := 1, deps := [], sePc := 0x1000, vePc := 0, shape := 0, ranks := 1, reduction := none, streamKib := 0, meCmd := (0, 0), deCmd := (0, 0), wcet := 0 }
def maq1 : Maquette := { maq0 with nodes := [node0], cast := [[0]] }
def nrun (p : NodePhase) (w o : List (Nat × Eng)) : NodeRun := { phase := p, toWrite := w, open_ := o, place := [(0, 0)] }
def sLn (k : NodeRun) : State :=
  let s := (sQu (qOf 0 [])).setMaq 1 0 maq1
  s.setLaunch 7 { queue := 0, seq := 0, niche := 1, ctx := 0, maq := 0, bank := false, seed := 0, super := true, prev := none, nodes := [k], ended := none }

theorem witness_launchNodes :
    (((sLn (nrun .waiting [] [])).launch? 7).isSome = true ∧ (sLn (nrun .waiting [] [])).maq? 1 0 = some maq1 ∧ maq1.nodes[0]? = some node0) ∧
    ((sLn { nrun .waiting [] [] with place := [] }).depsHeld 7 0 = [] ∧ (sLn { nrun .waiting [] [] with place := [] }).poisonedDep 7 0 = none ∧ (sLn { nrun .waiting [] [] with place := [] }).firstReady = some (7, 0)) ∧
    ((regionOf 0).toNat ∈ (sLn (nrun .released [(0, .se)] [(0, .se)])).granted 1 ∧ ((sLn (nrun .released [(0, .se)] [(0, .se)])).region 0).holder = some (1, 0) ∧
      (sLn (nrun .released [(0, .se)] [(0, .se)])).reservedSlot 0 = false ∧
      (((sLn (nrun .released [(0, .se)] [(0, .se)])).core 0).engQ .se).length < 16) ∧
    (sLn (nrun .released [] [])).nodeOver 7 0 (nrun .released [] []) node0 = true ∧
    bit (sLn (nrun .waiting [] [])).err.inject 0 = false := by decide +kernel

/-- A node whose fence value, the first word of bank 0, is poisoned. -/
def sLnP : State :=
  let m : Maquette := { maq1 with nodes := [{ node0 with deps := [1] }] }
  let s := (sLn (nrun .waiting [] [])).setMaq 1 0 m
  { s with mem := { s.mem with poison := [m.bankAt false] } }

theorem witness_poisonedDep : (sLnP.poisonedDep 7 0).isSome = true ∧ sLnP.depsHeld 7 0 = [] ∧ bit sLnP.err.inject 0 = false := by decide +kernel

/-! ## Witnesses: niches, contexts, ports -/

/-- Niche 1 with RG00 and context 0 valid, a queue entry waiting; the region held, saved or restoring as given. -/
def sCtx (x : Region) (st : BitVec 2) (saved : List SavedCtx) : State :=
  { sQu (qOf 0 [0]) with cores := [], regions := [(0, x)], saved := saved,
                         niches := [(1, { grant := 1, control := 0x03E8_2710_07D0_0001, ctxs := [(0, { control := 1, state := st }), (1, { control := 1, state := 2 })] })] }
def img0 : SavedCtx := { niche := 1, ctx := 0, region := 0, tick := 0, cores := [(0, core0)] }
def free0 : Region := { clock := 0 }
def held0 : Region := { clock := 0, holder := some (1, 0) }

/-- A niche whose grant-clear of the parts in `sel` is under way. -/
def sClr (sel : BitVec 3) (sent : Bool) : Niche := (State.reset.updNiche 1 (fun x => { x with clearing := some sel, zeroSent := sent })).niche 1

theorem witness_nicheRegisters :
    (isFwOrSup (.job 1) = false ∧ bit (State.reset.niche 1).clear 1 = true ∧ bit (1 : W64) 5 = false) ∧
    (State.reset.allEmpty 1 = true ∧ State.reset.inFlight 1 (fun _ => true) = false ∧ State.reset.resident 1 = false) ∧
    (s0.resident 1 = true ∧ (sCtx held0 1 []).allEmpty 1 = false ∧ (State.reset.queue 0).niche = 0 ∧ State.reset.resident 0 = false) ∧
    (sClr 7 false).clearing = some 7 ∧ (sClr 7 true).zeroSent = true ∧ (sClr 7 true).clearing = some 7 := by decide

/-- The same with a launch of context 0 that has an entry to write on the region. -/
def sWants : State :=
  (sCtx free0 0 []).setLaunch 7
    { queue := 0, seq := 0, niche := 1, ctx := 0, maq := 0, bank := false, seed := 0, super := true, prev := none, nodes := [nrun .released [(0, .se)] [(0, .se)]], ended := none }

theorem witness_contextPlace :
    ([sWants, sCtx free0 2 [img0]].all (fun s => (s.region 0).running && (s.region 0).holder == none && (s.region 0).restoring == none &&
      (s.granted 1).contains 0 && s.nicheRuns 1 && bit (s.niche 1).clear 1 && s.nextContext 1 0 == some 0 && s.regionQuiet 0 && s.grantee 0 == some 1) = true) ∧
    sWants.hasImage 1 0 (· == 0) = false ∧ (sCtx free0 2 [img0]).hasImage 1 0 (· == 0) = true := by decide +kernel

def sRest : State := sCtx { free0 with restoring := some (1, 0) } 2 [img0]
/-- The same with a poisoned word in the part of the image that is read back. -/
def sRestP : State := { sRest with mem := { sRest.mem with poison := [0x2_0000] } }

theorem witness_restoreComplete :
    (sRest.region 0).restoring = some (1, 0) ∧ sRest.saved.find? (fun y => y.niche == 1 && y.ctx == 0 && y.region == 0) = some img0 ∧
    img0.cores.findSome? (fun p => imagePoison sRest.mem (sRest.imageBase 1 0 0 + p.1 * 0x4_A000)) = none ∧
    img0.cores.findSome? (fun p => imagePoison sRestP.mem (sRestP.imageBase 1 0 0 + p.1 * 0x4_A000)) = some 0x2_0000 ∧
    bit sRest.err.inject 0 = false ∧ bit sRestP.err.inject 0 = false := by decide +kernel

/-- At the end of a slice: another context waits, none does, the slice goes on, or a holder is to be resumed. -/
def sSlice (now : W64) (img : List SavedCtx) (ns : Sparse NSem) : State :=
  let s := sCtx held0 1 img
  ({ s with tl := { now := now } } : State).updNiche 1 (fun x => { x with nsems := ns })
def img1 : SavedCtx := { img0 with ctx := 1 }

theorem witness_sliceEnd :
    ((sSlice 2_000_000 [img1] []).resumptionDue 0 1 0 = none ∧ (sSlice 2_000_000 [img1] []).sliceOver 0 1 = true ∧ (sSlice 2_000_000 [img1] []).waiting 1 0 ≠ []) ∧
    ((sSlice 2_000_000 [] []).sliceOver 0 1 = true ∧ (sSlice 2_000_000 [] []).waiting 1 0 = []) ∧ (sSlice 0 [] []).sliceOver 0 1 = false ∧
    (sSlice 0 [img1] [(5, { queue := [{ core := 0, who := .se, need := 1 }], takes := [(1, 0)] })]).resumptionDue 0 1 0 = some (1, 5) ∧
    ((sSlice 0 [] []).region 0).holder = some (1, 0) ∧ ((sSlice 0 [] []).region 0).preempting = false ∧ ((sSlice 0 [] []).region 0).resumption = none := by decide +kernel

def sSave : State := sCtx { held0 with preempting := true } 1 []

/-- The same with the caches of core 0 clean, and with a write-back to another device outstanding. -/
def sSave1 (out : Bool) : State :=
  { sSave with cores := [(0, { core0 with ve := { core0.ve with groups := [] } })]
               tr := { ops := if out then [{ tag := 1, device := 3, addr := 0, purpose := .writeback 0 .flush 1 [] }] else [] } }

theorem witness_saveComplete : (sSave.region 0).preempting = true ∧ (sSave.region 0).holder = some (1, 0) ∧ sSave.regionQuiet 0 = true ∧
    (sSave1 false).regionQuiet 0 = true ∧ ((sSave1 false).cleanLines 0 .flush (fun _ => true)).cleaned 0 .flush (fun _ => true) = true ∧
    ((sSave1 true).cleanLines 0 .flush (fun _ => true)).cleaned 0 .flush (fun _ => true) = false := by decide +kernel

/-- Port 0 in a state. -/
def sPort (st : BitVec 2) (control : W64) : State := { s0 with tr := { ports := [(0, { state := st, control := control })] } }
def hel (lo hi : BitVec 2) : HelloRec := { device := 5, idValid := true, minVer := lo, maxVer := hi, incarnation := 0, hops := 0 }

/-- The same with port 0 the timeline's source. -/
def sSrc : State := { sPort 2 5 with tl := { control := 2 } }

theorem witness_ports :
    (((sPort 1 5).port 0).state = 1 ∧ bit ((sPort 1 5).port 0).control 0 = true ∧ ((sPort 2 5).port 0).state = 2) ∧
    (min (hel 3 3).maxVer.toNat (5 / 2 % 4) < max 1 (hel 3 3).minVer.toNat ∧ max 1 (hel 1 2).minVer.toNat ≤ min (hel 1 2).maxVer.toNat (5 / 2 % 4)) ∧
    ((sPort 1 5).peerOk 0 (hel 1 2) = true ∧ ({ sPort 1 5 with disc := { s0.disc with deviceId := 5, idValid := true } } : State).peerOk 0 (hel 1 2) = false) ∧
    (((sPort 2 5).port 0).replays + 1 ≤ 8 ∧ (sPort 2 5).tlSource ≠ 2 ∧ ((sPort 2 5).port 0).rxReplay = false ∧ ((sPort 2 5).port 0).rxFails < 8 ∧ ((sPort 2 5).port 0).rxNext = 0 ∧ bit (sPort 2 5).err.inject 0 = false) ∧
    (fld ((sPort 0 4).port 0).control 1 2 = 2 ∧ bit ((sPort 0 4).port 0).control 0 = false ∧ fld (5 : W64) 1 2 = 2 ∧ bit (5 : W64) 3 = false ∧ ((sPort 3 5).port 0).state = 3) ∧
    (sSrc.tlSource = 2 ∧ fld sSrc.tl.control 2 6 = 0 ∧ sSrc.tl.state.toNat ≤ 1 ∧ 8 < ((9 : Int)).natAbs ∧ sSrc.tl.slew = 0) := by decide

/-! ## Witnesses: packets and the Trestle's registers -/

/-- Device 5 with port 0 UP and export entry 0 admitting device 3 to the first 4 MiB, to read and write. -/
def sPkt (inject : W64) : State :=
  { s0 with disc := { s0.disc with deviceId := 5, idValid := true }, err := { s0.err with inject := inject },
            tr := { ports := [(0, { state := 2, control := 5 })], exports := [(0, 0x102_001D), (1, 2)] } }
def pk0 : Packet := { Packet.empty with src := 3, dst := 5, niche := 1, addr := 0x1000, size := 2, data := [1, 2, 3, 4] }
/-- The state after the packet was taken. -/
def got (s : State) (k : Packet) : State := (s.received 0 (packetUnits k)).returnUnits 0 k
/-- The same with the word of the packet poisoned. -/
def sPktP : State := { sPkt 0 with mem := { s0.mem with poison := [0x1000] } }
def pkHole : Packet := { pk0 with addr := 0x200_0000 }
def pkThru : Packet := { pk0 with dst := 9 }

theorem witness_packets :
    (((sPkt 0).port 0).state = 2 ∧ (sPkt 0).mine pkThru.dst = none ∧ (sPkt 0).mine pk0.dst = some none) ∧
    (((sPkt 0).port 0).rx = [] ∧ [(0 : BitVec 4), 1, 2, 7].all (fun k => decide ((sPkt 0).packetHeld k pk0 = []) && (sPkt 0).packetReady k pk0) = true) ∧
    ((got (sPkt 0) pkHole).admitted none false pkHole 0x200_0000 1 = false ∧ (got (sPkt 0) pkHole).admitted none true pkHole 0x200_0000 4 = false ∧
      (got (sPkt 0) pk0).admitted none false pk0 0x1000 1 = true ∧ (got (sPkt 0) pk0).admitted none true pk0 0x1000 4 = true ∧
      (got (sPkt 0) pk0).admitted none true pk0 0x1000 1 = true ∧ bit (sPkt 0).err.inject 0 = false ∧ ((got (sPkt 0) pk0).classOf 0x1000).isMemory = true) ∧
    (pk0.status ≠ 3 ∧ ({ pk0 with status := 3 } : Packet).status = 3 ∧ pktAtomicOk pk0 = true ∧ pktAtomicOk { pk0 with op := 11 } = false ∧
      (got sPktP pk0).mem.poisoned 0x1000 4 = true ∧ (got (sPkt 0) pk0).mem.poisoned 0x1000 4 = false) := by decide +kernel

/-- A partial of four X40 values of fabric rank 1 of two for reduction 0 of launch 7, whole or a quarter of it; one of rank 2. -/
def red1 : Reduction := { red0 with launch := 7, index := 0, f := 2, g := 1, c := 1, x80 := false, rows := 2, cols := 2, got := [] }
def maqR : Maquette := { maq1 with reds := [{ f := 2, g := 1, c := 1, k := 1, x80 := false, asked := true, rows := 2, cols := 2, resultVa := 0 }] }
def sCon : State :=
  let s := (sLn (nrun .released [] [])).setMaq 1 0 maqR
  { s with disc := (sPkt 0).disc, tr := (sPkt 0).tr, fe := { s.fe with reds := [red1] } }
def pkCon (f : Nat) : Packet := { pk0 with niche := 1, channel := 0, arg := BitVec.ofNat 64 (f * 2 ^ 30), lengthM1 := 7, data := [] }

/-- The values of such a partial. -/
def pkValues_ (k : Packet) : List (Option X80) := pktValues k false

theorem witness_contributions :
    (sCon.mine (pkCon 1).dst = some none ∧ (got sCon (pkCon 1)).contribLaunch (pkCon 1) 0 = some 7 ∧ ((got sCon (pkCon 1)).redFor 7 0).1 = some 0 ∧
      (((got sCon (pkCon 1)).redFor 7 0).2).fe.reds[0]? = some red1) ∧
    (red1.accepts red1.x80 red1.rows red1.cols 2 0 0 = false ∧ red1.accepts red1.x80 red1.rows red1.cols 1 0 0 = true ∧
      ((pkCon 1).lengthM1.toNat + 1) % 8 = 0 ∧ (pkValues_ (pkCon 1)).length < red1.rows * red1.cols ∧
      (pkValues_ { pkCon 1 with lengthM1 := 31 }).length = red1.rows * red1.cols) := by decide +kernel

/-- A FENCE to fence 5 of niche 1, with export entry 1 admitting it; leases of frames. -/
def sFen : State := { sPkt 0 with tr := { (sPkt 0).tr with exports := [(2, 0x702_0001), (3, 0)] } }
def pkFen : Packet := { pk0 with addr := 1 + 5 * 64 }
def sDon : State := { sPkt 0 with tr := { (sPkt 0).tr with exports := [(0, 0x102_0003), (1, 2)] } }
def pkAsk : Packet := { pk0 with arg := 0x100 }
def pkBack : Packet := { pk0 with arg := 2, addr := 0x20_0000 }
def sLea : State := { sPkt 0 with tr := { (sPkt 0).tr with leases := [{ device := 3, niche := 1, base := 0x20_0000 }] } }

theorem witness_fencesAndLeases :
    ((List.range 64).any (fun e => fenceEntry pkFen ((got sFen pkFen).export_ e)) = true ∧ pkFen.addr.toNat / 64 % 2 ^ 56 < 1024 ∧
      (List.range 64).any (fun e => fenceEntry pkFen ((got (sPkt 0) pkFen).export_ e)) = false) ∧
    (pkAsk.arg.toNat % 256 = 0 ∧ pkAsk.arg.toNat / 256 = 1 ∧ (got sDon pkAsk).donorFrame pkAsk = some 0) ∧
    (pkBack.arg.toNat % 256 = 2 ∧ sLea.packetHeld 7 pkBack = [] ∧ sDon.packetHeld 7 pkAsk = [] ∧
      (got sLea pkBack).tr.leases.any (fun l => l.device == pkBack.src && l.niche == pkBack.niche && l.base == 0x20_0000) = true ∧
      (got (sPkt 0) pkBack).tr.leases.any (fun l => l.device == pkBack.src && l.niche == pkBack.niche && l.base == 0x20_0000) = false) := by decide +kernel

/-- A load and a store of this device toward device 3 that wait for their answers. -/
def opL : RemoteOp := { tag := 1, device := 3, addr := 0, purpose := .load 0 0 0 }
def opS : RemoteOp := { tag := 2, device := 3, addr := 0, purpose := .ring 0 }
def sOps : State := { sPkt 0 with tr := { (sPkt 0).tr with ops := [opL, opS] } }

theorem witness_answers :
    ((got sOps { pk0 with tag := 1 }).opOf true { pk0 with tag := 1 } = some opL ∧ sOps.packetHeld 3 { pk0 with tag := 1 } = [] ∧ sOps.packetReady 3 { pk0 with tag := 1 } = true ∧
      (got sOps { pk0 with tag := 2 }).opOf false { pk0 with tag := 2 } = some opS) ∧
    (pk0.status = 0 ∧ ({ pk0 with status := 1 } : Packet).status = 1) ∧ (sPkt 0).disc.idValid = true ∧ bit s0.tr.control 1 = true := by decide +kernel

/-- Port 0 holds the share of channel 0 of niche 1 and owes none of its credits. -/
def sShare : State := { sPkt 0 with ns := 1_000_000, tr := { ports := [(0, { state := 2, shares := [256] })] } }

/-- Device 3 has been silent and UNREACHABLE while two operations toward it wait. -/
def sGone : State := { sOps with ns := 50_000, tr := { sOps.tr with unreachable := [3] } }

theorem witness_trestleRegisters :
    (isFwOrSup .firmware = true ∧ isFwOrSup (.job 1) = false ∧ State.reset.portsOff = true ∧ (sPkt 0).portsOff = false ∧
      (35 * 2 : W64).toNat / 2 % 64 < 36) ∧
    (256 ∈ (sShare.port 0).shares ∧ (∀ dl : Bool, Sparse.getD (sShare.port 0).credits (256 * 4 + dl.toNat) 1952 = 1952) ∧ (sShare.port 0).parked = [] ∧ Sparse.getD (sShare.port 0).shareUse 256 0 + 1000000 ≤ sShare.ns) ∧
    (sGone.isDead 3 = false ∧ (∃ o ∈ sGone.tr.ops, o.device = 3 ∧ o.since + 50000 ≤ sGone.ns) ∧ Sparse.find sGone.tr.heard 3 = none ∧ sGone.cutOff 3 = true) := by decide +kernel

/-! ## Witnesses: the host link, boot and the mailbox, Patina, errors and power -/

/-- The host link in a state, with the lines the host holds and those being recalled; window 0 is 2 MiB at 2 MiB. -/
def sHost (st : BitVec 2) (control : W64) (dir : List (Nat × Bool)) (recalling : List Nat) : State :=
  { s0 with qcl := { state := st, control := control, dir := dir, recalling := recalling, wins := [(0, 0x20_0003)] } }
def versions (control : W64) : List Nat :=
  if control.toNat / 2 % 4 = 0 then [0x10] else if control.toNat / 2 % 4 = 1 then [0x11, 0x10] else [0x20, 0x11, 0x10]

/-- RG00 in HALT, and an access of function 0 to its drawer of core C0000. -/
def sAsleep : State := (sHost 2 5 [] []).updRegion 0 (fun x => { x with clock := 2 })
def accHalt : HostAcc := { func := 0, aperture := true, off := drawerBase 0, bytes := 8, wr := none }

theorem witness_hostLink :
    ((sHost 1 5 [] []).qcl.state = 1 ∧ (versions 5).find? (fun v => decide (0x11 ≤ v) && decide (v ≤ 0x20)) = some 0x20 ∧
      (versions 3).find? (fun v => decide (0x11 ≤ v) && decide (v ≤ 0x20)) = some 0x11 ∧ (versions 1).find? (fun v => decide (0x11 ≤ v) && decide (v ≤ 0x20)) = none) ∧
    ((sHost 2 5 [] []).qcl.state = 2 ∧ (sHost 3 5 [] []).qcl.state = 3 ∧ s0.disc.mode = 2 ∧ State.reset.disc.mode ≠ 2) ∧
    ((sHost 2 5 [] []).classOf 0x20_0000 ≠ .csr ∧ bit ((s0.updNiche 1 (fun x => { x with control := 3 })).niche 1).control 1 = true ∧
      (BitVec.ofNat 6 ((2 : BitVec 7).toNat - 1) : NicheNum) = 1 ∧
      (sHost 2 5 [] []).qcl.hostWait = [] ∧ (sHost 2 5 [] []).awake none 0x20_0000 = true ∧ sAsleep.hostAwake accHalt = false) ∧
    ((sHost 2 5 [] []).inWindow 0x20_0000 = true ∧ (sHost 2 5 [] []).qcl.recalling = [] ∧ (sHost 2 5 [] []).qcl.dir.length < 2 ^ 20) ∧
    ((sHost 2 5 [(0x20_0000, true)] []).qcl.dir = [(0x20_0000, true)] ∧ (0x20_0000, false) ∈ (sHost 2 5 [(0x20_0000, false)] [0x20_0000]).qcl.dir ∧
      0x20_0000 ∈ (sHost 2 5 [(0x20_0000, false)] [0x20_0000]).qcl.recalling ∧
      Sparse.getD (sHost 2 5 [(0x20_0000, false)] [0x20_0000]).qcl.recallAt 0x20_0000 0 + 100000 ≤ 100000) := by decide +kernel

/-- The directory is full of lines other than the one asked for. -/
theorem witness_fullDirectory : let d := List.replicate (2 ^ 20) (0x20_0040, false)
    (∀ x ∈ d, x.1 ≠ 0x20_0000) ∧ 2 ^ 20 ≤ d.length ∧ d = (0x20_0040, false) :: List.replicate (2 ^ 20 - 1) (0x20_0040, false) :=
  ⟨fun x h => by rw [List.eq_of_mem_replicate h]; decide, by rw [List.length_replicate], List.replicate_succ⟩

/-- An SPDM request of 4 bytes with a code waits. -/
def sSpdm (code : Byte) : State :=
  { s0 with qcl := { spdmCtrl := 0x400_0004, spdmReq := [(0, 0x12), (1, code)] }, boot := { runSlot := some false } }

theorem witness_windowsAndMessages :
    (bit (0 : W64) 0 = false ∧ overlaps 0 64 (winRange 0x20_0003).1 (winRange 0x20_0003).2 = false ∧ inFirmware (winRange 0x20_0003).1 (winRange 0x20_0003).2 = false) ∧
    ((Sparse.getD s0.qcl.msgs 7 {}).pending = false ∧ ({ pending := true } : Msg).pending = true ∧ bit (0 : W64) 32 = false) ∧
    ([(0x84 : Byte), 0xE1, 0xE3, 0x81, 0x82, 0x83, 0xE0].all (fun c =>
      bit (sSpdm c).qcl.spdmCtrl 26 && (sSpdm c).disc.fwReady && (sSpdm c).qcl.spdmCode == c.toNat) = true) := by decide

/-- The request page holds a command of SEQ 1 with a payload; GENERATE_MSG as given. -/
def sMb (version : Bool) (mode : BitVec 3) (op msg : Nat) (p : List Byte) : State :=
  { s0 with mem := (s0.mem.setWord 0x8F_C000_0000 (BitVec.ofNat 64 (1 + op * 2 ^ 16 + p.length * 2 ^ 24 + msg * 2 ^ 48))).store 0x8F_C000_0008 p
            disc := { s0.disc with mode := mode }, boot := { mbxVersion := version, runSlot := some false } }
def mbOp (s : State) : Nat := (s.mem.word 0x8F_C000_0000).toNat / 2 ^ 16 % 2 ^ 8
def mbArg (s : State) : List Byte := s.mem.bytes 0x8F_C000_0008 (min 4088 ((s.mem.word 0x8F_C000_0000).toNat / 2 ^ 24 % 2 ^ 12))
def mbNew (s : State) : Bool := s.disc.fwReady && BitVec.ofNat 16 ((s.mem.word 0x8F_C000_0000).toNat % 2 ^ 16) == s.boot.mbxSeq + 1

theorem witness_mailbox :
    ((List.range' 1 10).all (fun op => mbNew (sMb true 2 op 0 [1, 1]) && mbOp (sMb true 2 op 0 [1, 1]) == op && mbArg (sMb true 2 op 0 [1, 1]) == [1, 1]) = true) ∧
    ((numAt (mbArg (sMb false 1 1 0 [0, 2])) 0 1 ≤ 1 ∧ 1 ≤ numAt (mbArg (sMb false 1 1 0 [0, 2])) 1 1) ∧ ¬ numAt (mbArg (sMb false 1 1 0 [2, 3])) 0 1 ≤ 1) ∧
    ((sMb true 2 3 0 []).niches.any (fun n => n.2.grant != 0) = false ∧ (s0.updNiche 1 (fun x => { x with grant := 1 })).niches.any (fun n => n.2.grant != 0) = true ∧
      (sMb true 2 3 0 []).disc.mode = 2 ∧ (sMb true 1 2 0 []).disc.mode ≠ 0) ∧
    (bit ((sMb true 2 4 0 []).mem.word 0x8F_C000_0000) 48 = false ∧ bit ((sMb true 2 4 1 []).mem.word 0x8F_C000_0000) 48 = true) ∧
    (numAt [1, 1] 0 1 < 2 ∧ numAt ([1, 0, 0, 0xF0, 0] : List Byte) 1 4 + (([1, 0, 0, 0xF0, 0] : List Byte).drop 5).length ≤ 0xF0_0000 ∧
      (sMb true 2 5 0 []).boot.runSlot ≠ some true) ∧
    (numAt ([0, 0] : List Byte) 0 2 = 0 ∧ numAt ([0xDC, 5] : List Byte) 0 2 = 1500 ∧ numAt ([0xB8, 11] : List Byte) 0 2 = 3000 ∧
      numAt ([0xDB, 5] : List Byte) 0 2 = 1499 ∧ numAt ([24] : List Byte) 0 1 % 64 < 25) := by decide +kernel

theorem witness_powerUp :
    State.reset.pins.perst = true ∧ railOf (0 : BitVec 4).toNat = some (800, 30, 950) ∧ (950 < 951 ∧ 950 ≤ 950 ∧ 1000 < 1001) ∧
    (1000 * 775 < 800 * (1000 - 30) ∧ 800 * (1000 + 30) < 1000 * 825 ∧ 800 * (1000 - 30) ≤ 1000 * 776 ∧ 1000 * 824 ≤ 800 * (1000 + 30)) := by decide

/-- Firmware runs; a read of a Patina record waits; the region is idle. -/
def sPat (mode : Nat) (smb : Bool) : State :=
  { s0 with boot := { runSlot := some false }, cores := [],
            pat := { readCtrl := if smb then 0 else BitVec.ofNat 64 (256 + 64 * mode), smbGo := smb, smbSel := BitVec.ofNat 8 (64 * mode) } }

theorem witness_patinaRecords :
    ([0, 1, 2].all (fun m => (sPat m false).fwRuns && bit (sPat m false).pat.readCtrl 8 && (sPat m false).pat.readCtrl.toNat / 2 ^ 6 % 4 == m &&
      (sPat m true).fwRuns && (sPat m true).pat.smbGo && (sPat m true).pat.smbSel.toNat / 2 ^ 6 % 4 == m) = true) ∧
    ((sPat 0 false).err.recovering = false ∧ (sPat 0 false).pat.smbGo = false ∧ (0x80 : Byte).toNat / 2 ^ 6 % 4 ≠ 3 ∧ bit (sPat 0 false).pat.control 17 = false) ∧
    ((sPat 0 false).pat.setAt + 600 ≤ ({ (sPat 0 false).pat with powerOnS := 600 } : Patina).powerOnS.toNat ∧
      ({ (sPat 0 false).pat with journalFault := true } : Patina).journalFault = true) := by decide

/-- A probe of RG00 is due: its slots not booked; booked, at their start in the next frame; and one under way. -/
def sProbe (x : Region) : State :=
  { sPat 0 false with pat := { control := 3, powerOnS := 3600 }, tl := { now := 2 ^ 20 + 7 * 1024 }, regions := [(0, { x with clock := 0 })] }

theorem witness_marginProbes :
    ((sProbe {}).fwRuns = true ∧ ((sProbe {}).region 0).probe = none ∧ (sProbe {}).probeDue 0 = true ∧ ((sProbe {}).region 0).probeBook = none) ∧
    ((sProbe { probeBook := some (7, 0) }).probeDue 0 = true ∧ (sProbe { probeBook := some (7, 0) }).probeSlot 0 = true ∧
      ((sProbe { probeBook := some (7, 0) }).region 0).state = 0 ∧ (sProbe { probeBook := some (7, 0) }).regionIdle 0 = true ∧ s0.regionIdle 0 = false) ∧
    (({ probeSkips := 14 } : Region).probeSkips + 1 < 16 ∧ 16 ≤ ({ probeSkips := 15 } : Region).probeSkips + 1) ∧
    ((sProbe { probe := some (5, 800, false) }).region 0).probe = some (5, 800, false) := by decide +kernel

def sErr (watts : Nat) : State := { sPat 0 false with boot := { runSlot := some false, capWatts := watts } }

def sInj : State := { (s0.updNiche 1 (fun x => { x with grant := 1 })) with err := { s0.err with control := 0x400_0000 } }

theorem witness_errorsAndPower :
    ((sErr 2000).fwRuns = true ∧ (sErr 2000).err.recovering = false ∧ ({ s0.err with recovering := true } : Errors).recovering = true) ∧
    ((sErr 2000).boot.capWatts < 2001 ∧ 100 * 1939 < 97 * (sErr 2000).boot.capWatts ∧ 97 * (sErr 2000).boot.capWatts ≤ 100 * 1940 ∧
      10 ≤ ({ s0.boot with capBelow := 9 } : Boot).capBelow + 1 ∧ (sErr 2000).boot.capBelow + 1 < 10) ∧
    ((sErr 2000).classOf 0 = .hbm ∧ (sErr 2000).classOf 0x1000_0000_0000 = .bulk ∧ (sErr 2000).classOf 0x2000_7FFF_FFF8 = .shelf) ∧
    (bit (0x441 : W64) 10 = true ∧ (({ s0 with niches := [(1, { ctxs := [(1, { control := 1, state := 3 })] })] } : State).ctx 1 1).state = 3) ∧
    (bit sInj.err.control 26 = true ∧ sInj.injectionOk 0x100_0000 = true ∧ sInj.injectionOk 0x200_0000 = false ∧ bit (0x100_0001 : W64) 0 = true ∧
      (0x100_0001 : W64).toNat / 2 % 16 ≠ 15) ∧
    ((0xFFF8 : BitVec 32).toNat % 8 = 0 ∧ (0xFFFC : BitVec 32).toNat % 8 = 4 ∧ (0x600_0020 : BitVec 32).toNat / 0x100_0000 = 6) ∧
    (bit (0 : W64) 0 = false ∧ bit s0.err.inject 0 = false ∧ ({ s0.err with held := true } : Errors).held = true ∧ s0.err.held = false ∧
      s0.pins.thermTrip = false) := by decide

/-! ## Witnesses: rules of the spec, and the block as a whole -/

theorem witness_bookingRights :
    ¬ ((Actor.job 1 = .placement ∧ false = false) ∨ (Actor.job 1 = .firmware ∧ false = true)) ∧
    ((Actor.placement = .placement ∧ false = false) ∨ (Actor.placement = .firmware ∧ false = true)) ∧ 0xFE < 0xFF ∧ (7 : Nat) < 8 := by decide

theorem witness_step :
    ({ s0 with pending := [.firmwareWatchdog] } : State).pending = .firmwareWatchdog :: [] ∧ State.reset.pending = [] ∧ 127 < 128 ∧ 31 < 32 := by decide

/-! ## Worked examples of the spec -/

/-- "Locating a core" (01_package.md): core C1A3F. -/
theorem test_locating_a_core :
    (regionOf 0x1A3F).toNat = 52 ∧ (indexOf 0x1A3F).toNat = 63 ∧ dieLoc 52 = 15 ∧ diePos 52 = 0 ∧ drawerBase 0x1A3F = 0x2100_347E_0000 := by decide

/-- A data cache with set 0 full, and its LFSR. -/
def fullSet (l : BitVec 16) : DCache :=
  let x : CacheLine := { addr := 0, data := [], poison := [] }
  { lines := [(0, x), (1, x), (2, x), (3, x)], lfsr := l }

/-- "Core C1A3F takes three allocations into full sets" (03_core.md). -/
theorem test_victim_ways :
    (fullSet 0x1A3F).chooseWay 0 = (2, 0x347E) ∧ (fullSet 0x347E).chooseWay 0 = (0, 0x68FC) ∧ (fullSet 0x68FC).chooseWay 0 = (0, 0xD1F8) := by decide

/-- "Encoding three instructions" (05_instruction_set.md), and the word of "A merged FADD" (12_atomics_and_sync.md). -/
theorem test_encoding :
    encR 0x0A 3 { pred := 2, pneg := false, dst := 10, src1 := 4, src2 := 5, src3 := 6, fmt := 0xC, fmt2 := 0, rnd := 0, sat := 0, flush := false, rsvd := 0 } = 0x1483_0A04_0506_C000 ∧
    encM 0x22 0 { pred := 0, pneg := false, dst := 7, src1 := 12, src2 := 0, scope := 3, size := 3, space := false, sx := false, off := 0x40 } = 0x4400_070C_006C_0040 ∧
    encM 0x24 10 { pred := 1, pneg := false, dst := 12, src1 := 2, src2 := 4, scope := 0, size := 2, space := false, sx := false, off := 0 } = 0x484A_0C02_0408_0000 ∧
    leBytes 8 0x1483_0A04_0506_C000 = [0x00, 0xC0, 0x06, 0x05, 0x04, 0x0A, 0x83, 0x14] := by decide

/-- LD.ACQ with SIZE 0b100 is illegal (R133). -/
theorem test_illegal_size : legal false 0 0x4400_070C_006C_0040 = true ∧ legal false 0 0x4400_070C_0070_0040 = false := by decide

/-- "Conversions to short formats" (06_number_formats.md), the rows in order. -/
theorem test_conversions :
    convert 2 0xC { sat := true } 0x3F88_0000 = (0x48, 0x01) ∧ convert 2 0xC { sat := true, rnd := 2, r := 0x1234_5678 } 0x3F88_0000 = (0x49, 0x01) ∧
    convert 2 0xC { sat := true, rnd := 2, r := 0x9000_0000 } 0x3F88_0000 = (0x48, 0x01) ∧ convert 0 0xC { sat := true } 0xBDCC_CCCD = (0, 0x05) ∧
    convert 0 0xC { sat := true } 0x4060_0000 = (7, 0x03) ∧ convert 2 0xC { sat := true, rnd := 1 } 0x4348_0000 = (0x7F, 0x03) ∧
    convert 3 0xC { sat := true } 0x3F40_0000 = (1, 0x01) ∧ convert 2 0xC { sat := true } 0x7FA0_0000 = (0x80, 0x10) ∧
    convert 1 0xC { sat := true } 0x8000_0000 = (0, 0) := by decide +kernel

def h16 (c : Nat) : FV := decodeFmt 0xA c

/-- "An oversized product beside a NaN" (06_number_formats.md). -/
theorem test_fused_sum :
    fusedTo 0xD {} [[h16 0x7BFF, h16 0x7BFF], [h16 0x7D01, h16 0x3C00], [h16 0x3C00], [h16 0xC000, h16 0x3800]] = (0x7F_F000_0000, 0x10) ∧
    fusedTo 0xD {} [[h16 0x7BFF, h16 0x7BFF], [h16 0x3C00], [h16 0xC000, h16 0x3800]] = (0x43_DFF0_0100, 0) ∧
    convert 0xA 0xD {} 0x7F_F000_0000 = (0x7E00, 0x10) := by decide +kernel

def q4 (c : Nat) : Quantised := quantise 0 0xC 0x7C {} c
/-- The six kinds of lane, and the 32 lanes. -/
def lanesQ : List Quantised := [q4 0x4020_0000, q4 0xBFA0_0000, q4 0x3D80_0000, q4 0x7FC0_0000, q4 0x3F80_0000] ++ List.replicate 27 (q4 0x3E80_0000)

/-- "One block quantised and a scale updated" (07_narrow_arithmetic.md). -/
theorem test_quantised_block :
    lanesQ.map (·.code) = [7, 0xE, 0, 8, 6] ++ List.replicate 27 2 ∧ lanesQ.foldl (fun a q => a ||| q.flags) 0 = 0x95 ∧
    leNat (packCodes 4 (lanesQ.map (·.code))) = 0x2222_2222_2222_2222_2222_2222_2226_80E7 ∧
    leNat ((statAdds 0 0x7C lanesQ).flatMap (leBytes 4)) = 0x0000_0001_0000_0000_0000_0020_0000_0001_0000_0001_0000_0001_40A0_0000_4020_0000 := by decide +kernel

/-- Block 582 of a row operand of F4 (08_matrix_array.md). -/
theorem test_block_of_a_tray : blockAt 0 0 (4 * 128 + 70) = (0x26A0, some 0x2846) := by decide

/-- "Three ranks on any cores" (09_accumulation.md), in X40 and in X80. -/
theorem test_three_ranks :
    addValue false (addValue false (some 0x43_A000_0000) (some 0x3F_E000_0000)).1 (some 0x3F_E000_0000) = (some 0x43_A000_0000, 0x01) ∧
    addValue true (addValue true (some 0x401D_0000_0000_0000_0000) (some 0x3FFF_0000_0000_0000_0000)).1 (some 0x3FFF_0000_0000_0000_0000) =
      (some 0x401D_0000_0008_0000_0000, 0) ∧
    ({ red0 with f := 1, g := 1, c := 3 } : Reduction).split 0 3 = 2 := by decide +kernel

/-- The tables of "One translation" (10_memory_tiers.md), with ENABLE 1 and the device in each pointer, as R260 asks (assumption log, 40). -/
def sWalk : State :=
  let m := ((((s0.mem.setWord 0x10_0090 0x0123_0000_0010_1001).setWord 0x10_1340 0x0123_0000_0010_2001).setWord 0x10_2AC8 0x0123_0000_0010_3001).setWord 0x10_3E20 0x0123_0000_0010_4101).setWord 0x10_41D0 0x0123_2000_0A13_0837
  { s0.updNiche 1 (fun x => { x with nplRoot := 0x0123_0000_0010_0001 }) with mem := m, disc := { s0.disc with deviceId := 0x123, idValid := true } }

theorem test_translation : (sWalk.translate (some 0) 1 0x0012_3456_789A_BCDE .load).1 = .ok (.dev 0x2000_0A13_BCDE) true := by decide +kernel

/-- The four lanes of "A merged FADD" (12_atomics_and_sync.md). -/
theorem test_merged_fadd :
    atomOp 10 4 0x4B80_0000 0x3F80_0000 0 = (0x4B80_0000, 1) ∧ atomOp 10 4 0x4B80_0000 0x4000_0000 0 = (0x4B80_0001, 0) ∧
    atomOp 10 4 0x4B80_0001 0x3F80_0000 0 = (0x4B80_0002, 1) := by decide +kernel

/-- The interference index of niche 3 in frame 0x4_1A20 (15_niches.md). -/
theorem test_interference :
    let x := ({ interfAvg := 0x2000 } : Niche).frameEnd 400_000 100_000 0x4_1A20
    x.interfLast = 0x3FFF ∧ x.interfAvg = 0x21FF ∧ x.interfFrame = 0x4_1A20 := by decide

/-- "Finding a saved tile value" (15_niches.md): the image of C1405. -/
theorem test_save_image :
    let s : State := { s0 with niches := [(6, { grant := 2 ^ 4 + 2 ^ 5 + 2 ^ 40, ctxs := [(2, { save := 0x0012_0000_0000 })] })] }
    s.imageBase 6 2 40 = 0x0012_04A0_0000 ∧ s.imageBase 6 2 (regionOf 0x1405) + (indexOf 0x1405).toNat * 0x4_A000 + 0x3_8000 + (32 * 3 + 7) * 8 = 0x0012_04BA_A338 := by decide

/-- "A route across the torus" (16_trestle.md): TR_TORUS of 32 × 32 × 16 with six ports each way. -/
theorem test_route :
    let s : State := { s0 with disc := { s0.disc with deviceId := 0x17C3, idValid := true },
                               tr := { torus := BitVec.ofNat 64 (3 + 31 * 4 + 31 * 2 ^ 9 + 15 * 2 ^ 16 + 6 * 2 ^ 23), ports := (List.range 36).map (fun p => (p, { state := 2 })) } }
    coords [32, 32, 16] 0x17C3 = [3, 30, 5] ∧ coords [32, 32, 16] 0x303D = [29, 1, 12] ∧ s.route 0x303D 5 0x20 false none = some (10, false) ∧
    torusHop [32, 32, 16] (0x17C3 - 3) 0x303D = some (1, true) := by decide

/-- "Decoding an audit record" (18_errors.md). -/
theorem test_audit_record :
    ({ cause := 0x28, loc := 15, core := some 0x1A3F, niche := some 6, ctx := some 2, aux := 70, addr := 0x40_0020_1A08, aspace := 2, detail := 0x0005_FFFF_FFFF_FFC0 } : ErrInfo).record
      0x0123_4567_9A00 1 = { w0 := 0x0123_4567_9A00, w1 := 0x0003_1A51_BA3F_3E28, w2 := 0x8000_0040_0020_1A08, w3 := 0x0005_FFFF_FFFF_FFC0 } := by decide

/-- Word 7 of "A patch between two launches" (14_front_end.md). -/
theorem test_final_time : ({ seq := 100, words := [], outcome := some (1, 0), commit := 0x0123_4567_8000 } : QEntry).word7 = 0x0123_4567_8000_0001 := by decide

/-- Timestamps of 02_timeline.md: tick 0x0100_88B8 lies in frame 0x10. -/
theorem test_frame : frameOf 0x0100_88B8 = 0x10 ∧ frameOf 0x0100_0000 = 0x10 := by decide

/-! ## Commands that the outside cannot present -/

theorem test_wf_register : Instr.wf (.registerWrite .firmware 0x104 8 0) = false ∧ Instr.wf (.registerWrite .firmware 0x106 4 0) = false ∧
    Instr.wf (.registerWrite .firmware 0x104 4 0) = true ∧ Instr.wf (.registerWrite .firmware 0x108 8 0) = true := by decide
theorem test_wf_port : Instr.wf (.portRetrain .firmware 36) = false ∧ Instr.wf (.portRetrain .firmware 35) = true ∧
    Instr.wf (.tlBookWrite .placement false 36 0 0) = false ∧ Instr.wf (.tlBookWrite .firmware true 36 0 0) = true := by decide
theorem test_wf_packet : packetOk { pk0 with data := List.replicate 4097 0 } = false ∧ packetOk { pk0 with data := List.replicate 4096 0 } = true :=
  ⟨by unfold packetOk; rw [List.length_replicate]; decide, by unfold packetOk; rw [List.length_replicate]; decide⟩
theorem test_wf_dimms : Instr.wf (.reset (List.replicate 17 64)) = false ∧ Instr.wf (.reset [257]) = false ∧ Instr.wf (.reset (List.replicate 16 256)) = true := by decide
theorem test_wf_host : Instr.wf (.hostLineRequest 0x20 true) = false ∧ Instr.wf (.hostLineRequest 0x40 true) = true ∧ Instr.wf (.hostWriteback 0x40 []) = false ∧
    Instr.wf (.hostAccess 0 false 4 8 none) = false ∧ Instr.wf (.hostAccess 0 false 8 3 none) = false ∧ Instr.wf (.hostAccess 0 false 8 8 none) = true := by decide
theorem test_wf_memory : Instr.wf (.hbmRepair 12 0) = false ∧ Instr.wf (.hbmRepair 11 0) = true ∧ Instr.wf (.memoryPatrolScrub 4 .clean) = false ∧
    Instr.wf (.memoryPatrolScrub 8 .clean) = true := by decide

end Sys2Proof.Tests
end

section
/-! SUPPORT. Booking tables (02_timeline.md, R65): who may write an entry, and what it then reads. -/

namespace Sys2Proof.Proofs

open Sys2Proof Sys2Proof.Machine

/-! ## What a message to a port leaves of the timeline -/

@[simp] theorem wire_tl (s : State) (p : Nat) (x : TxItem) : (s.wire p x).tl = s.tl := by
  simp [State.wire]

@[simp] theorem sendLink_tl (s : State) (p : PortNum) (code : BitVec 4) (body : List W64) : (s.sendLink p code body).tl = s.tl := by
  unfold State.sendLink
  dsimp only
  split
  · exact wire_tl s p.toNat (.link code body)
  · exact State.updPort_tl s p _

@[simp] theorem sendBook_tl (s : State) (p : PortNum) (idx : Nat) (e : W32) : (s.sendBook p idx e).tl = s.tl := by
  unfold State.sendBook
  split
  · exact (State.updPort_tl _ p _).trans (sendLink_tl s p 4 _)
  · rfl

/-! ## The write of an entry -/

/-- Of the entries written to one place of a booking table, the last one is read. -/
theorem readBook_append_same (t : Timeline) (ofRegion : Bool) (key : Nat) (e : W32) (frame : Nat) :
    ({ t with bookNext := t.bookNext ++ [(ofRegion, key, e, frame)] } : Timeline).readBook ofRegion key = e := by
  simp [Timeline.readBook]

/-- The entry keeps the KIND of its table, whatever KIND is written. -/
theorem readBook_bookPut_same (s : State) (ofRegion : Bool) (key : Nat) (v : W32) :
    (s.bookPut ofRegion key v).tl.readBook ofRegion key = ((v &&& 0x1_FFFD) ||| (if ofRegion then 2 else 0)) :=
  readBook_append_same s.tl.commit ofRegion key _ _

/-- The BOOK record that a send entry gives its peer (R443) is no part of this device's tables. -/
theorem writeBook_tl (s : State) (ofRegion : Bool) (n : BitVec 6) (idx : Nat) (v : W32) :
    (s.writeBook ofRegion n idx v).tl = (s.bookPut ofRegion (n.toNat * 1024 + idx) v).tl := by
  unfold State.writeBook
  dsimp only
  split
  · rfl
  · exact sendBook_tl _ n idx _

theorem bookRight_iff (a : Actor) (ofRegion : Bool) :
    bookRight a ofRegion = true ↔ (a = .placement ∧ ofRegion = false) ∨ (a = .firmware ∧ ofRegion = true) := by
  cases a <;> cases ofRegion <;> simp [bookRight]

theorem exec_tlBookWrite_of_right {a : Actor} {ofRegion : Bool} (h : bookRight a ofRegion = true) (n : BitVec 6) (idx : BitVec 10)
    (v : W32) (s : State) : exec (.tlBookWrite a ofRegion n idx v) s = .next (s.writeBook ofRegion n idx.toNat v) := by
  rw [exec_tlBookWrite, execTlBookWrite, if_pos h]

theorem exec_tlBookWrite_of_not_right {a : Actor} {ofRegion : Bool} (h : ¬ bookRight a ofRegion = true) (n : BitVec 6)
    (idx : BitVec 10) (v : W32) (s : State) : exec (.tlBookWrite a ofRegion n idx v) s = .next s := by
  rw [exec_tlBookWrite, execTlBookWrite, if_neg h]

/-- Settles O8: an actor without the right leaves the state as it is; with it, the entry written is the last one of its place, and
telling the peer of a send entry does not touch it. -/
theorem bookingRights : Obligations.BookingRights := by
  unfold Obligations.BookingRights
  intro s a ofRegion n idx v mayWrite
  have hright : bookRight a ofRegion = true ↔ mayWrite := bookRight_iff a ofRegion
  refine ⟨fun hno => ?_, fun hyes => ⟨_, exec_tlBookWrite_of_right (hright.mpr hyes) n idx v s, ?_⟩⟩
  · exact exec_tlBookWrite_of_not_right (fun hr => hno (hright.mp hr)) n idx v s
  · rw [writeBook_tl]
    exact readBook_bookPut_same s ofRegion (n.toNat * 1024 + idx.toNat) v

end Sys2Proof.Proofs
end

section
/-! SUPPORT. The scalar registers and the predicates (05_instruction_set.md, R71): what a read answers after a write. -/

namespace Sys2Proof.Proofs

open Sys2Proof Sys2Proof.Machine

/-! ## One bit of a word -/

/-- The bits above bit i, the new bit i, the bits below it. -/
theorem putN_bit (x i : Nat) (b : Bool) : putN x i 1 b.toNat = 2 ^ i * Nat.bit b (x / 2 ^ i / 2) + x % 2 ^ i := by
  have hx : 2 ^ i * (x / 2 ^ i) + x % 2 ^ i = x := Nat.div_add_mod x (2 ^ i)
  have hq : 2 * (x / 2 ^ i / 2) + x / 2 ^ i % 2 = x / 2 ^ i := Nat.div_add_mod (x / 2 ^ i) 2
  have hb : b.toNat % 2 = b.toNat := Nat.mod_eq_of_lt b.toNat_lt
  rw [putN, pow_one, hb, Nat.bit_val, mul_add]
  generalize x / 2 ^ i = q at *
  have hsum : 2 ^ i * (2 * (q / 2)) + q % 2 * 2 ^ i = 2 ^ i * q := by rw [mul_comm (q % 2), ← mul_add, hq]
  have hcomm : b.toNat * 2 ^ i = 2 ^ i * b.toNat := mul_comm _ _
  omega

theorem testBit_putN_bit (x i j : Nat) (b : Bool) : (putN x i 1 b.toNat).testBit j = if j = i then b else x.testBit j := by
  rw [putN_bit, Nat.testBit_two_pow_mul_add _ (Nat.mod_lt x (Nat.two_pow_pos i))]
  rcases lt_trichotomy j i with h | rfl | h
  · simp [h, h.ne]
  · simp
  · obtain ⟨k, rfl⟩ := Nat.exists_eq_add_of_lt h
    have hk : i + k + 1 - i = k + 1 := by omega
    have hj : k + 1 + i = i + k + 1 := by omega
    rw [if_neg h.not_gt, if_neg h.ne', hk, Nat.testBit_bit_succ, Nat.testBit_div_two, Nat.testBit_div_two_pow, hj]

/-- A read of a bit after a write of one bit. -/
theorem bit_setBit {w : Nat} (x : BitVec w) (i j : Nat) (b : Bool) (h : j < w) :
    bit (setBit x i b) j = if j = i then b else bit x j := by
  rw [bit, setBit, setFld, BitVec.getLsbD_ofNat, testBit_putN_bit]
  simp only [h, decide_true, Bool.true_and, bit, BitVec.testBit_toNat]

/-! ## The scalar registers -/

@[simp] theorem seReg_zero (e : Se) : e.reg 0 = 0 := rfl

@[simp] theorem seSetReg_zero (e : Se) (v : W64) : e.setReg 0 v = e := rfl

theorem seReg_setReg (e : Se) (i j : Nat) (v : W64) (h : i ≠ 0) : (e.setReg i v).reg j = if j = i then v else e.reg j := by
  rw [Se.setReg, if_neg h]
  by_cases hji : j = i
  · subst hji
    simp [Se.reg, h]
  · simp only [Se.reg, if_neg hji, Sparse.getD_put_other _ i j v 0 hji]

/-! ## The predicates -/

@[simp] theorem predOf_zero (p : Byte) : predOf p 0 = true := rfl

@[simp] theorem setPred_zero (p : Byte) (b : Bool) : setPred p 0 b = p := rfl

theorem predOf_setPred (p : Byte) (i j : Nat) (b : Bool) (hi : 0 < i) (hj : 0 < j) (hj8 : j < 8) :
    predOf (setPred p i b) j = if j = i then b else predOf p j := by
  have hi0 : i ≠ 0 := hi.ne'
  have hj0 : (j == 0) = false := by simpa using hj.ne'
  simp only [predOf, setPred, if_neg hi0, hj0, Bool.false_or, bit_setBit p i j b hj8]

/-- A change that leaves the predicates of a thread leaves those of every thread. -/
theorem preds_updThread (x : Group) (l : Nat) (f : Thread → Thread) (hf : ∀ t, (f t).preds = t.preds) (l' : Nat) :
    ((x.updThread l f).thread l').preds = (x.thread l').preds := by
  by_cases h : l < x.threads.length
  · rw [Group.thread_updThread x l f l' h]
    split
    next e => rw [e, hf]
    next => rfl
  · have hset : x.threads.set l (f (x.thread l)) = x.threads := List.set_eq_of_length_le (Nat.le_of_not_lt h)
    rw [Group.updThread, hset]

/-- A write of p0 is discarded in every lane, written or not. -/
theorem preds_writePreds_zero (x : Group) (ls : List Nat) (f : Nat → Bool) (l : Nat) :
    ((x.writePreds ls 0 f).thread l).preds = (x.thread l).preds := by
  unfold Group.writePreds
  induction ls generalizing x with
  | nil => rfl
  | cons a ls ih => exact (ih _).trans (preds_updThread x a _ (fun t => setPred_zero t.preds (f a)) l)

/-- Settles O6: register by register and predicate by predicate, with the lanes of a group one write after another. -/
theorem registerZeroAndPredicateZero : Obligations.RegisterZeroAndPredicateZero := by
  unfold Obligations.RegisterZeroAndPredicateZero
  exact ⟨fun e v => ⟨seReg_zero e, seSetReg_zero e v, fun i j hi => seReg_setReg e i j v hi⟩,
    fun p b => ⟨predOf_zero p, setPred_zero p b, fun i j hi _ hj hj8 => predOf_setPred p i j b hi hj hj8⟩,
    fun x ls f l => ⟨predOf_zero _, preds_writePreds_zero x ls f l⟩⟩

end Sys2Proof.Proofs
end

section
/-! SUPPORT. The codes of a block scale (06_number_formats.md, R150): the value of each code, as the model decodes it. -/

namespace Sys2Proof.Proofs

open Sys2Proof Sys2Proof.Machine

/-- BS8 is neither a float, an integer nor a T2 format: its one VOID code apart, the tilt gives the significand, in quarters,
and the exponent field the power of two. -/
theorem decodeFmt_blockScale (c : Nat) :
    decodeFmt 0xF c = if c % 256 = 0xFF then .nan else .fin false (4 + c % 4) ((c % 256 / 4 : Nat) - 34) := by
  have hfp : fpOf 0xF = none := rfl
  have hint : intOf 0xF = none := rfl
  simp [decodeFmt, hfp, hint]

/-- A significand of 4 + T quarters: the two binary places of the tilt are the distance of −34 from −32. -/
theorem quarters_mul_two_zpow (T : Nat) (E : Int) :
    ((4 + T : Nat) : ℚ) * (2 : ℚ) ^ (E - 34) = (2 : ℚ) ^ (E - 32) * (1 + (T : ℚ) / 4) := by
  have hexp : E - 32 = E - 34 + 2 := by omega
  have hpow : (2 : ℚ) ^ (E - 32) = (2 : ℚ) ^ (E - 34) * 4 := by
    rw [hexp, zpow_add₀ two_ne_zero]
    norm_num
  rw [hpow]
  push_cast
  ring

/-- Settles O7: a code below VOID is its own low byte, so it decodes to 4 + T quarters times a power of two. -/
theorem blockScaleCodes : Obligations.BlockScaleCodes := by
  unfold Obligations.BlockScaleCodes
  refine ⟨fun code hcode => ⟨4 + code % 4, (code / 4 : Nat) - 34, ?_, quarters_mul_two_zpow _ _⟩, ?_⟩
  · have hbyte : code % 256 = code := Nat.mod_eq_of_lt (by omega)
    rw [decodeFmt_blockScale, hbyte, if_neg hcode.ne]
  · rw [decodeFmt_blockScale, if_pos rfl]

end Sys2Proof.Proofs
end

section
/-! SUPPORT. Instruction words (05_instruction_set.md, R129): the fields of a format tile the 64 bits, so that a word and its fields
determine each other. -/

namespace Sys2Proof.Proofs

open Sys2Proof Sys2Proof.Machine

/-! ## Fields that tile a word -/

/-- Fields (lowest bit, width, value) from bit `hi` down to bit 0, one beside the next. -/
def Tiles : Nat → List (Nat × Nat × Nat) → Prop
  | hi, [] => hi = 0
  | hi, (lo, n, _) :: fs => lo + n = hi ∧ Tiles lo fs

/-- The number that fields spell. -/
def fieldSum (fs : List (Nat × Nat × Nat)) : Nat := (fs.map (fun f => f.2.2 % 2 ^ f.2.1 * 2 ^ f.1)).sum

theorem pack_eq_fieldSum (fs : List (Nat × Nat × Nat)) : pack fs = BitVec.ofNat 64 (fieldSum fs) := by
  have hfold : ∀ a, fs.foldl (fun acc f => acc + f.2.2 % 2 ^ f.2.1 * 2 ^ f.1) a = a + fieldSum fs := by
    unfold fieldSum
    induction fs with
    | nil => simp
    | cons f fs ih => intro a; simp [ih, add_assoc]
  rw [pack, hfold, zero_add]

theorem fieldSum_lt {hi : Nat} {fs : List (Nat × Nat × Nat)} (h : Tiles hi fs) : fieldSum fs < 2 ^ hi := by
  induction fs generalizing hi with
  | nil => simp [fieldSum]
  | cons f fs ih =>
    obtain ⟨lo, n, v⟩ := f
    obtain ⟨rfl, htl⟩ := h
    have hv : v % 2 ^ n + 1 ≤ 2 ^ n := Nat.mod_lt _ (Nat.two_pow_pos n)
    calc fieldSum ((lo, n, v) :: fs) = v % 2 ^ n * 2 ^ lo + fieldSum fs := rfl
      _ < v % 2 ^ n * 2 ^ lo + 2 ^ lo := Nat.add_lt_add_left (ih htl) _
      _ = (v % 2 ^ n + 1) * 2 ^ lo := (Nat.succ_mul _ _).symm
      _ ≤ 2 ^ n * 2 ^ lo := Nat.mul_le_mul_right _ hv
      _ = 2 ^ (lo + n) := by rw [pow_add, mul_comm]

/-- The field at the head stands above the fields below it, and those below do not feel it. -/
theorem fieldSum_field {hi lo n v : Nat} {fs : List (Nat × Nat × Nat)} (h : Tiles hi fs) (hf : (lo, n, v) ∈ fs) :
    fieldSum fs / 2 ^ lo % 2 ^ n = v % 2 ^ n ∧ lo + n ≤ hi := by
  induction fs generalizing hi with
  | nil => simp at hf
  | cons f fs ih =>
    obtain ⟨lo', n', v'⟩ := f
    obtain ⟨rfl, htl⟩ := h
    have hsum : fieldSum ((lo', n', v') :: fs) = v' % 2 ^ n' * 2 ^ lo' + fieldSum fs := rfl
    rcases List.mem_cons.mp hf with heq | htail
    · obtain ⟨rfl, rfl, rfl⟩ : lo = lo' ∧ n = n' ∧ v = v' := by simpa using heq
      refine ⟨?_, le_rfl⟩
      rw [hsum, Nat.mul_comm, Nat.mul_add_div (Nat.two_pow_pos lo), Nat.div_eq_of_lt (fieldSum_lt htl), add_zero, Nat.mod_mod]
    · obtain ⟨hval, hle⟩ := ih htl htail
      obtain ⟨k, rfl⟩ := Nat.exists_eq_add_of_le hle
      refine ⟨?_, by omega⟩
      have hsplit : v' % 2 ^ n' * 2 ^ (lo + n + k) = 2 ^ lo * (2 ^ n * (v' % 2 ^ n' * 2 ^ k)) := by ring
      rw [hsum, hsplit, Nat.mul_add_div (Nat.two_pow_pos lo), Nat.mul_add_mod, hval]

/-- A field of a packed word is the value that was put there. -/
theorem fld_pack {lo n v : Nat} {fs : List (Nat × Nat × Nat)} (h : Tiles 64 fs) (hf : (lo, n, v) ∈ fs) :
    fld (pack fs) lo n = v % 2 ^ n := by
  rw [pack_eq_fieldSum, fld, BitVec.toNat_ofNat, Nat.mod_eq_of_lt (fieldSum_lt h), (fieldSum_field h hf).1]

/-- Each field holds what a word has in its place. -/
def FieldsOf (w : W64) (fs : List (Nat × Nat × Nat)) : Prop := ∀ f ∈ fs, f.2.2 = fld w f.1 f.2.1

theorem fieldSum_fieldsOf {w : W64} {hi : Nat} {fs : List (Nat × Nat × Nat)} (h : Tiles hi fs) (hw : FieldsOf w fs) :
    fieldSum fs = w.toNat % 2 ^ hi := by
  induction fs generalizing hi with
  | nil => obtain rfl : hi = 0 := h; simp [fieldSum, Nat.mod_one]
  | cons f fs ih =>
    obtain ⟨lo, n, v⟩ := f
    obtain ⟨rfl, htl⟩ := h
    have hv : v = w.toNat / 2 ^ lo % 2 ^ n := hw (lo, n, v) (List.mem_cons_self ..)
    have htail : fieldSum fs = w.toNat % 2 ^ lo := ih htl (fun g hg => hw g (List.mem_cons_of_mem _ hg))
    calc fieldSum ((lo, n, v) :: fs) = v % 2 ^ n * 2 ^ lo + fieldSum fs := rfl
      _ = w.toNat % 2 ^ lo + 2 ^ lo * (w.toNat / 2 ^ lo % 2 ^ n) := by rw [htail, hv, Nat.mod_mod, add_comm, mul_comm]
      _ = w.toNat % 2 ^ (lo + n) := by rw [pow_add, Nat.mod_mul]

/-- A word packed from its own fields is that word. -/
theorem pack_fieldsOf {w : W64} {fs : List (Nat × Nat × Nat)} (h : Tiles 64 fs) (hw : FieldsOf w fs) : pack fs = w := by
  apply BitVec.eq_of_toNat_eq
  rw [pack_eq_fieldSum, BitVec.toNat_ofNat, fieldSum_fieldsOf h hw, Nat.mod_mod, Nat.mod_eq_of_lt w.isLt]

/-! ## A field of a word as a value of its width -/

theorem ofNat_fld_pack {n lo : Nat} {fs : List (Nat × Nat × Nat)} (h : Tiles 64 fs) (x : BitVec n) (hf : (lo, n, x.toNat) ∈ fs) :
    BitVec.ofNat n (fld (pack fs) lo n) = x := by
  rw [fld_pack h hf, Nat.mod_eq_of_lt x.isLt, BitVec.ofNat_toNat, BitVec.setWidth_eq]

theorem bit_eq_fld {w : Nat} (x : BitVec w) (i : Nat) : (bit x i).toNat = fld x i 1 := by
  rw [bit, ← BitVec.testBit_toNat, Nat.toNat_testBit, fld, pow_one]

theorem bit_pack {lo : Nat} {fs : List (Nat × Nat × Nat)} (h : Tiles 64 fs) (b : Bool) (hf : (lo, 1, b.toNat) ∈ fs) :
    bit (pack fs) lo = b := by
  have inj : ∀ d c : Bool, d.toNat = c.toNat → d = c := by decide
  have hb : b.toNat % 2 ^ 1 = b.toNat := Nat.mod_eq_of_lt b.toNat_lt
  exact inj _ _ (by rw [bit_eq_fld, fld_pack h hf, hb])

/-! ## The three formats -/

/-- The fields of an R-format word. -/
def fieldsR (op fn : Nat) (f : RFmt) : List (Nat × Nat × Nat) :=
  encHead op fn f.pred f.pneg ++ [(40, 8, f.dst.toNat), (32, 8, f.src1.toNat), (24, 8, f.src2.toNat), (16, 8, f.src3.toNat),
    (12, 4, f.fmt.toNat), (8, 4, f.fmt2.toNat), (5, 3, f.rnd.toNat), (3, 2, f.sat.toNat), (2, 1, f.flush.toNat), (0, 2, f.rsvd.toNat)]

/-- The fields of an I-format or B-format word. -/
def fieldsI (op fn : Nat) (f : IFmt) : List (Nat × Nat × Nat) :=
  encHead op fn f.pred f.pneg ++ [(40, 8, f.dst.toNat), (32, 8, f.src1.toNat), (0, 32, f.imm.toNat)]

/-- The fields of an M-format word. -/
def fieldsM (op fn : Nat) (f : MFmt) : List (Nat × Nat × Nat) :=
  encHead op fn f.pred f.pneg ++ [(40, 8, f.dst.toNat), (32, 8, f.src1.toNat), (24, 8, f.src2.toNat), (21, 3, f.scope.toNat),
    (18, 3, f.size.toNat), (17, 1, f.space.toNat), (16, 1, f.sx.toNat), (0, 16, f.off.toNat)]

theorem tiles_fieldsR (op fn : Nat) (f : RFmt) : Tiles 64 (fieldsR op fn f) := by simp [fieldsR, encHead, Tiles]

theorem tiles_fieldsI (op fn : Nat) (f : IFmt) : Tiles 64 (fieldsI op fn f) := by simp [fieldsI, encHead, Tiles]

theorem tiles_fieldsM (op fn : Nat) (f : MFmt) : Tiles 64 (fieldsM op fn f) := by simp [fieldsM, encHead, Tiles]

/-- OP and FN of a word packed with the common head. -/
theorem head_pack {op fn : Nat} (hop : op < 128) (hfn : fn < 32) {fs : List (Nat × Nat × Nat)} (h : Tiles 64 fs)
    (ho : (57, 7, op) ∈ fs) (hn : (48, 5, fn) ∈ fs) : wOp (pack fs) = op ∧ wFn (pack fs) = fn :=
  ⟨(fld_pack h ho).trans (Nat.mod_eq_of_lt hop), (fld_pack h hn).trans (Nat.mod_eq_of_lt hfn)⟩

theorem wR_encR (op fn : Nat) (f : RFmt) : wR (encR op fn f) = f := by
  have h := tiles_fieldsR op fn f
  have num {n lo : Nat} (x : BitVec n) (hf : (lo, n, x.toNat) ∈ fieldsR op fn f) : BitVec.ofNat n (fld (encR op fn f) lo n) = x :=
    ofNat_fld_pack h x hf
  have flag {lo : Nat} (b : Bool) (hf : (lo, 1, b.toNat) ∈ fieldsR op fn f) : bit (encR op fn f) lo = b := bit_pack h b hf
  simp only [wR, wDst, wS1, wS2, wS3, wFmt, wFmt2]
  rw [num f.pred, flag f.pneg, num f.dst, num f.src1, num f.src2, num f.src3, num f.fmt, num f.fmt2, num f.rnd, num f.sat,
    flag f.flush, num f.rsvd] <;> simp [fieldsR, encHead]

theorem wI_encI (op fn : Nat) (f : IFmt) : wI (encI op fn f) = f := by
  have h := tiles_fieldsI op fn f
  have num {n lo : Nat} (x : BitVec n) (hf : (lo, n, x.toNat) ∈ fieldsI op fn f) : BitVec.ofNat n (fld (encI op fn f) lo n) = x :=
    ofNat_fld_pack h x hf
  have flag : bit (encI op fn f) 53 = f.pneg := bit_pack h f.pneg (by simp [fieldsI, encHead])
  simp only [wI, wDst, wS1]
  rw [num f.pred, flag, num f.dst, num f.src1, num f.imm] <;> simp [fieldsI, encHead]

theorem wM_encM (op fn : Nat) (f : MFmt) : wM (encM op fn f) = f := by
  have h := tiles_fieldsM op fn f
  have num {n lo : Nat} (x : BitVec n) (hf : (lo, n, x.toNat) ∈ fieldsM op fn f) : BitVec.ofNat n (fld (encM op fn f) lo n) = x :=
    ofNat_fld_pack h x hf
  have flag {lo : Nat} (b : Bool) (hf : (lo, 1, b.toNat) ∈ fieldsM op fn f) : bit (encM op fn f) lo = b := bit_pack h b hf
  simp only [wM, wDst, wS1, wS2, wSize]
  rw [num f.pred, flag f.pneg, num f.dst, num f.src1, num f.src2, num f.scope, num f.size, flag f.space, flag f.sx, num f.off] <;>
    simp [fieldsM, encHead]

theorem toNat_ofNat_fld {w : Nat} (x : BitVec w) (lo n : Nat) : (BitVec.ofNat n (fld x lo n)).toNat = fld x lo n := by
  rw [BitVec.toNat_ofNat, fld, Nat.mod_mod]

theorem fieldsOf_fieldsR (w : W64) : FieldsOf w (fieldsR (wOp w) (wFn w) (wR w)) := by
  simp [-BitVec.toNat_ofNat, FieldsOf, fieldsR, encHead, wR, wOp, wFn, wDst, wS1, wS2, wS3, wFmt, wFmt2, toNat_ofNat_fld, bit_eq_fld]

theorem fieldsOf_fieldsI (w : W64) : FieldsOf w (fieldsI (wOp w) (wFn w) (wI w)) := by
  simp [-BitVec.toNat_ofNat, FieldsOf, fieldsI, encHead, wI, wOp, wFn, wDst, wS1, toNat_ofNat_fld, bit_eq_fld]

theorem fieldsOf_fieldsM (w : W64) : FieldsOf w (fieldsM (wOp w) (wFn w) (wM w)) := by
  simp [-BitVec.toNat_ofNat, FieldsOf, fieldsM, encHead, wM, wOp, wFn, wDst, wS1, wS2, wSize, toNat_ofNat_fld, bit_eq_fld]

/-- Settles O58: in each format the fields tile the word, so each is read back from its place, and together they are the word. -/
theorem instructionWords : Obligations.InstructionWords := by
  unfold Obligations.InstructionWords
  refine ⟨fun op fn hop hfn => ⟨fun f => ?_, fun f => ?_, fun f => ?_⟩, fun w => ⟨?_, ?_, ?_⟩⟩
  · obtain ⟨ho, hn⟩ := head_pack hop hfn (tiles_fieldsR op fn f) (by simp [fieldsR, encHead]) (by simp [fieldsR, encHead])
    exact ⟨ho, hn, wR_encR op fn f⟩
  · obtain ⟨ho, hn⟩ := head_pack hop hfn (tiles_fieldsI op fn f) (by simp [fieldsI, encHead]) (by simp [fieldsI, encHead])
    exact ⟨ho, hn, wI_encI op fn f⟩
  · obtain ⟨ho, hn⟩ := head_pack hop hfn (tiles_fieldsM op fn f) (by simp [fieldsM, encHead]) (by simp [fieldsM, encHead])
    exact ⟨ho, hn, wM_encM op fn f⟩
  · exact pack_fieldsOf (tiles_fieldsR _ _ _) (fieldsOf_fieldsR w)
  · exact pack_fieldsOf (tiles_fieldsI _ _ _) (fieldsOf_fieldsI w)
  · exact pack_fieldsOf (tiles_fieldsM _ _ _) (fieldsOf_fieldsM w)

end Sys2Proof.Proofs
end

section
/-! SUPPORT. The register instructions of the scalar engine (05_instruction_set.md): what each leaves in sD or pD, and the frame. -/

namespace Sys2Proof.Proofs

open Sys2Proof Sys2Proof.Machine

/-! ## Arithmetic -/

/-- An integer instruction of the SE: result and flags as the bit vectors give them. -/
theorem salu_go {s : State} {c : CoreNum} {fn : Nat} {f : RFmt} (h : s.SeGo c (encR 1 fn f) (sReads f) (some f.dst.toNat) false) :
    let a := (s.core c).se.reg f.src1.toNat
    let b := (s.core c).se.reg f.src2.toNat
    s.salu c fn f = .next (s.seDone c f.dst.toNat
      (if f.sat = 1 ∧ fn ≤ 2 then BitVec.ofInt 64 (clamp 64 (exactOp fn a.toInt b.toInt)) else aluOp fn a b)
      (if f.sat = 1 ∧ fn ≤ 2 ∧ clamp 64 (exactOp fn a.toInt b.toInt) ≠ exactOp fn a.toInt b.toInt then flSAT else 0)) := by
  intro a b
  rw [State.salu, State.seReg_go _ h]
  dsimp only
  rw [intOp_fst (by norm_num), intOp_snd (by norm_num)]
  simp only [beq_iff_eq]
  rfl

/-- FN 0 to 2: the exact result, saturated or wrapped. -/
theorem salu_saturating {s : State} {c : CoreNum} {fn : Nat} {f : RFmt} (hfn : fn ≤ 2)
    (h : s.SeGo c (encR 1 fn f) (sReads f) (some f.dst.toNat) false) :
    let a := (s.core c).se.reg f.src1.toNat
    let b := (s.core c).se.reg f.src2.toNat
    s.salu c fn f = .next (s.seDone c f.dst.toNat (satVal f.sat (exactOp fn a.toInt b.toInt) (aluOp fn a b))
      (satFl 64 f.sat (exactOp fn a.toInt b.toInt))) := by
  intro a b
  rw [salu_go h]
  simp only [hfn, and_true, true_and, satVal, satFl, a, b]

/-- FN 3 to 14: no saturation and no flag. -/
theorem salu_plain {s : State} {c : CoreNum} {fn : Nat} {f : RFmt} (hfn : 2 < fn)
    (h : s.SeGo c (encR 1 fn f) (sReads f) (some f.dst.toNat) false) :
    s.salu c fn f = .next (s.seDone c f.dst.toNat
      (aluOp fn ((s.core c).se.reg f.src1.toNat) ((s.core c).se.reg f.src2.toNat)) 0) := by
  have hle : ¬ fn ≤ 2 := Nat.not_le.mpr hfn
  rw [salu_go h]
  simp only [hle, and_false, false_and, if_false]

/-- Settles O1: ADD, SUB and MUL saturate, MULH and MULHU do not; each is its FN of the integer unit. -/
theorem scalarArithmetic : Obligations.ScalarArithmetic := by
  unfold Obligations.ScalarArithmetic
  intro s c f a b d
  exact ⟨salu_saturating (fn := 0) (by decide), salu_saturating (fn := 1) (by decide), salu_saturating (fn := 2) (by decide),
    salu_plain (fn := 3) (by decide), salu_plain (fn := 4) (by decide)⟩

/-- Settles O2: every one of them is an FN from 5 on of the integer unit, but SEL, which picks by a predicate. -/
theorem scalarLogicShiftAndSelect : Obligations.ScalarLogicShiftAndSelect := by
  unfold Obligations.ScalarLogicShiftAndSelect
  constructor
  · intro s c f a b d
    exact ⟨salu_plain (fn := 5) (by decide), salu_plain (fn := 6) (by decide), salu_plain (fn := 7) (by decide),
      salu_plain (fn := 8) (by decide), salu_plain (fn := 9) (by decide), salu_plain (fn := 10) (by decide)⟩
  · intro s c f e a b d
    refine ⟨salu_plain (fn := 11) (by decide), salu_plain (fn := 12) (by decide), salu_plain (fn := 13) (by decide),
      salu_plain (fn := 14) (by decide), fun h => ?_⟩
    rw [exec_sel, execSel, State.seReg_go _ h]

/-! ## Immediates and comparisons -/

/-- The immediate of an integer operation: zero-extended by AND, OR and XOR, else sign-extended. -/
theorem immFor_eq {n : Nat} (hn : 32 ≤ n) (fn : Nat) (imm : W32) :
    immFor n fn imm = (if 5 ≤ fn ∧ fn ≤ 7 then imm.setWidth n else imm.signExtend n).toNat := by
  unfold immFor
  split
  next =>
    have hlt : imm.toNat < 2 ^ n := Nat.lt_of_lt_of_le imm.isLt (Nat.pow_le_pow_right (by norm_num) hn)
    rw [BitVec.toNat_setWidth, Nat.mod_eq_of_lt hlt]
  next => rw [sextI_toNat (by norm_num), BitVec.signExtend, BitVec.toNat_ofInt, wrapN]; norm_cast

theorem salui_go {s : State} {c : CoreNum} {fn : BitVec 5} {f : IFmt}
    (h : s.SeGo c (encI 2 fn.toNat f) [(0, f.src1.toNat)] (some f.dst.toNat) false) :
    execSalui c fn f s = .next (s.seDone c f.dst.toNat (aluOp fn.toNat ((s.core c).se.reg f.src1.toNat)
      (if 5 ≤ fn.toNat ∧ fn.toNat ≤ 7 then f.imm.setWidth 64 else f.imm.signExtend 64)) 0) := by
  rw [execSalui, State.seReg_go _ h, immFor_eq (by norm_num), intOp_fst (by norm_num)]
  simp only [Bool.false_eq_true, false_and, if_false]

/-- Settles O3: the immediate in the place of sB, the comparison of the integer unit, and the two loads of a constant. -/
theorem scalarImmediateAndCompare : Obligations.ScalarImmediateAndCompare := by
  unfold Obligations.ScalarImmediateAndCompare
  intro s c fn f r e d k
  refine ⟨salui_go, fun h => ?_, fun h => ?_, fun h => ?_, fun h => ?_⟩
  · rw [exec_scmp, execScmp, State.sePred_go _ h, intCmp_eq (by norm_num)]
  · rw [exec_scmpi, execScmpi, State.sePred_go _ h, intCmp_eq (by norm_num)]
  · rw [exec_li, execLi, State.seReg_go _ h]
  · rw [exec_lih, execLih, State.seReg_go _ h]

/-! ## Predicate logic -/

theorem plog_se {s : State} {c : CoreNum} {fn : Nat} {f : RFmt}
    (h : s.SeGo c (encR 6 fn f) [(2, f.src1.toNat), (2, f.src2.toNat)] none false) :
    s.plog (.se c) fn f = .next (s.sePredDone c f.dst.toNat
      (predOp fn (predOf (s.core c).se.preds f.src1.toNat) (predOf (s.core c).se.preds f.src2.toNat))) :=
  State.sePred_go (fun e => predOp fn (predOf e.preds f.src1.toNat) (predOf e.preds f.src2.toNat)) h

theorem plog_ve {s : State} {g : VeAt} {fn : Nat} {f : RFmt} {x : Group} {pc : Nat} {act : List Nat}
    (h : s.VeGo g (encR 6 fn f) [(2, f.src1.toNat), (2, f.src2.toNat)] [] false x pc act) :
    s.plog (.ve g) fn f = .next (s.veDone g ((x.writePreds act f.dst.toNat (fun l =>
      predOp fn (predOf (x.thread l).preds f.src1.toNat) (predOf (x.thread l).preds f.src2.toNat))).advance act) 0 act.length) :=
  State.vePreds_go (fun x l => predOp fn (predOf (x.thread l).preds f.src1.toNat) (predOf (x.thread l).preds f.src2.toNat)) h

/-- Settles O5: the two engines apply one operation of the predicate bits. -/
theorem predicateLogic : Obligations.PredicateLogic := by
  unfold Obligations.PredicateLogic
  intro s c g f x pc act rd d se ve
  exact ⟨plog_se (fn := 0), plog_se (fn := 1), plog_se (fn := 2), plog_se (fn := 3),
    plog_ve (fn := 0), plog_ve (fn := 1), plog_ve (fn := 2), plog_ve (fn := 3)⟩

/-! ## The frame -/

/-- An access of the SE to a register: no result of the transcendental unit is the SE's, so only loads can skip it. -/
theorem overwrite_se_core (s : State) (c : CoreNum) (d : Nat) :
    (s.overwrite c none [0] [d]).core c = { s.core c with loads := (if s.awaits c none [d] then
      (s.core c).loads.map (fun e => if e.slot = none then { e with skip := e.skip ++ [(0, d)] } else e) else (s.core c).loads) } := by
  unfold State.overwrite
  cases s.awaits c none [d] <;> simp

theorem overwrite_mem (s : State) (c : CoreNum) (sl : Option (BitVec 5)) (ls rs : List Nat) : (s.overwrite c sl ls rs).mem = s.mem := by
  rw [State.overwrite_cores]

/-- The core of the SE after a register instruction. -/
theorem core_seDone (s : State) (c : CoreNum) (d : Nat) (v : W64) (fl : Byte) :
    (s.seDone c d v fl).core c = { s.core c with
      se := { (s.core c).se.setReg d v with pc := (s.core c).se.pc + 8, flags := (s.core c).se.flags ||| fl }
      self := Sparse.put (s.core c).self 2 (Sparse.getD (s.core c).self 2 0 + 1)
      loads := (if s.awaits c none [d] then
        (s.core c).loads.map (fun e => if e.slot = none then { e with skip := e.skip ++ [(0, d)] } else e) else (s.core c).loads) } := by
  rw [State.seDone, State.core_updCore_same, overwrite_se_core]

theorem core_seDone_other {s : State} {c c' : CoreNum} (h : c' ≠ c) (d : Nat) (v : W64) (fl : Byte) :
    (s.seDone c d v fl).core c' = s.core c' :=
  (State.core_updCore_other _ h _).trans (State.overwrite_other s c c' none [0] [d] h)

theorem seDone_mem (s : State) (c : CoreNum) (d : Nat) (v : W64) (fl : Byte) : (s.seDone c d v fl).mem = s.mem :=
  overwrite_mem s c none [0] [d]

theorem seDone_cores (s : State) (c : CoreNum) (d : Nat) (v : W64) (fl : Byte) :
    s.seDone c d v fl = { s with cores := (s.seDone c d v fl).cores } := by
  unfold State.seDone
  rw [State.overwrite_cores]
  rfl

/-- What `setReg` keeps of the engine, whether the register is s0 or not. -/
theorem seSetReg_eq (e : Se) (d : Nat) (v : W64) : e.setReg d v = { e with sregs := (e.setReg d v).sregs } := by
  unfold Se.setReg
  split <;> rfl

theorem seReg_of_sregs {e e' : Se} (h : e'.sregs = e.sregs) (i : Nat) : e'.reg i = e.reg i := by
  rw [Se.reg, Se.reg, h]

theorem seReg_setReg_other (e : Se) {d i : Nat} (h : i ≠ d) (v : W64) : (e.setReg d v).reg i = e.reg i := by
  by_cases hd : d = 0
  · rw [Se.setReg, if_pos hd]
  · rw [seReg_setReg e d i v hd, if_neg h]

/-- Settles O4: the core after the instruction is written out once, and each clause reads a part of it. -/
theorem scalarFrame : Obligations.ScalarFrame := by
  unfold Obligations.ScalarFrame
  intro s c d v fl t e e'
  have hcore : t.core c = _ := core_seDone s c d v fl
  have hregs : e'.sregs = (e.setReg d v).sregs := congrArg (fun k => k.se.sregs) hcore
  have hpreds : (e.setReg d v).preds = e.preds ∧ (e.setReg d v).buffer = e.buffer ∧ (e.setReg d v).ended = e.ended := by
    rw [seSetReg_eq]; exact ⟨rfl, rfl, rfl⟩
  obtain ⟨hp, hb, hd⟩ := hpreds
  refine ⟨rfl, fun h => ?_, fun i hi => ?_, ?_, ?_, ?_, ?_, ?_, ?_, ?_, ?_, ?_, ?_, ?_, fun c' hc' => ?_, fun a => ?_, ?_⟩
  · rw [seReg_of_sregs hregs, seReg_setReg e d d v h, if_pos rfl]
  · rw [seReg_of_sregs hregs, seReg_setReg_other e hi]
  · exact (congrArg (fun k => k.se.preds) hcore).trans hp
  · exact congrArg (fun k => k.se.pc) hcore
  · exact congrArg (fun k => k.se.flags) hcore
  · exact (congrArg (fun k => k.se.buffer) hcore).trans hb
  · exact (congrArg (fun k => k.se.ended) hcore).trans hd
  · rw [hcore]
  · rw [hcore]
  · rw [hcore]
  · rw [hcore]
  · rw [hcore]
  · rw [hcore]
  · exact core_seDone_other hc' d v fl
  · exact congrArg (fun m => Memory.byte m a) (seDone_mem s c d v fl)
  · exact seDone_cores s c d v fl

end Sys2Proof.Proofs
end

section
/-! SUPPORT. The register instructions of the vector engine (05_instruction_set.md): what each leaves in the lanes, and the frame. -/

namespace Sys2Proof.Proofs

open Sys2Proof Sys2Proof.Machine

/-! ## Integer instructions -/

/-- A register instruction of a group that raises no flag. -/
theorem veLanes_plain {s : State} {g : VeAt} {w : W64} {reads : List (Nat × Nat)} {d : Nat} {f : Group → Nat → W32 × Byte}
    {x : Group} {pc : Nat} {act : List Nat} (h : s.VeGo g w reads [d] false x pc act) {v : Nat → W32}
    (hv : ∀ l, f x l = (v l, 0)) :
    s.veLanes g w reads d f = .next ((s.over g act [d]).veDone g ((x.writeLanes act d v).advance act) 0 act.length) := by
  rw [State.veLanes_go f h]
  simp [hv]

/-- An integer instruction of a lane, on 32 bits. -/
theorem w32_intOp (fn : Nat) (sat : BitVec 2) (a b : W32) :
    w32 (intOp 32 fn (sat == 1) a.toNat b.toNat) =
      (if sat = 1 ∧ fn ≤ 2 then BitVec.ofInt 32 (clamp 32 (exactOp fn a.toInt b.toInt)) else aluOp fn a b,
       if sat = 1 ∧ fn ≤ 2 ∧ clamp 32 (exactOp fn a.toInt b.toInt) ≠ exactOp fn a.toInt b.toInt then flSAT else 0) := by
  rw [w32, intOp_fst (by norm_num), intOp_snd (by norm_num)]
  simp only [beq_iff_eq]

theorem w32_intOp_saturating {fn : Nat} (hfn : fn ≤ 2) (sat : BitVec 2) (a b : W32) :
    w32 (intOp 32 fn (sat == 1) a.toNat b.toNat) =
      (satVal sat (exactOp fn a.toInt b.toInt) (aluOp fn a b), satFl 32 sat (exactOp fn a.toInt b.toInt)) := by
  rw [w32_intOp]
  simp only [hfn, and_true, true_and, satVal, satFl]

theorem w32_intOp_plain {fn : Nat} (hfn : 2 < fn) (sat : BitVec 2) (a b : W32) :
    w32 (intOp 32 fn (sat == 1) a.toNat b.toNat) = (aluOp fn a b, 0) := by
  rw [w32_intOp]
  simp only [Nat.not_le.mpr hfn, and_false, false_and, if_false]

/-- Without SAT no FN saturates. -/
theorem w32_intOp_noSat (fn : Nat) (a b : W32) : w32 (intOp 32 fn false a.toNat b.toNat) = (aluOp fn a b, 0) := by
  have h := w32_intOp fn 0 a b
  simpa using h

/-- An instruction of a group that gives its lanes other registers and raises no flag. -/
theorem veIssue_move {s : State} {g : VeAt} {w : W64} {reads : List (Nat × Nat)} {dsts : List Nat} {x : Group} {pc : Nat}
    {act : List Nat} (F : Group → List Nat → Group) (h : s.VeGo g w reads dsts false x pc act) :
    s.veIssue g w reads dsts false (fun s x _ act => some (s.veNext g (F x act) act)) =
      .next ((s.over g act dsts).veDone g ((F x act).advance act) 0 act.length) := by
  refine (State.veIssue_go h rfl).trans ?_
  rw [State.veNext, State.setGroup_veIssued']

theorem valu_saturating {s : State} {g : VeAt} {fn : BitVec 5} {f : RFmt} {x : Group} {pc : Nat} {act : List Nat} (hfn : fn.toNat ≤ 2)
    (h : s.VeGo g (encR 8 fn.toNat f) (vReads f) [f.dst.toNat] false x pc act) :
    let exact (l : Nat) := exactOp fn.toNat (x.reg l f.src1.toNat).toInt (x.reg l f.src2.toNat).toInt
    execValu g fn f s = .next ((s.over g act [f.dst.toNat]).veDone g ((x.writeLanes act f.dst.toNat (fun l =>
        satVal f.sat (exact l) (aluOp fn.toNat (x.reg l f.src1.toNat) (x.reg l f.src2.toNat)))).advance act)
      (act.foldl (fun z l => z ||| satFl 32 f.sat (exact l)) 0) act.length) := by
  intro exact
  have h15 : fn ≠ 15 := by rintro rfl; exact absurd hfn (by decide)
  have h16 : ¬ (16 ≤ fn.toNat ∧ fn.toNat ≤ 18) := by omega
  rw [execValu, if_neg h15, if_neg h16, State.veLanes_go _ h]
  simp only [Group.num, w32_intOp_saturating hfn, exact]

theorem valu_plain {s : State} {g : VeAt} {fn : BitVec 5} {f : RFmt} {x : Group} {pc : Nat} {act : List Nat} (hlo : 3 ≤ fn.toNat)
    (hhi : fn.toNat ≤ 14) (h : s.VeGo g (encR 8 fn.toNat f) (vReads f) [f.dst.toNat] false x pc act) :
    execValu g fn f s = .next ((s.over g act [f.dst.toNat]).veDone g ((x.writeLanes act f.dst.toNat (fun l =>
      aluOp fn.toNat (x.reg l f.src1.toNat) (x.reg l f.src2.toNat))).advance act) 0 act.length) := by
  have h15 : fn ≠ 15 := by rintro rfl; exact absurd hhi (by decide)
  have h16 : ¬ (16 ≤ fn.toNat ∧ fn.toNat ≤ 18) := by omega
  rw [execValu, if_neg h15, if_neg h16]
  exact veLanes_plain h (fun l => w32_intOp_plain (by omega) _ _ _)

theorem valu_sel {s : State} {g : VeAt} {fn : BitVec 5} {f : RFmt} {x : Group} {pc : Nat} {act : List Nat} (hfn : fn.toNat = 15)
    (h : s.VeGo g (encR 8 fn.toNat f) (vReads f ++ [(2, f.src3.toNat)]) [f.dst.toNat] false x pc act) :
    execValu g fn f s = .next ((s.over g act [f.dst.toNat]).veDone g ((x.writeLanes act f.dst.toNat (fun l =>
      if predOf (x.thread l).preds f.src3.toNat then x.reg l f.src1.toNat else x.reg l f.src2.toNat)).advance act) 0 act.length) := by
  have h15 : fn = 15 := BitVec.eq_of_toNat_eq hfn
  rw [execValu, if_pos h15]
  exact veLanes_plain h (fun l => rfl)

/-- The leading zeros of a word, from the place of its highest one. -/
theorem leading_zeros (a : W32) : 32 - bitLen a.toNat = if a = 0 then 32 else 31 - a.toNat.log2 := by
  by_cases h : a = 0
  · simp [h, bitLen]
  · have hn : a.toNat ≠ 0 := fun e => h (BitVec.eq_of_toNat_eq e)
    rw [if_neg h, bitLen, if_neg hn]
    omega

/-- Settles O9: the integer unit on 32 bits in every active lane; pairs, ones and leading zeros beside it. -/
theorem vectorInteger : Obligations.VectorInteger := by
  unfold Obligations.VectorInteger
  intro s g fn f i x pc act a b d k exact out
  refine ⟨fun hk h => valu_saturating hk h, fun hlo hhi h => valu_plain hlo hhi h, fun hk h => valu_sel hk h, fun h => ?_, fun h => ?_,
    fun h => ?_, fun h => ?_⟩
  · have himm : immFor 32 fn.toNat i.imm = i.imm.toNat := by
      rw [immFor_eq le_rfl, BitVec.setWidth_eq, BitVec.signExtend_eq, ite_self]
    rw [exec_valui, execValui]
    exact veLanes_plain h (fun l => by rw [himm]; exact w32_intOp_noSat _ _ _)
  · rw [exec_addp, execAddp]
    exact veIssue_move (fun x act => x.writePairs act f.dst.toNat (fun l => x.pair l f.src1.toNat + x.pair l f.src2.toNat)) h
  · rw [exec_popc, execPopc]
    exact veLanes_plain h (fun l => rfl)
  · rw [exec_clz, execClz]
    exact veLanes_plain h (fun l => by rw [Group.num, leading_zeros])

/-! ## The frame -/

theorem core_over_veDone_other {s : State} {g : VeAt} {c : CoreNum} (h : c ≠ g.core) (act rs : List Nat) (y : Group) (fl : Byte) (n : Nat) :
    ((s.over g act rs).veDone g y fl n).core c = s.core c :=
  (State.core_updCore_other _ h _).trans (State.overwrite_other s g.core c _ act rs h)

theorem over_veDone_cores (s : State) (g : VeAt) (act rs : List Nat) (y : Group) (fl : Byte) (n : Nat) :
    (s.over g act rs).veDone g y fl n = { s with cores := ((s.over g act rs).veDone g y fl n).cores } := by
  unfold State.over State.veDone
  rw [State.overwrite_cores]
  rfl

/-- Settles O10: registers and threads lane by lane, then the parts of the core that the issue does not name. -/
theorem vectorFrame : Obligations.VectorFrame := by
  unfold Obligations.VectorFrame
  intro s g x act d v fl n hd hnodup hlanes y t
  have hreg (l r : Nat) (hr : r < 256) : y.reg l r = if l ∈ act ∧ r = d then v l else x.reg l r :=
    (Group.mapLanes_reg _ _ _ l r).trans (Group.writeLanes_reg x act d v hd l r hr)
  have hthread (l : Nat) : y.thread l = if l ∈ act then { x.thread l with pc := (x.thread l).pc + 8 } else x.thread l := by
    have hw (l : Nat) : (x.writeLanes act d v).thread l = x.thread l := (Group.writeLanes_thread x act d v l).1
    have hlen : ∀ l ∈ act, l < (x.writeLanes act d v).threads.length := by
      rw [(Group.writeLanes_thread x act d v 0).2]; exact hlanes
    refine (Group.mapLanes_thread _ act _ hnodup hlen l).trans ?_
    rw [hw]
  have hcore : t.core g.core = _ := State.core_updCore_same (s.over g act [d]) g.core _
  refine ⟨?_, fun l hl => ?_, fun l r hr h => ?_, fun l hl => ?_, fun l hl => ?_, fun j hj => ?_, ?_, ?_, fun c hc => ?_, fun hfree => ?_,
    ?_, fun a => ?_, over_veDone_cores s g act [d] y fl n⟩
  · rw [State.group, hcore]
    exact Sparse.find_put_same _ _ _
  · rw [hreg l d hd, if_pos ⟨hl, rfl⟩]
  · rw [hreg l r hr, if_neg (by tauto)]
  · rw [hthread, if_pos hl]
  · rw [hthread, if_neg hl]
  · rw [State.group, hcore]
    refine (Sparse.find_put_other _ _ _ _ hj).trans ?_
    rw [State.over, State.overwrite_groups, State.group]
  · rw [hcore]
    exact State.overwrite_se _ _ _ _ _ _
  · rw [hcore]
    exact congrArg (· ||| fl) (State.overwrite_veFlags _ _ _ _ _ _)
  · exact core_over_veDone_other hc act [d] y fl n
  · have hsame : s.over g act [d] = s := State.overwrite_free hfree act
    rw [hcore, hsame]
    exact ⟨rfl, rfl⟩
  · rw [hcore]
    exact State.overwrite_loads s g.core (some g.slot) act [d]
  · exact congrArg (fun m => Memory.byte m a) (overwrite_mem s g.core _ act [d])

/-! ## Floating point, comparison, conversion -/

theorem vfpu_go {s : State} {g : VeAt} {fn : Nat} {f : RFmt} {x : Group} {pc : Nat} {act : List Nat}
    (h : s.VeGo g (encR 0xA fn f) (vReads f ++ (if fn == 3 then [(1, f.src3.toNat)] else [])) [f.dst.toNat] false x pc act) :
    let m := f.fmt.toNat
    let sum (l : Nat) := perElement m (fun i e => floatOp m fn (s.laneMode g.core x f l i) e (element m i (x.num l f.src2))
      (element m i (x.num l f.src3))) (x.num l f.src1)
    s.vfpu g fn f = .next ((s.over g act [f.dst.toNat]).veDone g (((x.writeLanes act f.dst.toNat (fun l =>
      BitVec.ofNat 32 (sum l).1)).srAdvance act f (elements m)).advance act) (act.foldl (fun z l => z ||| (sum l).2) 0) act.length) := by
  intro m sum
  rw [State.vfpu, State.veRound_go _ h]
  rfl

theorem vminmax_go {s : State} {g : VeAt} {isMax : Bool} {f : RFmt} {x : Group} {pc : Nat} {act : List Nat}
    (h : s.VeGo g (encR 0xA (if isMax then 5 else 4) f) (vReads f) [f.dst.toNat] false x pc act) :
    let m := f.fmt.toNat
    let r (l : Nat) := perElement m (fun i e => fminmax m isMax f.flush e (element m i (x.num l f.src2))) (x.num l f.src1)
    s.vminmax g isMax f = .next ((s.over g act [f.dst.toNat]).veDone g ((x.writeLanes act f.dst.toNat (fun l =>
      BitVec.ofNat 32 (r l).1)).advance act) (act.foldl (fun z l => z ||| (r l).2) 0) act.length) := by
  intro m r
  rw [State.vminmax, State.veLanes_go _ h]
  rfl

theorem vsign_go {s : State} {g : VeAt} {fn : Nat} {f : RFmt} {x : Group} {pc : Nat} {act : List Nat}
    (h : s.VeGo g (encR 0xA fn f) [(1, f.src1.toNat)] [f.dst.toNat] false x pc act) :
    let m := f.fmt.toNat
    let r (l : Nat) := perElement m (fun _ e => (signOp m fn e, 0)) (x.num l f.src1)
    s.vsign g fn f = .next ((s.over g act [f.dst.toNat]).veDone g ((x.writeLanes act f.dst.toNat (fun l =>
      BitVec.ofNat 32 (r l).1)).advance act) (act.foldl (fun z l => z ||| (r l).2) 0) act.length) := by
  intro m r
  rw [State.vsign, State.veLanes_go _ h]
  rfl

/-- Settles O11: four rounding instructions, two that pick an operand, two that touch the sign bit. -/
theorem vectorFloat : Obligations.VectorFloat := by
  unfold Obligations.VectorFloat
  intro s g f x pc act m d a b c put fl sum rounded plain
  exact ⟨vfpu_go (fn := 0), vfpu_go (fn := 1), vfpu_go (fn := 2), vfpu_go (fn := 3), vminmax_go (isMax := false),
    vminmax_go (isMax := true), vsign_go (fn := 6), vsign_go (fn := 7)⟩

/-- Settles O12. -/
theorem vectorCompareAndConvert : Obligations.VectorCompareAndConvert := by
  unfold Obligations.VectorCompareAndConvert
  intro s g fn f x pc act k d w out cv
  refine ⟨fun hk h => ?_, fun hlo hhi h => ?_, fun h => ?_⟩
  · have hrow : ¬ (8 ≤ fn.toNat ∧ fn.toNat ≤ 11) := by omega
    rw [exec_vcmp, execVcmp, if_neg hrow, State.vePreds_go _ h]
    simp only [Group.num, intCmp_eq (n := 32) (by norm_num)]
    rfl
  · have hrow : ¬ fn.toNat ≤ 5 := by omega
    rw [exec_vcmpFloat, execVcmpFloat, if_neg hrow, State.vePreds_go _ h]
  · rw [exec_cvt, execCvt, State.veRound_go _ h]

/-! ## The transcendental unit -/

/-- The slice of some lanes of an instruction of the transcendental unit. -/
def xfSlice (g : VeAt) (f : RFmt) (x : Group) (fn : Nat) (ls : List Nat) : XfSlice :=
  { slot := g.slot, dst := f.dst, results := ls.map (fun l => (l, BitVec.ofNat 32 (transcendental fn (x.num l f.src1)).1)),
    flags := ls.foldl (fun z l => z ||| (transcendental fn (x.num l f.src1)).2) 0 }

/-- The slices that an instruction of the transcendental unit enters. -/
def xfSlices (g : VeAt) (f : RFmt) (x : Group) (act : List Nat) (fn : Nat) : List XfSlice :=
  (((List.range 4).map (fun k => act.filter (fun l => l / 8 == k))).filter (fun ls => !ls.isEmpty)).map (xfSlice g f x fn)

theorem filterMap_nonempty {α : Type} (F : Nat → List Nat) (G : List Nat → α) (ks : List Nat) :
    ks.filterMap (fun k => if (F k).isEmpty then none else some (G (F k))) = ((ks.map F).filter (fun ls => !ls.isEmpty)).map G := by
  induction ks with
  | nil => rfl
  | cons k ks ih =>
    rw [List.filterMap_cons, List.map_cons, List.filter_cons, ih]
    cases (F k).isEmpty <;> rfl

/-- The VE with slices entered and a group put back, its issue counted. -/
theorem enter_veIssued (s : State) (g : VeAt) (x y : Group) (xs : List XfSlice) (n : Nat) :
    ((((s.setGroup g.core g.slot.toNat x).updCore g.core (fun k => { k with ve := { k.ve with xf := k.ve.xf ++ xs } })).setGroup
      g.core g.slot.toNat y).veIssued g n) =
      (s.updCore g.core (fun k => { k with ve := { k.ve with xf := k.ve.xf ++ xs } })).veDone g y 0 n := by
  simp only [State.veIssued, State.setGroup, State.selfAdd, State.updCore_updCore, State.veDone]
  congr 1; funext k
  simp [Sparse.put_put, State.cyclesOf_updCore]

theorem vxf_go {s : State} {g : VeAt} {fn : Nat} {f : RFmt} {x : Group} {pc : Nat} {act : List Nat}
    (h : s.VeGo g (encR 0xD fn f) [(1, f.src1.toNat)] [f.dst.toNat] false x pc act) :
    s.vxf g fn f = .next (((s.over g act [f.dst.toNat]).updCore g.core
      (fun k => { k with ve := { k.ve with xf := k.ve.xf ++ xfSlices g f x act fn } })).veDone g (x.advance act) 0 act.length) := by
  refine (State.veIssue_go h rfl).trans ?_
  have hx : Sparse.getD (((s.over g act [f.dst.toNat]).setGroup g.core g.slot.toNat x).core g.core).ve.groups g.slot.toNat x = x := by
    rw [State.setGroup, State.core_updCore_same]
    exact Sparse.getD_put_same _ _ _ _
  have hslices := filterMap_nonempty (fun k => act.filter (fun l => l / 8 == k)) (xfSlice g f x fn) (List.range 4)
  simp only [List.map_map, List.foldl_map]
  rw [hx, State.veNext, ← enter_veIssued, xfSlices, ← hslices]
  rfl

theorem transcendentalResult_go {s : State} {c : CoreNum} {z : XfSlice} {zs : List XfSlice} {y : Group}
    (hxf : (s.core c).ve.xf = z :: zs) (hclk : s.clocked c = true) (hgroup : s.group c z.slot.toNat = some y) :
    execTranscendentalResult c s = .next (s.updCore c (fun k => { k with ve := { k.ve with
      xf := zs, flags := k.ve.flags ||| z.flags
      groups := Sparse.put k.ve.groups z.slot.toNat (z.results.foldl (fun y r => y.setReg r.1 z.dst.toNat r.2) y) } })) := by
  have hstay : ((s.updCore c (fun k => { k with ve := { k.ve with xf := zs } })).veFlags c z.flags).group c z.slot.toNat = some y := by
    simpa [State.group, State.veFlags] using hgroup
  simp only [execTranscendentalResult, hxf, hclk, Bool.not_true, Bool.false_eq_true, if_false, hstay]
  simp only [State.setGroup, State.veFlags, State.updCore_updCore]

/-- Settles O13: the slices of an instruction are its non-empty eighths of the lanes, and the first of the unit is written. -/
theorem transcendentalUnit : Obligations.TranscendentalUnit := by
  unfold Obligations.TranscendentalUnit
  intro s g f x pc act slices go out
  exact ⟨vxf_go (fn := 0), vxf_go (fn := 1), vxf_go (fn := 2), vxf_go (fn := 3), vxf_go (fn := 4), vxf_go (fn := 5), vxf_go (fn := 6),
    fun z zs y => transcendentalResult_go⟩

/-! ## Lanes -/

/-- What ID answers in a lane for a selector. -/
def idValue (ve : Ve) (x : Group) (sel l : Nat) : Nat :=
  let b := Sparse.getD ve.blocks x.blockSlot {}
  match sel with
  | 0 => l
  | 1 => x.index
  | 2 => x.threadNo l
  | 3 => b.block
  | 4 => b.base
  | 5 => match ve.entry with | some e => e.threads | none => 0
  | _ => match ve.entry with | some e => e.blocks | none => 0

theorem idValue_threads {ve : Ve} {e : EngineEntry} (h : ve.entry = some e) (x : Group) (l : Nat) : idValue ve x 5 l = e.threads := by
  simp only [idValue, h]

theorem idValue_blocks {ve : Ve} {e : EngineEntry} (h : ve.entry = some e) (x : Group) (l : Nat) : idValue ve x 6 l = e.blocks := by
  simp only [idValue, h]

theorem id_go {s : State} {g : VeAt} {f : RFmt} {x : Group} {pc : Nat} {act : List Nat} {v : Nat → Nat}
    (hv : ∀ l, idValue (s.core g.core).ve x f.src2.toNat l = v l) (h : s.VeGo g (encR 0xE 3 f) [] [f.dst.toNat] false x pc act) :
    exec (.id g f) s = .next ((s.over g act [f.dst.toNat]).veDone g ((x.writeLanes act f.dst.toNat
      (fun l => BitVec.ofNat 32 (v l))).advance act) 0 act.length) := by
  rw [exec_id, execId]
  refine veLanes_plain h (fun l => ?_)
  rw [← hv l]
  rfl

/-- Settles O14: an immediate, a register of another lane, one value for all lanes, or the place of a thread. -/
theorem vectorLanes : Obligations.VectorLanes := by
  unfold Obligations.VectorLanes
  intro s g f i x pc act d out b go
  refine ⟨fun h => ?_, fun h => ?_, fun h => ?_, fun h => ?_, fun hr => ?_, fun hr => ?_, fun hr => ?_, fun hr => ?_,
    fun hr => ?_, fun e he hr => ?_, fun e he hr => ?_⟩
  · rw [exec_vli, execVli]
    exact veLanes_plain h (fun l => rfl)
  · rw [exec_shfl, execShfl]
    exact veLanes_plain h (fun l => rfl)
  · rw [exec_bcast, execBcast]
    exact veIssue_move (fun x act => x.writeLanes act f.dst.toNat (fun _ => x.reg (act.headD 0) f.src1.toNat)) h
  · rw [exec_ballot, execBallot]
    exact veIssue_move (fun x act => x.writeLanes act f.dst.toNat (fun _ => BitVec.ofNat 32 (act.foldl (fun m l => m +
      if predOf (x.thread l).preds f.src1.toNat then 2 ^ l else 0) 0))) h
  · exact id_go (fun l => by rw [hr]; rfl)
  · exact id_go (fun l => by rw [hr]; rfl)
  · exact id_go (fun l => by rw [hr]; rfl)
  · exact id_go (fun l => by rw [hr]; rfl)
  · exact id_go (fun l => by rw [hr]; rfl)
  · exact id_go (fun l => by rw [hr]; exact idValue_threads he x l)
  · exact id_go (fun l => by rw [hr]; exact idValue_blocks he x l)

end Sys2Proof.Proofs
end

section
/-! SUPPORT. Branches, jumps, exits and system instructions (05_instruction_set.md): where the streams go. -/

namespace Sys2Proof.Proofs

open Sys2Proof Sys2Proof.Machine

/-! ## Branches and jumps -/

theorem updCore_congr {s : State} {c : CoreNum} {f g : Core → Core} (h : f (s.core c) = g (s.core c)) : s.updCore c f = s.updCore c g := by
  rw [State.updCore, State.updCore, h]

/-- A target that is aligned and in range is no fault. -/
theorem jumpFault_none {a : W64} (h : fld a 57 7 = 0 ∧ a.toNat % 8 = 0) : jumpFault a = none := by
  simp [jumpFault, h]

/-- The SE at a target, with or without a link. -/
def seGoes (s : State) (c : CoreNum) (link : Bool) (d : Nat) (target : W64) : State :=
  ((if link then s.overwrite c none [0] [d] else s).updCore c (fun k =>
    { k with se := { (if link then k.se.setReg d (k.se.pc + 8) else k.se) with pc := target } })).selfAdd c 2 1

/-- The overwrite of a link register, or none. -/
theorem overwrite_link (s : State) (c : CoreNum) (sl : Option (BitVec 5)) (ls ds : List Nat) (link : Bool) :
    s.overwrite c sl ls (if link then ds else []) = if link then s.overwrite c sl ls ds else s := by
  cases link
  · exact State.overwrite_nil s c sl ls
  · rfl

theorem branch_se {s : State} {c : CoreNum} {link : Bool} {f : IFmt}
    (h : s.SeGo c (encI 0x10 link.toNat f) [] (if link then some f.dst.toNat else none) false) :
    s.branch (.se c) link f = .next (seGoes s c link f.dst.toNat ((s.core c).se.pc + 8 * f.imm.signExtend 64)) := by
  rw [State.branch]
  refine (State.seIssue_go h (by exact rfl)).trans ?_
  have hdst : (if link then some f.dst.toNat else none).toList = if link then [f.dst.toNat] else [] := by cases link <;> rfl
  rw [hdst, overwrite_link, seGoes]
  congr 2
  refine updCore_congr ?_
  cases link <;> simp [branchTo]

theorem jump_se {s : State} {c : CoreNum} {link : Bool} {f : IFmt}
    (hgood : fld ((s.core c).se.reg f.src1.toNat) 57 7 = 0 ∧ ((s.core c).se.reg f.src1.toNat).toNat % 8 = 0)
    (h : s.SeGo c (encI 0x10 (if link then 3 else 2) f) [(0, f.src1.toNat)] (if link then some f.dst.toNat else none) false) :
    s.jump (.se c) link f = .next (seGoes s c link f.dst.toNat ((s.core c).se.reg f.src1.toNat)) := by
  have hdst : (if link then some f.dst.toNat else none).toList = if link then [f.dst.toNat] else [] := by cases link <;> rfl
  rw [State.jump]
  refine (State.seIssue_go h (t := ((if link then s.overwrite c none [0] [f.dst.toNat] else s).updCore c (fun k =>
    { k with se := { (if link then k.se.setReg f.dst.toNat (k.se.pc + 8) else k.se) with pc := (s.core c).se.reg f.src1.toNat } }))) ?_).trans rfl
  dsimp only
  rw [hdst, overwrite_link]
  have hse : (((if link then s.overwrite c none [0] [f.dst.toNat] else s)).core c).se = (s.core c).se := by cases link <;> simp
  rw [hse, jumpFault_none hgood]

/-- The lanes of a group at their targets, with or without a link. -/
def veGoes (s : State) (g : VeAt) (x : Group) (pc : Nat) (act : List Nat) (link : Bool) (d : Nat) (target : Nat → W64) : State :=
  (if link then s.over g act [d, d + 1] else s).veDone g
    (((if link then x.writePairs act d (fun _ => BitVec.ofNat 64 pc + 8) else x)).mapLanes act (fun l th => { th with pc := target l })) 0 act.length

/-- An instruction that sends the lanes of a group to their targets. -/
theorem veIssue_goes {s : State} {g : VeAt} {w : W64} {reads : List (Nat × Nat)} {link : Bool} {d : Nat} {x : Group} {pc : Nat} {act : List Nat}
    {body : State → Group → Nat → List Nat → Option State} {wait : State → Group → List Nat → State} {target : Nat → W64}
    (h : s.VeGo g w reads (if link then [d, d + 1] else []) false x pc act)
    (hb : ∀ u, body u x pc act = some (u.setGroup g.core g.slot.toNat
      ((if link then x.writePairs act d (fun _ => BitVec.ofNat 64 pc + 8) else x).mapLanes act (fun l th => { th with pc := target l })))) :
    s.veIssue g w reads (if link then [d, d + 1] else []) false body wait = .next (veGoes s g x pc act link d target) := by
  refine (State.veIssue_go h (hb _)).trans ?_
  rw [State.setGroup_veIssued', State.over, overwrite_link]
  rfl

theorem branch_ve {s : State} {g : VeAt} {link : Bool} {f : IFmt} {x : Group} {pc : Nat} {act : List Nat}
    (h : s.VeGo g (encI 0x10 link.toNat f) [] (if link then [f.dst.toNat, f.dst.toNat + 1] else []) false x pc act) :
    s.branch (.ve g) link f = .next (veGoes s g x pc act link f.dst.toNat (fun _ => BitVec.ofNat 64 pc + 8 * f.imm.signExtend 64)) := by
  rw [State.branch]
  exact veIssue_goes h (fun _ => rfl)

theorem jump_ve {s : State} {g : VeAt} {link : Bool} {f : IFmt} {x : Group} {pc : Nat} {act : List Nat}
    (hgood : ∀ l ∈ act, fld (x.pair l f.src1.toNat) 57 7 = 0 ∧ (x.pair l f.src1.toNat).toNat % 8 = 0)
    (h : s.VeGo g (encI 0x10 (if link then 3 else 2) f) [(1, f.src1.toNat), (1, f.src1.toNat + 1)]
      (if link then [f.dst.toNat, f.dst.toNat + 1] else []) false x pc act) :
    s.jump (.ve g) link f = .next (veGoes s g x pc act link f.dst.toNat (fun l => x.pair l f.src1.toNat)) := by
  rw [State.jump]
  refine veIssue_goes h (fun u => ?_)
  have hnone : act.find? (fun l => (jumpFault (x.pair l f.src1.toNat)).isSome) = none := by
    rw [List.find?_eq_none]
    intro l hl
    simp [jumpFault_none (hgood l hl)]
  simp only [hnone]

/-- Settles O15: a branch and a jump on either engine, each with and without its link. -/
theorem branchesAndJumps : Obligations.BranchesAndJumps := by
  unfold Obligations.BranchesAndJumps
  intro s c g f x pc act d e seTo veTo rel good tgt pair
  exact ⟨branch_se (link := false), branch_se (link := true), jump_se (link := false), jump_se (link := true),
    branch_ve (link := false), branch_ve (link := true), jump_ve (link := false), jump_ve (link := true)⟩

/-! ## EXIT -/

theorem exit_se {s : State} {c : CoreNum} {f : IFmt} (h : s.SeGo c (encI 0x10 4 f) [] none true) (hfar : s.farStores c none = false) :
    execExit (.se c) f s = .next ((s.updCore c (fun k => { k with se := { k.se with ended := true } })).selfAdd c 2 1) := by
  rw [execExit]
  refine State.seIssue_go h ?_
  simp [hfar]

theorem mem_at {x : Group} {k : Arrival} {l : Nat} : l ∈ x.at_ k → (x.thread l).arrived = k := by
  intro h
  exact beq_iff_eq.mp (List.mem_filter.mp h).2

/-- No thread waits at a barrier where none has arrived. -/
theorem at_nil {x : Group} {k : Arrival} (hx : ∀ l, (x.thread l).arrived = .no) (hk : k ≠ .no) : x.at_ k = [] :=
  List.eq_nil_iff_forall_not_mem.mpr (fun l hl => hk ((mem_at hl).symm.trans (hx l)))

/-- Where no thread of the group waits, no group barrier releases. -/
theorem releaseG_none {s : State} {g : VeAt} {y : Group} (hy : s.group g.core g.slot.toNat = some y)
    (hno : ∀ l, (y.thread l).arrived = .no) (lane : Nat) (e : Bool) : s.releaseG g lane e = s := by
  simp [State.releaseG, hy, at_nil hno]

/-- Where no thread of the core waits, no block barrier releases. -/
theorem releaseB_none {s : State} {g : VeAt} (hno : ∀ p ∈ (s.core g.core).ve.groups, ∀ l, (p.2.thread l).arrived = .no)
    (b lane : Nat) (e : Bool) : s.releaseB g b lane e = s := by
  have hall : ((s.core g.core).groupsOf b).all (fun p => (p.2.at_ .block).isEmpty) = true := by
    rw [List.all_eq_true]
    intro p hp
    rw [at_nil (hno p (List.mem_filter.mp hp).1) (by decide)]
    rfl
  rw [State.releaseB]
  simp only [hall, Bool.true_or, if_true]

/-- The threads that exit, where a thread of the group stays and none waits at a barrier. -/
theorem exitLanes_stay {s : State} {g : VeAt} {x : Group} {act : List Nat} (pc : Nat) (hnodup : act.Nodup)
    (hlanes : ∀ l ∈ act, l < x.threads.length) (hlive : ∃ l, l < 32 ∧ l ∉ act ∧ (x.thread l).exited = false)
    (hx : ∀ l, (x.thread l).arrived = .no) (hall : ∀ p ∈ (s.core g.core).ve.groups, ∀ l, (p.2.thread l).arrived = .no) :
    s.exitLanes g x pc act = (s.updCore g.core (fun k => { k with ve := { k.ve with
      lost := firstLost k.ve.lost x act
      lastExit := (x.index, (Sparse.getD (s.core g.core).ve.blocks x.blockSlot {}).block, act.getLastD 0, BitVec.ofNat 64 pc) } })).setGroup
        g.core g.slot.toNat (x.mapLanes act (fun _ t => { t with exited := true })) := by
  have hthread := Group.mapLanes_thread x act (fun _ t => { t with exited := true }) hnodup hlanes
  have hy : ∀ l, ((x.mapLanes act (fun _ t => { t with exited := true })).thread l).arrived = .no := by
    intro l
    rw [hthread]
    split <;> exact hx l
  have hsome : (x.mapLanes act (fun _ t => { t with exited := true })).live.isEmpty = false := by
    obtain ⟨l, hl, hnot, hex⟩ := hlive
    rw [List.isEmpty_eq_false_iff_exists_mem]
    refine ⟨l, List.mem_filter.mpr ⟨List.mem_range.mpr hl, ?_⟩⟩
    rw [hthread, if_neg hnot, hex]
    rfl
  simp only [State.exitLanes, hsome, Bool.false_eq_true, if_false]
  rw [releaseG_none (y := x.mapLanes act (fun _ t => { t with exited := true })) _ hy, releaseB_none]
  · intro p hp
    rw [State.setGroup, State.core_updCore_same] at hp
    rcases Sparse.mem_put hp with rfl | hp
    · exact hy
    · rw [State.core_updCore_same] at hp
      exact hall p hp
  · rw [State.group, State.setGroup, State.core_updCore_same]
    exact Sparse.find_put_same _ _ _

theorem exit_ve {s : State} {g : VeAt} {f : IFmt} {x : Group} {pc : Nat} {act : List Nat} (h : s.VeGo g (encI 0x10 4 f) [] [] true x pc act)
    (hfar : s.farStores g.core (some g.slot) = false) (hnodup : act.Nodup) (hlanes : ∀ l ∈ act, l < x.threads.length)
    (hlive : ∃ l, l < 32 ∧ l ∉ act ∧ (x.thread l).exited = false) (hx : ∀ l, (x.thread l).arrived = .no)
    (hall : ∀ p ∈ (s.core g.core).ve.groups, ∀ l, (p.2.thread l).arrived = .no) :
    ∃ t, execExit (.ve g) f s = .next t ∧ t.mem = s.mem ∧
      t.group g.core g.slot.toNat = some (x.mapLanes act (fun _ th => { th with exited := true })) := by
  have hover : s.over g act [] = s := State.overwrite_nil _ _ _ _
  have hfar' : (s.setGroup g.core g.slot.toNat x).farStores g.core (some g.slot) = false := by
    rw [← hfar, State.farStores, State.setGroup, State.core_updCore_same]
    rfl
  have hall' : ∀ p ∈ ((s.setGroup g.core g.slot.toNat x).core g.core).ve.groups, ∀ l, (p.2.thread l).arrived = .no := by
    intro p hp
    rw [State.setGroup, State.core_updCore_same] at hp
    rcases Sparse.mem_put hp with rfl | hp
    · exact hx
    · exact hall p hp
  rw [execExit]
  have hexit := exitLanes_stay (s := s.setGroup g.core g.slot.toNat x) pc hnodup hlanes hlive hx hall'
  have hbody : (if (s.setGroup g.core g.slot.toNat x).farStores g.core (some g.slot) then none
      else some ((s.setGroup g.core g.slot.toNat x).exitLanes g x pc act)) = some ((s.setGroup g.core g.slot.toNat x).exitLanes g x pc act) := by
    rw [hfar', if_neg Bool.false_ne_true]
  refine ⟨_, State.veIssue_go h (by rw [hover]; exact hbody), ?_, ?_⟩
  · rw [hexit]
    simp only [State.veIssued, State.setGroup, State.selfAdd, State.updCore_mem]
  · rw [hexit]
    simp only [State.group, State.veIssued, State.setGroup, State.selfAdd, State.core_updCore_same]
    exact Sparse.find_put_same _ _ _

/-! ## BRK and ILLEGAL_INSTR -/

theorem brk_se {s : State} {c : CoreNum} {f : IFmt} (h : s.SeGo c (encI 0x3C 4 f) [] none true) (hst : s.storesPending c none = false) :
    execBrk (.se c) f s = .next ((s.raise c (launchOf (s.core c).se.entry)
      { code := 0x0C, engine := 0, pc := (s.core c).se.pc.toNat, detail := (f.imm &&& 0xFFFF).setWidth 64 }).selfAdd c 2 1) := by
  have hold : s.olderPending c none = false := by rw [State.olderPending, hst]; exact h.loads
  rw [execBrk, State.ctlIssue, State.memIssue]
  refine State.seIssue_go h ?_
  simp only [List.head?, Option.toList, State.overwrite_nil, State.strmFault, State.seFault, hold]
  rfl

/-- A group put back changes no access of the core's streams. -/
theorem olderPending_setGroup (s : State) (c : CoreNum) (i : Nat) (x : Group) (sl : Option (BitVec 5)) :
    (s.setGroup c i x).olderPending c sl = s.olderPending c sl := by
  simp only [State.olderPending, State.storesPending, State.loadsPending, State.setGroup, State.core_updCore_same]
  rfl

theorem brk_ve {s : State} {g : VeAt} {f : IFmt} {x : Group} {pc : Nat} {act : List Nat} (h : s.VeGo g (encI 0x3C 4 f) [] [] true x pc act)
    (hst : s.storesPending g.core (some g.slot) = false) :
    execBrk (.ve g) f s = .next (((s.setGroup g.core g.slot.toNat x).raise g.core (launchOf (s.core g.core).ve.entry)
        { code := 0x0C, engine := 1, group := x.index, block := s.blockOf g.core x, lane := act.headD 0, pc := pc,
          detail := (f.imm &&& 0xFFFF).setWidth 64 }).veIssued g act.length) := by
  have hold : (s.setGroup g.core g.slot.toNat x).olderPending g.core (some g.slot) = false := by
    rw [olderPending_setGroup, State.olderPending, hst]
    exact h.loads
  have hover : s.over g act [] = s := State.overwrite_nil _ _ _ _
  have hgroup : (s.setGroup g.core g.slot.toNat x).group g.core g.slot.toNat = some x := by
    rw [State.group, State.setGroup, State.core_updCore_same]
    exact Sparse.find_put_same _ _ _
  have hraise (lane code : Nat) (d : W64) : (s.setGroup g.core g.slot.toNat x).veRaise g x lane pc code d =
      (s.setGroup g.core g.slot.toNat x).raise g.core (launchOf (s.core g.core).ve.entry)
        { code := code, engine := 1, group := x.index, block := s.blockOf g.core x, lane := lane, pc := pc, detail := d } := by
    rw [State.veRaise, State.blockOf]
    simp only [State.setGroup, State.core_updCore_same]
  rw [execBrk, State.ctlIssue, State.memIssue]
  refine State.veIssue_go h ?_
  simp only [hover, State.strmFault, hgroup, State.veFault, hold, hraise]
  rfl

theorem illegalInstr_se {s : State} {c : CoreNum} {w : W64} (hready : s.seReady c = true)
    (hw : s.iword (.se c) (s.core c).se.pc.toNat = some w) (hlegal : legal false 0 w = false) (hold : s.olderPending c none = false) :
    execIllegalInstr (.se c) w s = .next (s.seRaise c (s.core c).se.pc.toNat 1 w) := by
  have hno : legal (strmVe (.se c)) (s.regsOf (.se c)) w = false := hlegal
  simp [execIllegalInstr, hno, State.memIssue, State.seIssue, hready, hw, hlegal, State.seFault, hold]

/-- The convergence scheduler keeps the registers' bound and the place of a group. -/
theorem choose_keeps {x0 x : Group} {pc : Nat} {lanes : List Nat} (h : x0.choose = some (x, pc, lanes)) : x.regs = x0.regs := by
  simp only [Group.choose] at h
  generalize lowest (x0.readyLanes.map (fun l => (x0.thread l).pc.toNat)) = low at h
  cases low with
  | none => cases h
  | some low => exact congrArg (fun p => p.1.regs) (Option.some.inj h).symm

theorem veReady_group {s : State} {g : VeAt} {x : Group} (h : s.veReady g = some x) : s.group g.core g.slot.toNat = some x := by
  cases hg : s.group g.core g.slot.toNat with
  | none => simp [State.veReady, hg] at h
  | some y =>
    simp only [State.veReady, hg] at h
    simp only [Option.ite_none_right_eq_some, Option.ite_none_left_eq_some] at h
    exact h.2.2

theorem illegalInstr_ve {s : State} {g : VeAt} {w : W64} {x0 x : Group} {pc : Nat} {lanes : List Nat} (hready : s.veReady g = some x0)
    (hpick : x0.choose = some (x, pc, lanes)) (hw : s.iword (.ve g) pc = some w) (hlegal : legal true x0.regs w = false)
    (hold : s.olderPending g.core (some g.slot) = false) :
    execIllegalInstr (.ve g) w s = .next (s.veRaise g x (lanes.headD 0) pc 1 w) := by
  have hno : legal (strmVe (.ve g)) (s.regsOf (.ve g)) w = false := by
    rw [State.regsOf, veReady_group hready]
    exact hlegal
  have hlegal' : legal true x.regs w = false := by rw [choose_keeps hpick]; exact hlegal
  simp [execIllegalInstr, hno, State.memIssue, State.veIssue, hready, hpick, hw, hlegal', State.veFault, hold]

/-- Settles O16: the threads that exit are marked and no barrier waits for them; the two exceptions wait for nothing older. -/
theorem exitBreakAndIllegal : Obligations.ExitBreakAndIllegal := by
  unfold Obligations.ExitBreakAndIllegal
  constructor
  · intro s c g f x pc act
    refine ⟨exit_se, fun h hfar hnodup hlanes hlive hx hall => ?_⟩
    obtain ⟨t, ht, hmem, hgroup⟩ := exit_ve h hfar hnodup hlanes hlive hx hall
    have hthread := Group.mapLanes_thread x act (fun _ t => { t with exited := true }) hnodup hlanes
    refine ⟨t, _, ht, hgroup, fun l hl => ?_, fun l hl => ?_, fun l r => Group.mapLanes_reg _ _ _ l r, hmem⟩
    · rw [hthread, if_pos hl]
    · rw [hthread, if_neg hl]
  · intro s c g f w x pc act job at_
    exact ⟨brk_se, illegalInstr_se, brk_ve, fun x0 lanes => illegalInstr_ve⟩

/-! ## System instructions -/

/-- A result of the SE that raises no flag. -/
theorem seResult_counted (s : State) (c : CoreNum) (d : Nat) (v : W64) :
    ((s.overwrite c none [0] [d]).seResult c d v).selfAdd c 2 1 = s.seDone c d v 0 := by
  simp only [State.seResult, State.selfAdd, State.updCore_updCore, State.seDone]
  refine updCore_congr ?_
  simp only [Se.setReg]
  split <;> simp

/-- A 64-bit result of the SE, of a value that no outstanding access changes. -/
theorem wide_se {s : State} {c : CoreNum} {w : W64} {d : Nat} {eff : Bool} (v : State → W64) (h : s.SeGo c w [] (some d) eff)
    (hv : v (s.overwrite c none [0] [d]) = v s) :
    s.seIssue c w [] (some d) eff (fun s => some (s.seResult c d (v s))) = .next (s.seDone c d (v s) 0) := by
  refine (State.seIssue_go h (by exact rfl)).trans ?_
  rw [Option.toList, seResult_counted, hv]

/-- A group put back is the group of its slot. -/
theorem group_setGroup (s : State) (c : CoreNum) (i : Nat) (x : Group) : (s.setGroup c i x).group c i = some x := by
  rw [State.group, State.setGroup, State.core_updCore_same]
  exact Sparse.find_put_same _ _ _

/-- A 64-bit result in the pair of each active lane, of a value that neither the groups nor an outstanding access changes. -/
theorem wide_ve {s : State} {g : VeAt} {w : W64} {d : Nat} {x : Group} {pc : Nat} {act : List Nat} (v : State → W64)
    (h : s.VeGo g w [] [d, d + 1] false x pc act) (hv : v ((s.over g act [d, d + 1]).setGroup g.core g.slot.toNat x) = v s) :
    s.veIssue g w [] [d, d + 1] false (fun s _ _ ls => some (s.wideResult (.ve g) d ls (v s))) =
      .next ((s.over g act [d, d + 1]).veDone g ((x.writePairs act d (fun _ => v s)).advance act) 0 act.length) := by
  refine (State.veIssue_go h (by exact rfl)).trans ?_
  rw [State.wideResult, group_setGroup]
  simp only [hv, State.veNext]
  rw [State.setGroup_veIssued']

theorem setGroup_veIssued_any (s : State) (g : VeAt) (y : Group) (n : Nat) :
    (s.setGroup g.core g.slot.toNat y).veIssued g n = s.veDone g y 0 n := by
  simp only [State.veIssued, State.setGroup, State.selfAdd, State.updCore_updCore, State.veDone, State.cyclesOf_updCore]
  exact updCore_congr (by simp)

/-- What a younger write keeps of the loads outstanding: all but the registers that they skip. -/
theorem overwrite_load_from {s : State} {c : CoreNum} {sl : Option (BitVec 5)} {ls rs : List Nat} {z : LoadEntry}
    (hz : z ∈ ((s.overwrite c sl ls rs).core c).loads) : ∃ z0 ∈ (s.core c).loads, z = { z0 with skip := z.skip } := by
  unfold State.overwrite at hz
  split at hz
  next => exact ⟨z, hz, rfl⟩
  next =>
    rw [State.core_updCore_same] at hz
    obtain ⟨z0, hz0, rfl⟩ := List.mem_map.mp hz
    refine ⟨z0, hz0, ?_⟩
    split <;> rfl

/-- What a younger write keeps of the transcendental unit: all but the results that it drops. -/
theorem overwrite_xf_from {s : State} {c : CoreNum} {sl : Option (BitVec 5)} {ls rs : List Nat} {z : XfSlice}
    (hz : z ∈ ((s.overwrite c sl ls rs).core c).ve.xf) : ∃ z0 ∈ (s.core c).ve.xf, z = { z0 with results := z.results } := by
  unfold State.overwrite at hz
  split at hz
  next => exact ⟨z, hz, rfl⟩
  next =>
    rw [State.core_updCore_same] at hz
    obtain ⟨z0, hz0, rfl⟩ := List.mem_map.mp hz
    refine ⟨z0, hz0, ?_⟩
    split <;> rfl

theorem foldl_or_zero {α : Type} (f : α → Byte) (xs : List α) (h : ∀ x ∈ xs, f x = 0) : xs.foldl (fun a x => a ||| f x) 0 = 0 := by
  induction xs with
  | nil => rfl
  | cons x xs ih =>
    rw [List.foldl_cons, h x List.mem_cons_self]
    exact ih (fun y hy => h y (List.mem_cons_of_mem _ hy))

/-- With no flag in flight, a group's FLGR reads ARITH_FLAGS. -/
theorem flagsSeen_quiet {s : State} {g : VeAt} (hxf : ∀ z ∈ (s.core g.core).ve.xf, z.flags = 0)
    (hloads : ∀ z ∈ (s.core g.core).loads, z.atom = none) : s.flagsSeen g = ((s.core g.core).ve.flags, s) := by
  have hflags := foldl_or_zero XfSlice.flags ((s.core g.core).ve.xf.filter (fun x => x.slot != g.slot))
    (fun z hz => hxf z (List.mem_filter.mp hz).1)
  simp only [State.flagsSeen, hflags]
  refine if_pos (if_neg ?_)
  rw [Bool.not_eq_true, List.any_eq_false]
  intro e he
  simp [hloads e he]

theorem flgr_ve {s : State} {g : VeAt} {f : IFmt} {x : Group} {pc : Nat} {act : List Nat}
    (h : s.VeGo g (encI 0x3C 1 f) [] [f.dst.toNat] true x pc act) (hxf : ∀ z ∈ (s.core g.core).ve.xf, z.slot ≠ g.slot) :
    let u := (s.over g act [f.dst.toNat]).setGroup g.core g.slot.toNat x
    execFlgr (.ve g) f s =
      .next ((u.flagsSeen g).2.veDone g ((x.writeLanes act f.dst.toNat (fun _ => (u.flagsSeen g).1.setWidth 32)).advance act) 0 act.length) := by
  intro u
  have hquiet : u.xfPending (.ve g) = false := by
    rw [State.xfPending, List.any_eq_false]
    intro z hz
    simp only [u, State.setGroup, State.core_updCore_same] at hz
    obtain ⟨z0, hz0, hz⟩ := overwrite_xf_from hz
    rw [hz]
    simpa using hxf z0 hz0
  have hgroup : u.group g.core g.slot.toNat = some x := group_setGroup _ _ _ _
  rw [execFlgr, State.ctlIssue, State.memIssue]
  refine (State.veIssue_go h (t := (u.flagsSeen g).2.veNext g (x.writeLanes act f.dst.toNat
    (fun _ => (u.flagsSeen g).1.setWidth 32)) act) ?_).trans ?_
  · change (if u.xfPending (.ve g) then none else match u.group g.core g.slot.toNat with
      | some x => some ((u.flagsSeen g).2.veNext g (x.writeLanes act f.dst.toNat (fun _ => (u.flagsSeen g).1.setWidth 32)) act)
      | none => none) = _
    rw [hquiet, hgroup]
    rfl
  · rw [State.veNext, setGroup_veIssued_any]

theorem flgc_ve {s : State} {g : VeAt} {f : IFmt} {x : Group} {pc : Nat} {act : List Nat} (h : s.VeGo g (encI 0x3C 2 f) [] [] true x pc act) :
    ∃ t, execFlgc (.ve g) f s = .next t ∧ (t.core g.core).ve.flags = (s.core g.core).ve.flags &&& ~~~(f.imm.setWidth 8) ∧
      t.group g.core g.slot.toNat = some (x.advance act) := by
  have hover : s.over g act [] = s := State.overwrite_nil _ _ _ _
  let u := (s.setGroup g.core g.slot.toNat x).updCore g.core (fun k => { k with ve := { k.ve with flags := k.ve.flags &&& ~~~(f.imm.setWidth 8) } })
  have hgroup : u.group g.core g.slot.toNat = some x := by
    simp only [u, State.group, State.setGroup, State.core_updCore_same]
    exact Sparse.find_put_same _ _ _
  have hgo : execFlgc (.ve g) f s = .next ((u.veNext g x act).veIssued g act.length) := by
    rw [execFlgc, State.ctlIssue, State.memIssue]
    refine State.veIssue_go h ?_
    rw [hover]
    simp only [u] at hgroup
    simp only [State.strmNext, hgroup, u]
  refine ⟨_, hgo, ?_, ?_⟩
  · simp only [u, State.veIssued, State.veNext, State.setGroup, State.selfAdd, State.core_updCore_same]
  · simp only [u, State.veIssued, State.veNext, State.group, State.setGroup, State.selfAdd, State.core_updCore_same]
    exact Sparse.find_put_same _ _ _

theorem flgr_se {s : State} {c : CoreNum} {f : IFmt} (h : s.SeGo c (encI 0x3C 1 f) [] (some f.dst.toNat) true) :
    execFlgr (.se c) f s = .next (s.seDone c f.dst.toNat ((s.core c).se.flags.setWidth 64) 0) :=
  wide_se (fun s => (s.core c).se.flags.setWidth 64) h (by rw [State.overwrite_se])

theorem flgc_se {s : State} {c : CoreNum} {f : IFmt} (h : s.SeGo c (encI 0x3C 2 f) [] none true) :
    execFlgc (.se c) f s = .next (((s.updCore c (fun k => { k with se := { k.se with flags := k.se.flags &&& ~~~(f.imm.setWidth 8) } })).seNext
      c).selfAdd c 2 1) := by
  rw [execFlgc, State.ctlIssue, State.memIssue]
  refine (State.seIssue_go h (by exact rfl)).trans ?_
  rw [Option.toList, State.overwrite_nil]
  rfl

/-- A younger write changes only cores. -/
theorem region_overwrite (s : State) (r : RegionNum) (c : CoreNum) (sl : Option (BitVec 5)) (ls rs : List Nat) :
    (s.overwrite c sl ls rs).region r = s.region r := by
  rw [State.overwrite_cores]
  rfl

theorem region_setGroup_over (s : State) (g : VeAt) (r : RegionNum) (act rs : List Nat) (x : Group) :
    ((s.over g act rs).setGroup g.core g.slot.toNat x).region r = s.region r :=
  region_overwrite s r g.core (some g.slot) act rs

/-- Settles O17: the timeline and the cycle count do not depend on the accesses outstanding; the flags of a group may. -/
theorem systemReads : Obligations.SystemReads := by
  unfold Obligations.SystemReads
  intro s c g f x pc act d m r r' pairs
  refine ⟨fun h => wide_se (fun s => (s.region (regionOf c)).tl) h ?_, fun h => wide_se (fun s => (s.region (regionOf c)).cycles) h ?_, flgr_se,
    flgc_se, fun h => wide_ve (fun s => (s.region (regionOf g.core)).tl) h ?_,
    fun h => wide_ve (fun s => (s.region (regionOf g.core)).cycles) h ?_, fun h hxf => ?_, flgc_ve⟩
  · rw [region_overwrite]
  · rw [region_overwrite]
  · rw [region_setGroup_over]
  · rw [region_setGroup_over]
  · refine ⟨flgr_ve h hxf, fun hflags hatoms => ?_⟩
    have hve : ((s.over g act [d]).core g.core).ve.flags = (s.core g.core).ve.flags := State.overwrite_veFlags _ _ _ _ _ _
    refine (flagsSeen_quiet (fun z hz => ?_) (fun z hz => ?_)).trans ?_
    · rw [State.setGroup, State.core_updCore_same] at hz
      obtain ⟨z0, hz0, hz⟩ := overwrite_xf_from hz
      rw [hz]
      exact hflags z0 hz0
    · rw [State.setGroup, State.core_updCore_same] at hz
      obtain ⟨z0, hz0, hz⟩ := overwrite_load_from hz
      rw [hz]
      exact hatoms z0 hz0
    · rw [State.setGroup, State.core_updCore_same]
      exact congrArg (·, _) hve

end Sys2Proof.Proofs
end

section
/-! SUPPORT. The block as a whole: one step of the machine, and what reset leaves (00_scope.md). -/

namespace Sys2Proof.Proofs

open Sys2Proof Sys2Proof.Machine

theorem step_cons {s : State} {c : Instr} {rest : List Instr} (h : s.pending = c :: rest) : step s = exec c { s with pending := rest } := by
  rw [step, h]

theorem step_nil {s : State} (h : s.pending = []) : step s = .next s.idle := by
  rw [step, h]

/-- Settles O59. -/
theorem stepRunsTheFrontCommand : Obligations.StepRunsTheFrontCommand := by
  unfold Obligations.StepRunsTheFrontCommand
  exact ⟨fun c s => step_cons rfl, fun c rest s => step_cons, fun s => step_nil⟩

/-- Settles O60: the scalar registers are read off; the parts by number are the entries of empty maps. -/
theorem resetState : Obligations.ResetState := by
  unfold Obligations.ResetState
  refine ⟨⟨rfl, rfl, ⟨rfl, rfl⟩, ?_⟩, ⟨rfl, rfl, rfl, rfl, rfl, rfl, rfl, rfl, rfl, rfl, rfl, rfl, rfl⟩,
    fun r => ⟨rfl, rfl, rfl, rfl, rfl, rfl, fun g => rfl⟩, fun c => ⟨rfl, rfl, rfl, rfl, rfl, rfl, rfl, fun i => rfl⟩,
    fun n => ⟨rfl, rfl, rfl, rfl, rfl, rfl, fun c => ⟨rfl, rfl⟩⟩, fun q => ⟨rfl, rfl, rfl⟩, fun p => ⟨rfl, rfl⟩, fun m => rfl⟩
  rw [State.bulkOk]
  decide

end Sys2Proof.Proofs
end

section
/-! SUPPORT. Command issue and semaphores (03_core.md, 12_atomics_and_sync.md): the FIFOs, the queues of waiters, the streams that wait. -/

namespace Sys2Proof.Proofs

open Sys2Proof Sys2Proof.Machine

/-! ## Command issue -/

/-- A command instruction of the SE, whose FIFO has room: the core with the command put, the SE past it. -/
theorem cmdIssue_go {s : State} {c : CoreNum} {op : Nat} {f : RFmt} {fifo : Core → List FifoCmd} {put : Core → FifoCmd → Core}
    (h : s.SeGo c (encR op 0 f) [(0, f.src1.toNat), (0, f.src2.toNat)] none true) (hrel : s.released c none 1 = true)
    (hroom : (fifo (s.core c)).length < 8) :
    s.cmdIssue c op f fifo put = .next (((s.updCore c (fun k => put k (k.se.command f))).seNext c).selfAdd c 2 1) := by
  rw [State.cmdIssue]
  refine State.seIssue_go h ?_
  simp [hrel, hroom]

/-- The command of an instruction, with the launch's fields as an optional entry gives them. -/
theorem command_eq (e : Se) (f : RFmt) : e.command f =
    { lo := e.reg f.src1.toNat, hi := e.reg f.src2.toNat, issuer := .insn e.pc, launch := launchOf e.entry,
      rank := (e.entry.map (·.rank)).getD 0, node := (e.entry.map (·.node)).getD 0, super := (e.entry.map (·.super)).getD false } := by
  rw [Se.command]
  cases e.entry <;> rfl

/-- Settles O32. -/
theorem commandIssue : Obligations.CommandIssue := by
  unfold Obligations.CommandIssue
  intro s c f k go cmd n
  have hcmd : k.se.command f = cmd := command_eq k.se f
  constructor
  · rintro ⟨h, hrel⟩ hroom
    rw [exec_mxi, execMxi, cmdIssue_go h hrel hroom]
    simp only [State.seNext, State.selfAdd, State.updCore_updCore]
    rw [State.updCore]
    rw [← hcmd]
  · rintro ⟨h, hrel⟩ hroom
    rw [exec_dmai, execDmai, cmdIssue_go h hrel hroom]
    simp only [State.seNext, State.selfAdd, State.updCore_updCore]
    rw [State.updCore]
    rw [← hcmd]

/-! ## The queue of a core semaphore -/

theorem sem_setSem_same (k : Core) (i : Nat) (x : HwSem) : (k.setSem i x).sem i = x := Sparse.getD_put_same _ _ _ _

theorem sem_setSem_other (k : Core) {i j : Nat} (h : j ≠ i) (x : HwSem) : (k.setSem i x).sem j = k.sem j :=
  Sparse.getD_put_other _ _ _ _ _ h

/-- A waiter that goes on leaves every semaphore as it is. -/
theorem wake_sem (k : Core) (w : SemWho) (ls : List Nat) (i : Nat) : (k.wake w ls).sem i = k.sem i := by
  cases w with
  | ve slot => rw [Core.wake]; split <;> rfl
  | se | me | de | deBlock => rfl

/-- What serving a queue from its head leaves of semaphore i: some k waiters have taken their counts. -/
def Served (x y : HwSem) (k : Nat) : Prop :=
  y = { x with count := x.count - ((x.queue.take k).map (·.need)).sum, queue := x.queue.drop k } ∧
    ((x.queue.take k).map (·.need)).sum ≤ x.count

theorem served_zero (x : HwSem) : Served x x 0 := by
  simp [Served]

/-- The head takes, then some more of the rest. -/
theorem served_succ {x y : HwSem} {w : Waiter} {ws : List Waiter} {k : Nat} (hq : x.queue = w :: ws) (hw : w.need ≤ x.count)
    (h : Served { x with count := x.count - w.need, queue := ws } y k) : Served x y (k + 1) := by
  obtain ⟨rfl, hsum⟩ := h
  dsimp only at hsum
  rw [Served, hq]
  simp only [List.take_succ_cons, List.map_cons, List.sum_cons, List.drop_succ_cons]
  exact ⟨by rw [Nat.sub_sub], by omega⟩

/-- The state after the head w of the queue of semaphore i took its count. -/
def headTook (s : State) (c : CoreNum) (i : Nat) (w : Waiter) (ws : List Waiter) : State :=
  let x := (s.core c).sem i
  let t := s.updCore c (fun k => (k.setSem i { x with count := x.count - w.need, queue := ws }).wake w.who w.lanes)
  t.selfAdd c 10 (t.cyclesOf c - w.cyc)

theorem headTook_sem (s : State) (c : CoreNum) (i j : Nat) (w : Waiter) (ws : List Waiter) : ((headTook s c i w ws).core c).sem j =
    ((s.core c).setSem i { (s.core c).sem i with count := ((s.core c).sem i).count - w.need, queue := ws }).sem j := by
  simp only [headTook, State.selfAdd, State.core_updCore_same]
  exact wake_sem _ _ _ _

/-- A head that can take does, and the rest of the queue is served. -/
theorem semTakes_head {s : State} {c : CoreNum} {i : Nat} {w : Waiter} {ws : List Waiter} (hq : ((s.core c).sem i).queue = w :: ws)
    (hw : w.need ≤ ((s.core c).sem i).count) (fuel : Nat) (es : List SemEvent) :
    ∃ es', State.semTakes c i (fuel + 1) (es, s) = State.semTakes c i fuel (es', headTook s c i w ws) := by
  simp only [State.semTakes, hq, hw, if_true]
  exact ⟨_, rfl⟩

/-- The queue served from its head: waiters take while the count suffices, and no other semaphore changes. -/
theorem semTakes_served (c : CoreNum) (i fuel : Nat) (es : List SemEvent) (s : State) :
    let t := (State.semTakes c i fuel (es, s)).2
    (∃ k, Served ((s.core c).sem i) ((t.core c).sem i) k) ∧
      (((s.core c).sem i).queue.length < fuel → ∀ w ∈ ((t.core c).sem i).queue.head?, ((t.core c).sem i).count < w.need) ∧
      ∀ j, j ≠ i → (t.core c).sem j = (s.core c).sem j := by
  induction fuel generalizing es s with
  | zero => exact ⟨⟨0, served_zero _⟩, fun h => absurd h (Nat.not_lt_zero _), fun j _ => rfl⟩
  | succ fuel ih =>
    intro t
    cases hq : ((s.core c).sem i).queue with
    | nil =>
      have ht : t = s := by simp only [t, State.semTakes, hq]
      rw [ht]
      refine ⟨⟨0, served_zero _⟩, fun _ w hw => ?_, fun j _ => rfl⟩
      rw [hq] at hw
      cases hw
    | cons w ws =>
      by_cases hw : w.need ≤ ((s.core c).sem i).count
      · obtain ⟨es', htakes⟩ := semTakes_head hq hw fuel es
        obtain ⟨⟨k, hk⟩, hhead, hother⟩ := ih es' (headTook s c i w ws)
        rw [← htakes] at hk hhead hother
        simp only [headTook_sem, sem_setSem_same] at hk hhead hother
        refine ⟨⟨k + 1, served_succ hq hw hk⟩, fun hlen => hhead ?_, fun j hj => ?_⟩
        · simpa using hlen
        · rw [hother j hj, sem_setSem_other _ hj]
      · have ht : t = s := by simp only [t, State.semTakes, hq, hw, if_false]
        rw [ht]
        refine ⟨⟨0, served_zero _⟩, fun _ v hv => ?_, fun j _ => rfl⟩
        rw [hq] at hv
        obtain rfl : w = v := Option.some.inj hv
        exact Nat.lt_of_not_le hw

theorem semRecord_only (i : Nat) (by_ : Nat × Nat) (s : State) (e : SemEvent) : FrzOnly s (State.semRecord i by_ s e) := by
  unfold State.semRecord
  split
  · exact State.friezeWait_only _ _ _ _ _ _ _ _ _
  · exact State.frieze1_only _ _ _ _ _ _ _ _

/-- The records of a service leave the cores. -/
theorem semServe_core (s : State) (c : CoreNum) (i : Nat) (by_ : Nat × Nat) (fuel : Nat) (spilt : List SemEvent) :
    (s.semServe c i by_ fuel spilt).core c = ((State.semTakes c i fuel (spilt, s)).2).core c :=
  (FrzOnly.foldl _ (semRecord_only i by_) _ _ (FrzOnly.refl _)).core c

/-- Settles O31: the service of the queue, with the fuel that its length asks for, after the count is raised. -/
theorem signalServesTheQueue : Obligations.SignalServesTheQueue := by
  unfold Obligations.SignalServesTheQueue
  intro s c i n by_ x total y
  obtain ⟨⟨k, hk, hsum⟩, hhead, hother⟩ := semTakes_served c i (x.queue.length + 1)
    (if decide (0xFFFF < x.count + n) then [{ core := c, engine := by_.1, slot := by_.2, waited := none }] else [])
    (s.updCore c (fun k => k.setSem i { x with count := total, overflow := x.overflow || decide (0xFFFF < x.count + n) }))
  rw [← semServe_core _ _ _ by_] at hk hhead hother
  simp only [State.core_updCore_same, sem_setSem_same] at hk hsum hhead hother
  refine ⟨⟨k, ?_, ?_⟩, hhead (Nat.lt_succ_self _), ?_, fun j hj => ?_⟩
  · exact congrArg HwSem.queue hk
  · have hcount : y.count = total - ((x.queue.take k).map (·.need)).sum := congrArg HwSem.count hk
    rw [hcount]
    exact Nat.sub_add_cancel hsum
  · exact congrArg HwSem.overflow hk
  · exact (hother j hj).trans (sem_setSem_other _ hj _)

/-! ## Semaphore instructions -/

theorem imm_low (f : IFmt) : fld f.imm 0 16 = f.imm.toNat % 2 ^ 16 := by
  rw [fld, pow_zero, Nat.div_one]

/-- A stream that waits changes its core only, and no semaphore. -/
theorem strmWaits_cores (s : State) (t : Strm) : s.strmWaits t = { s with cores := (s.strmWaits t).cores } := by
  cases t with
  | se c => rfl
  | ve g => rw [State.strmWaits]; split <;> rfl

theorem strmWaits_region (s : State) (t : Strm) (r : RegionNum) : (s.strmWaits t).region r = s.region r := by
  rw [strmWaits_cores]; rfl

theorem strmWaits_sem (s : State) (t : Strm) (i : Nat) : ((s.strmWaits t).core (strmCore t)).sem i = (s.core (strmCore t)).sem i := by
  cases t with
  | se c => rw [State.strmWaits, strmCore, State.core_updCore_same]; rfl
  | ve g =>
    rw [State.strmWaits, strmCore]
    split
    · rw [State.setGroup, State.core_updCore_same]; rfl
    · rfl

theorem semCan_iff (s : State) (c : CoreNum) (i n : Nat) :
    s.semCan c i n = true ↔ ((s.core c).sem i).queue = [] ∧ n ≤ ((s.core c).sem i).count := by
  simp [State.semCan]

theorem nsemCan_iff (s : State) (o : NicheNum) (i n : Nat) :
    s.nsemCan o i n = true ↔ ((s.niche o).nsem i).queue = [] ∧ n ≤ ((s.niche o).nsem i).count := by
  simp [State.nsemCan]

/-- A stream queued at a semaphore of its core. -/
theorem semQueue_waits (s : State) (t : Strm) (i n : Nat) (ls : List Nat) :
    (s.strmWaits t).semQueue (strmCore t) i (strmWho t) n ls = (s.strmWaits t).updCore (strmCore t) (fun k => k.setSem i
      { (s.core (strmCore t)).sem i with queue := ((s.core (strmCore t)).sem i).queue ++
        [{ who := strmWho t, need := n, lanes := ls, since := (s.region (regionOf (strmCore t))).tl,
           cyc := (s.region (regionOf (strmCore t))).cycles }] }) := by
  rw [State.semQueue, State.cyclesOf, strmWaits_region]
  refine updCore_congr ?_
  rw [strmWaits_sem]

theorem sem_go {s s0 : State} {t : Strm} {f : IFmt} {pc : Nat} {ls : List Nat} {fn : Nat} {body : State → Nat → List Nat → Option State}
    {u : State} (h : s.StrmGo t (encI 0x29 fn f) [] [] true s0 pc ls) (hb : body s0 pc ls = some u) :
    s.ctlIssue t (encI 0x29 fn f) [] [] true body = .next (u.counted t ls) :=
  State.memIssue_go h hb

theorem nsem_go {s s0 : State} {t : Strm} {f : IFmt} {pc : Nat} {ls : List Nat} {fn : Nat} {body : State → Nat → List Nat → Option State}
    {u : State} (h : s.StrmGo t (encI 0x2A fn f) [(fileOf t, f.src1.toNat)] [] true s0 pc ls) (hi : s0.nsemIndex t f ls < 4096)
    (hb : body s0 (s0.nsemIndex t f ls) ls = some u) : s.nsemIssue t fn f body = .next (u.counted t ls) := by
  rw [State.nsemIssue, State.ctlIssue]
  refine State.memIssue_go h ?_
  dsimp only
  rw [if_neg (Nat.not_le.mpr hi), hb]

/-- A take of a niche semaphore, with the count that it leaves to the context. -/
theorem nsemSub_eq (s : State) (o : NicheNum) (i : Nat) (c : CoreNum) (n : Nat) :
    let x := (s.niche o).nsem i
    s.nsemSub o i c n = s.updNsem o i (fun _ => { x with
      count := x.count - n
      takes := match s.owner c with
        | some (_, ctx) => x.takes.put ctx.toNat (min (x.count - n) (x.takes.getD ctx.toNat (x.count - n)))
        | none => x.takes }) := by
  intro x
  rw [State.nsemSub]
  cases s.owner c <;> rfl

theorem nsemQueue_waits (s : State) (t : Strm) (o : NicheNum) (i n : Nat) (ls : List Nat) :
    (s.strmWaits t).nsemQueue o i (strmCore t) (strmWho t) n ls = (s.strmWaits t).updNsem o i (fun y => { y with queue := y.queue ++
      [{ core := strmCore t, who := strmWho t, need := n, lanes := ls, since := (s.region (regionOf (strmCore t))).tl }] }) := by
  rw [State.nsemQueue, strmWaits_region]

theorem semSig_go {s s0 : State} {t : Strm} {f : IFmt} {pc : Nat} {ls : List Nat} (h : s.StrmGo t (encI 0x29 0 f) [] [] true s0 pc ls)
    (hrel : s0.released (strmCore t) (strmSlot t) 1 = true) :
    execSemSig t f s = .next (((s0.strmNext t ls).semSignal (strmCore t) (fld f.imm 16 6) (fld f.imm 0 16) (strmWho t).engine).counted t ls) :=
  sem_go h (if_pos hrel)

theorem semWait_go {s s0 : State} {t : Strm} {f : IFmt} {pc : Nat} {ls : List Nat} (h : s.StrmGo t (encI 0x29 1 f) [] [] true s0 pc ls) :
    execSemWait t f s = .next ((if s0.semCan (strmCore t) (fld f.imm 16 6) (fld f.imm 0 16) then
      (s0.semSub (strmCore t) (fld f.imm 16 6) (fld f.imm 0 16)).strmNext t ls
      else (s0.strmWaits t).semQueue (strmCore t) (fld f.imm 16 6) (strmWho t) (fld f.imm 0 16) ls).counted t ls) :=
  sem_go h (by dsimp only; split <;> rfl)

theorem semTry_go {s s0 : State} {t : Strm} {f : IFmt} {pc : Nat} {ls : List Nat} (h : s.StrmGo t (encI 0x29 2 f) [] [] true s0 pc ls) :
    execSemTry t f s = .next ((if s0.semCan (strmCore t) (fld f.imm 16 6) (fld f.imm 0 16) then
      (s0.semSub (strmCore t) (fld f.imm 16 6) (fld f.imm 0 16)).tryResult t f.dst.toNat ls true
      else s0.tryResult t f.dst.toNat ls false).counted t ls) :=
  sem_go h (by dsimp only; split <;> rfl)

theorem nsemWait_go {s s0 : State} {t : Strm} {f : IFmt} {pc : Nat} {ls : List Nat}
    (h : s.StrmGo t (encI 0x2A 1 f) [(fileOf t, f.src1.toNat)] [] true s0 pc ls) (hi : s0.nsemIndex t f ls < 4096) :
    let o := s0.ownerNiche (strmCore t)
    let i := s0.nsemIndex t f ls
    execNsemWait t f s = .next ((if s0.nsemCan o i (fld f.imm 0 16) then
      (s0.nsemSub o i (strmCore t) (fld f.imm 0 16)).strmNext t ls
      else (s0.strmWaits t).nsemQueue o i (strmCore t) (strmWho t) (fld f.imm 0 16) ls).counted t ls) :=
  nsem_go h hi (by dsimp only; split <;> rfl)

theorem nsemTry_go {s s0 : State} {t : Strm} {f : IFmt} {pc : Nat} {ls : List Nat}
    (h : s.StrmGo t (encI 0x2A 2 f) [(fileOf t, f.src1.toNat)] [] true s0 pc ls) (hi : s0.nsemIndex t f ls < 4096) :
    let o := s0.ownerNiche (strmCore t)
    let i := s0.nsemIndex t f ls
    execNsemTry t f s = .next ((if s0.nsemCan o i (fld f.imm 0 16) then
      (s0.nsemSub o i (strmCore t) (fld f.imm 0 16)).tryResult t f.dst.toNat ls true
      else s0.tryResult t f.dst.toNat ls false).counted t ls) :=
  nsem_go h hi (by dsimp only; split <;> rfl)

/-- NSEM.SIG, with or without a lost store of the stream. -/
theorem nsemSig_go {s s0 : State} {t : Strm} {f : IFmt} {pc : Nat} {ls : List Nat}
    (h : s.StrmGo t (encI 0x2A 0 f) [(fileOf t, f.src1.toNat)] [] true s0 pc ls) (hi : s0.nsemIndex t f ls < 4096)
    (hrel : s0.released (strmCore t) (strmSlot t) 4 = true) :
    (s0.lostOf t ls = none → execNsemSig t f s = .next (((s0.strmNext t ls).nsemSignal (s0.ownerNiche (strmCore t)) (s0.nsemIndex t f ls)
      (fld f.imm 0 16) (some (strmCore t, (strmWho t).engine))).counted t ls)) ∧
    (∀ a, s0.lostOf t ls = some a → ∃ e, e.cause = 0x2A ∧ e.core = some (strmCore t) ∧ e.addr = a.toNat ∧
      execNsemSig t f s = .next (((s0.strmNext t ls).logError e).counted t ls)) := by
  refine ⟨fun hlost => nsem_go h hi ?_, fun a hlost => ⟨_, ?_, ?_, ?_, nsem_go h hi (by
    simp only [hrel, hlost, Bool.not_true, Bool.false_eq_true, if_false]
    rfl)⟩⟩
  · simp only [hrel, hlost, Bool.not_true, Bool.false_eq_true, if_false]
  all_goals rfl

/-- Settles O30: each instruction is its body at the state it acts on, and a take is decided by the queue and the count. -/
theorem semaphores : Obligations.Semaphores := by
  unfold Obligations.Semaphores
  constructor
  · intro s s0 t f pc ls c i n x go take w queued can
    have hn : fld f.imm 0 16 = n := imm_low f
    have hi : fld f.imm 16 6 = i := rfl
    have hcan : s0.semCan c i n = true ↔ can := semCan_iff s0 c i n
    have htake : s0.semSub c i n = take := updCore_congr rfl
    have hqueue : (s0.strmWaits t).semQueue c i (strmWho t) n ls = queued := semQueue_waits s0 t i n ls
    refine ⟨fun h hrel => ?_, fun h => ⟨fun hc => ?_, fun hc => ?_⟩, fun h => ⟨fun hc => ?_, fun hc => ?_⟩⟩
    · rw [exec_semSig, semSig_go h hrel, hn, hi]
    · rw [exec_semWait, semWait_go h, hn, hi, if_pos (hcan.mpr hc), htake]
    · rw [exec_semWait, semWait_go h, hn, hi, if_neg (mt hcan.mp hc), hqueue]
    · rw [exec_semTry, semTry_go h, hn, hi, if_pos (hcan.mpr hc), htake]
    · rw [exec_semTry, semTry_go h, hn, hi, if_neg (mt hcan.mp hc)]
  · intro s s0 t f pc ls c o i n x go w can take hlt
    have hn : fld f.imm 0 16 = n := imm_low f
    have hi : s0.nsemIndex t f ls = i := rfl
    have hcan : s0.nsemCan o i n = true ↔ can := nsemCan_iff s0 o i n
    have htake : s0.nsemSub o i c n = take := nsemSub_eq s0 o i c n
    have hqueue : (s0.strmWaits t).nsemQueue o i c (strmWho t) n ls = _ := nsemQueue_waits s0 t o i n ls
    refine ⟨fun h hrel => ?_, fun h => ⟨fun hc => ?_, fun hc => ?_⟩, fun h => ⟨fun hc => ?_, fun hc => ?_⟩⟩
    · obtain ⟨hkept, hlost⟩ := nsemSig_go h hlt hrel
      rw [hn] at hkept
      exact ⟨hkept, hlost⟩
    · rw [exec_nsemWait, nsemWait_go h hlt, hn, hi, if_pos (hcan.mpr hc), htake]
    · rw [exec_nsemWait, nsemWait_go h hlt, hn, hi, if_neg (mt hcan.mp hc), hqueue]
    · rw [exec_nsemTry, nsemTry_go h hlt, hn, hi, if_pos (hcan.mpr hc), htake]
    · rw [exec_nsemTry, nsemTry_go h hlt, hn, hi, if_neg (mt hcan.mp hc)]

end Sys2Proof.Proofs
end

section
/-! SUPPORT. The barriers of threads (04_thread_groups.md): arrival, waiting and release. -/

namespace Sys2Proof.Proofs

open Sys2Proof Sys2Proof.Machine

/-! ## Groups of a core by slot -/

theorem find_of_mem {α : Type} {m : Sparse α} {i : Nat} {x : α} (hm : Sparse.rising m = true) (h : (i, x) ∈ m) : Sparse.find m i = some x := by
  rw [Sparse.rising_iff] at hm
  induction m with
  | nil => cases h
  | cons p m ih =>
    obtain ⟨hlt, hm⟩ := List.pairwise_cons.mp hm
    rcases List.mem_cons.mp h with rfl | h
    · simp [Sparse.find]
    · have hi : p.1 < i := hlt _ h
      rw [Sparse.find, if_neg (by omega), if_neg (by omega)]
      exact ih hm h

theorem group_setGroup_other (s : State) (c : CoreNum) {i j : Nat} (h : j ≠ i) (x : Group) : (s.setGroup c i x).group c j = s.group c j := by
  rw [State.group, State.setGroup, State.core_updCore_same]
  exact Sparse.find_put_other _ _ _ _ h

/-- A group by slot, after another or the same one was put. -/
theorem group_setGroup_ite (s : State) (c : CoreNum) (i j : Nat) (x : Group) :
    (s.setGroup c i x).group c j = if j = i then some x else s.group c j := by
  split
  next h => rw [h]; exact group_setGroup s c i x
  next h => exact group_setGroup_other s c h x

theorem group_barrierCycles (s : State) (c : CoreNum) (x : Group) (j : Nat) : (s.barrierCycles c x).group c j = s.group c j := by
  rw [State.barrierCycles]
  split
  · rw [State.group, State.selfAdd, State.core_updCore_same]; rfl
  · rfl

theorem group_friezeWait (s : State) (c : CoreNum) (j : Nat) (r : RegionNum) (k type core engine slot waited w1 : Nat) :
    (s.friezeWait r k type core engine slot waited w1).group c j = s.group c j := by
  rw [State.group, (State.friezeWait_only s r k type core engine slot waited w1).core]
  rfl

theorem group_veIssued (s : State) (g : VeAt) (n j : Nat) : (s.veIssued g n).group g.core j = s.group g.core j := by
  simp only [State.veIssued, State.selfAdd, State.group, State.core_updCore_same]

/-! ## Who has arrived -/

theorem at_eq_live {x : Group} {k : Arrival} (h : ∀ l ∈ x.live, (x.thread l).arrived = k) : x.at_ k = x.live :=
  List.filter_eq_self.mpr (fun l hl => beq_iff_eq.mpr (h l hl))

theorem at_length_ne {x : Group} {k : Arrival} (h : ∃ l ∈ x.live, (x.thread l).arrived ≠ k) : (x.at_ k).length ≠ x.live.length := by
  obtain ⟨l, hl, hne⟩ := h
  exact Nat.ne_of_lt (List.length_filter_lt_length_iff_exists.mpr ⟨l, hl, by simpa using hne⟩)

/-- The group at its barrier: the threads of `lanes` arrived, the barrier's time started. -/
def atBarrier (s : State) (g : VeAt) (x : Group) (lanes : List Nat) (isBlock : Bool) : Group :=
  let y := x.mapLanes lanes (fun _ t => { t with arrived := if isBlock then .block else .group })
  { y with
    barCyc := if y.barCyc.isSome then y.barCyc else some (s.cyclesOf g.core)
    barStart := if isBlock then y.barStart else (if y.barStart.isSome then y.barStart else some (s.region (regionOf g.core)).tl) }

theorem arrive_group_eq (s : State) (g : VeAt) (x : Group) (lanes : List Nat) :
    s.arrive g x lanes false = (s.setGroup g.core g.slot.toNat (atBarrier s g x lanes false)).releaseG g (lanes.getLastD 0) false := rfl

/-! ## SYNC.G -/

theorem releaseG_waits {s : State} {g : VeAt} {y : Group} (hy : s.group g.core g.slot.toNat = some y)
    (h : ∃ l ∈ y.live, (y.thread l).arrived ≠ .group) (lane : Nat) (e : Bool) : s.releaseG g lane e = s := by
  simp [State.releaseG, hy, at_length_ne h]

theorem releaseG_releases {s : State} {g : VeAt} {y : Group} (hy : s.group g.core g.slot.toNat = some y)
    (h : ∀ l ∈ y.live, (y.thread l).arrived = .group) (hlive : y.live ≠ []) (lane : Nat) (e : Bool) (j : Nat) :
    (s.releaseG g lane e).group g.core j = if j = g.slot.toNat then some (y.leave .group) else s.group g.core j := by
  simp only [State.releaseG, hy, at_eq_live h, bne_self_eq_false, Bool.or_false, List.isEmpty_iff, hlive, if_false]
  rw [group_friezeWait, group_setGroup_ite, group_barrierCycles]

theorem releaseG_other {s : State} {g : VeAt} {j : Nat} (hj : j ≠ g.slot.toNat) (lane : Nat) (e : Bool) :
    (s.releaseG g lane e).group g.core j = s.group g.core j := by
  rw [State.releaseG]
  split
  · rfl
  · dsimp only
    split
    · rfl
    · rw [group_friezeWait, group_setGroup_other _ _ hj, group_barrierCycles]

theorem syncG_go {s : State} {g : VeAt} {f : MFmt} {x : Group} {pc : Nat} {act : List Nat}
    (hrel : (s.setGroup g.core g.slot.toNat x).released g.core (some g.slot) 0 = true)
    (h : s.VeGo g (encM 0x28 0 f) [] [] true x pc act) :
    execSyncG g f s = .next (((s.setGroup g.core g.slot.toNat x).arrive g x act false).veIssued g act.length) := by
  have hover : s.over g act [] = s := State.overwrite_nil _ _ _ _
  rw [execSyncG, State.sync]
  refine State.veIssue_go h ?_
  rw [hover]
  exact if_pos hrel

/-- What SYNC.G leaves of the groups. -/
theorem syncG_groups (s : State) (g : VeAt) (x : Group) (act : List Nat) :
    let y := atBarrier s g x act false
    let t := (s.arrive g x act false).veIssued g act.length
    ((∃ l ∈ y.live, (y.thread l).arrived ≠ .group) → t.group g.core g.slot.toNat = some y) ∧
    ((∀ l ∈ y.live, (y.thread l).arrived = .group) → y.live ≠ [] → t.group g.core g.slot.toNat = some (y.leave .group)) ∧
    ∀ j, j ≠ g.slot.toNat → t.group g.core j = s.group g.core j := by
  intro y t
  have hy : (s.setGroup g.core g.slot.toNat y).group g.core g.slot.toNat = some y := group_setGroup _ _ _ _
  simp only [t, group_veIssued, arrive_group_eq]
  refine ⟨fun h => ?_, fun h hlive => ?_, fun j hj => ?_⟩
  · rw [releaseG_waits hy h, hy]
  · rw [releaseG_releases hy h hlive, if_pos rfl]
  · rw [releaseG_other hj, group_setGroup_other _ _ hj]

/-! ## SYNC.B -/

/-- One group of a block past the barrier. -/
def leaveBlock (c : CoreNum) (t : State) (p : Nat × Group) : State := (t.barrierCycles c p.2).setGroup c p.1 (p.2.leave .block)

theorem leaveBlock_group (c : CoreNum) (t : State) (p : Nat × Group) (j : Nat) :
    (leaveBlock c t p).group c j = if j = p.1 then some (p.2.leave .block) else t.group c j := by
  rw [leaveBlock, group_setGroup_ite, group_barrierCycles]

theorem leaveBlocks_other {c : CoreNum} {gs : List (Nat × Group)} {j : Nat} (h : ∀ p ∈ gs, p.1 ≠ j) (t : State) :
    (gs.foldl (leaveBlock c) t).group c j = t.group c j := by
  induction gs generalizing t with
  | nil => rfl
  | cons p gs ih =>
    rw [List.foldl_cons, ih (fun q hq => h q (List.mem_cons_of_mem _ hq)), leaveBlock_group, if_neg (h p List.mem_cons_self).symm]

/-- Each group of a list with its own slots leaves. -/
theorem leaveBlocks_mem {c : CoreNum} {gs : List (Nat × Group)} {j : Nat} {p : Group} (hkeys : Sparse.rising gs = true) (h : (j, p) ∈ gs)
    (t : State) : (gs.foldl (leaveBlock c) t).group c j = some (p.leave .block) := by
  rw [Sparse.rising_iff] at hkeys
  induction gs generalizing t with
  | nil => cases h
  | cons q gs ih =>
    obtain ⟨hlt, hkeys⟩ := List.pairwise_cons.mp hkeys
    rw [List.foldl_cons]
    rcases List.mem_cons.mp h with rfl | h
    · rw [leaveBlocks_other (fun r hr => Nat.ne_of_gt (hlt r hr)), leaveBlock_group, if_pos rfl]
    · exact ih hkeys h _

/-- The barrier of a block that some live thread has not reached. -/
theorem releaseB_waits {s : State} {g : VeAt} {b i : Nat} {p : Group} (hp : (i, p) ∈ (s.core g.core).groupsOf b)
    (h : ∃ l ∈ p.live, (p.thread l).arrived ≠ .block) (lane : Nat) (e : Bool) : s.releaseB g b lane e = s := by
  have hall : ((s.core g.core).groupsOf b).all (fun p => (p.2.at_ .block).length == p.2.live.length) = false := by
    rw [List.all_eq_false]
    exact ⟨_, hp, by simpa using at_length_ne h⟩
  rw [State.releaseB]
  simp only [hall, Bool.not_false, Bool.or_true, if_true]

/-- The barrier of a block that every live thread has reached: each group of the block leaves. -/
theorem releaseB_releases {s : State} {g : VeAt} {b : Nat} (hkeys : Sparse.rising (s.core g.core).ve.groups = true)
    (h : ∀ q ∈ (s.core g.core).groupsOf b, ∀ l ∈ q.2.live, (q.2.thread l).arrived = .block)
    (hlive : ∃ q ∈ (s.core g.core).groupsOf b, q.2.live ≠ []) (lane : Nat) (e : Bool) (j : Nat) :
    (∀ p, (j, p) ∈ (s.core g.core).groupsOf b → (s.releaseB g b lane e).group g.core j = some (p.leave .block)) ∧
    ((∀ p ∈ (s.core g.core).groupsOf b, p.1 ≠ j) → (s.releaseB g b lane e).group g.core j = s.group g.core j) := by
  have hall : ((s.core g.core).groupsOf b).all (fun p => (p.2.at_ .block).length == p.2.live.length) = true := by
    rw [List.all_eq_true]
    intro q hq
    rw [at_eq_live (h q hq), beq_self_eq_true]
  have hsome : ((s.core g.core).groupsOf b).all (fun p => (p.2.at_ .block).isEmpty) = false := by
    obtain ⟨q, hq, hne⟩ := hlive
    rw [List.all_eq_false]
    refine ⟨q, hq, ?_⟩
    rw [at_eq_live (h q hq), List.isEmpty_iff]
    exact hne
  have hgroup : (s.releaseB g b lane e).group g.core j = (((s.core g.core).groupsOf b).foldl (leaveBlock g.core) s).group g.core j := by
    simp only [State.releaseB, hall, hsome, Bool.not_true, Bool.or_self, Bool.false_eq_true, if_false, group_friezeWait]
    rw [State.group, State.core_updCore_same]
    rfl
  rw [hgroup]
  exact ⟨fun p hp => leaveBlocks_mem (Sparse.rising_filter _ _ hkeys) hp s, fun hp => leaveBlocks_other hp s⟩

/-- The state in which a group stands at the barrier of its block. -/
def atBlock (s : State) (g : VeAt) (x : Group) (act : List Nat) : State :=
  (s.setGroup g.core g.slot.toNat (atBarrier s g x act true)).updCore g.core (fun k => { k with ve := { k.ve with
    blocks := k.ve.blocks.mapVals (fun i b => if i = x.blockSlot then { b with barStart :=
      (if b.barStart.isSome then b.barStart else some (s.region (regionOf g.core)).tl) } else b) } })

theorem arrive_block_eq (s : State) (g : VeAt) (x : Group) (lanes : List Nat) :
    s.arrive g x lanes true = (atBlock s g x lanes).releaseB g x.blockSlot (lanes.getLastD 0) false := rfl

theorem atBlock_groups (s : State) (g : VeAt) (x : Group) (act : List Nat) :
    ((atBlock s g x act).core g.core).ve.groups = Sparse.put (s.core g.core).ve.groups g.slot.toNat (atBarrier s g x act true) := by
  rw [atBlock, State.core_updCore_same, State.setGroup, State.core_updCore_same]

theorem atBlock_group (s : State) (g : VeAt) (x : Group) (act : List Nat) (j : Nat) :
    (atBlock s g x act).group g.core j = if j = g.slot.toNat then some (atBarrier s g x act true) else s.group g.core j := by
  rw [← group_setGroup_ite, State.group, State.group, atBlock_groups, State.setGroup, State.core_updCore_same]

theorem syncB_go {s : State} {g : VeAt} {f : MFmt} {x : Group} {pc : Nat} {act : List Nat}
    (hrel : (s.setGroup g.core g.slot.toNat x).released g.core (some g.slot) 0 = true)
    (h : s.VeGo g (encM 0x28 1 f) [] [] true x pc act) :
    execSyncB g f s = .next (((s.setGroup g.core g.slot.toNat x).arrive g x act true).veIssued g act.length) := by
  have hover : s.over g act [] = s := State.overwrite_nil _ _ _ _
  rw [execSyncB, State.sync]
  refine State.veIssue_go h ?_
  rw [hover]
  exact if_pos hrel

/-- The members of a block, by slot. -/
theorem mem_groupsOf {k : Core} (hkeys : Sparse.rising k.ve.groups = true) (b i : Nat) (p : Group) :
    (i, p) ∈ k.groupsOf b ↔ Sparse.find k.ve.groups i = some p ∧ p.blockSlot = b := by
  rw [Core.groupsOf, List.mem_filter, beq_iff_eq]
  exact ⟨fun h => ⟨find_of_mem hkeys h.1, h.2⟩, fun h => ⟨Sparse.mem_of_find h.1, h.2⟩⟩

/-- What SYNC.B leaves of the groups: those of the block, then the others. -/
theorem syncB_groups {s : State} {g : VeAt} {x : Group} {act : List Nat} (hkeys : Sparse.rising (s.core g.core).ve.groups = true)
    (hlive : (atBarrier s g x act true).live ≠ []) (hblock : (atBarrier s g x act true).blockSlot = x.blockSlot) :
    let y := atBarrier s g x act true
    let t := (s.arrive g x act true).veIssued g act.length
    let of (i : Nat) (p : Group) : Prop := (if i = g.slot.toNat then some y else s.group g.core i) = some p ∧ p.blockSlot = x.blockSlot
    ((∃ i p, of i p ∧ ∃ l ∈ p.live, (p.thread l).arrived ≠ .block) → ∀ i p, of i p → t.group g.core i = some p) ∧
    ((∀ i p, of i p → ∀ l ∈ p.live, (p.thread l).arrived = .block) → ∀ i p, of i p → t.group g.core i = some (p.leave .block)) ∧
    ∀ i p, i ≠ g.slot.toNat → s.group g.core i = some p → p.blockSlot ≠ x.blockSlot → t.group g.core i = some p := by
  intro y t of
  have hkeys' : Sparse.rising ((atBlock s g x act).core g.core).ve.groups = true := by
    rw [atBlock_groups]
    exact Sparse.rising_put _ _ _ hkeys
  have hof (i : Nat) (p : Group) : (i, p) ∈ ((atBlock s g x act).core g.core).groupsOf x.blockSlot ↔ of i p := by
    rw [mem_groupsOf hkeys', ← State.group, atBlock_group]
  have hwait : (∃ i p, of i p ∧ ∃ l ∈ p.live, (p.thread l).arrived ≠ .block) →
      ∀ j, t.group g.core j = if j = g.slot.toNat then some y else s.group g.core j := by
    rintro ⟨i, p, hp, hl⟩ j
    rw [group_veIssued, arrive_block_eq, releaseB_waits ((hof i p).mpr hp) hl, atBlock_group]
  have hleave (h : ∀ i p, of i p → ∀ l ∈ p.live, (p.thread l).arrived = .block) (j : Nat) := releaseB_releases hkeys'
    (fun q hq => h q.1 q.2 ((hof q.1 q.2).mp hq)) ⟨(g.slot.toNat, y), (hof _ _).mpr ⟨if_pos rfl, hblock⟩, hlive⟩ (act.getLastD 0) false j
  refine ⟨fun h i p hp => ?_, fun h i p hp => ?_, fun i p hi hp hne => ?_⟩
  · rw [hwait h, hp.1]
  · rw [group_veIssued, arrive_block_eq, (hleave h i).1 p ((hof i p).mpr hp)]
  · by_cases h : ∃ i p, of i p ∧ ∃ l ∈ p.live, (p.thread l).arrived ≠ .block
    · rw [hwait h, if_neg hi, hp]
    · have hall : ∀ i p, of i p → ∀ l ∈ p.live, (p.thread l).arrived = .block := by
        intro i p hp l hl
        by_contra hne
        exact h ⟨i, p, hp, l, hl, hne⟩
      have hout : ∀ q ∈ ((atBlock s g x act).core g.core).groupsOf x.blockSlot, q.1 ≠ i := by
        rintro ⟨j, q⟩ hq rfl
        obtain ⟨hq, hb⟩ := (hof _ _).mp hq
        rw [if_neg hi, hp] at hq
        exact hne (by rw [Option.some.inj hq]; exact hb)
      rw [group_veIssued, arrive_block_eq, (hleave hall i).2 hout, atBlock_group, if_neg hi, hp]

/-! ## The statement -/

/-- Two groups with the same threads have the same lanes live and arrived, and leave a barrier alike. -/
theorem leave_threads_congr {x y : Group} (h : x.threads = y.threads) (k : Arrival) :
    x.live = y.live ∧ x.thread = y.thread ∧ (x.leave k).threads = (y.leave k).threads := by
  have hthread : x.thread = y.thread := by funext l; rw [Group.thread, Group.thread, h]
  have hlive : x.live = y.live := by rw [Group.live, Group.live, hthread]
  refine ⟨hlive, hthread, ?_⟩
  have hat : x.at_ k = y.at_ k := by rw [Group.at_, Group.at_, hlive, hthread]
  have hmap (ls : List Nat) (f : Nat → Thread → Thread) (x y : Group) (h : x.threads = y.threads) :
      (x.mapLanes ls f).threads = (y.mapLanes ls f).threads := by
    induction ls generalizing x y with
    | nil => exact h
    | cons l ls ih =>
      refine ih _ _ ?_
      simp only [Group.updThread, Group.thread, h]
  rw [Group.leave, Group.leave, hat]
  exact hmap _ _ x y h

theorem mapLanes_vregs (x : Group) (ls : List Nat) (f : Nat → Thread → Thread) :
    (x.mapLanes ls f).vregs = x.vregs ∧ (x.mapLanes ls f).blockSlot = x.blockSlot := by
  unfold Group.mapLanes
  induction ls generalizing x with
  | nil => exact ⟨rfl, rfl⟩
  | cons l ls ih => exact ih _

theorem leave_vregs (x : Group) (k : Arrival) : (x.leave k).vregs = x.vregs := (mapLanes_vregs x _ _).1

/-- Settles O29: an arrival, then a release that the threads of the group, or of the block's groups, decide. -/
theorem threadBarriers : Obligations.ThreadBarriers := by
  unfold Obligations.ThreadBarriers
  intro s g f x pc act s0 here hrel hx
  constructor
  · intro h y
    obtain ⟨hwait, hgo, hother⟩ := syncG_groups s0 g x act
    obtain ⟨hlive, hthread, hleave⟩ := leave_threads_congr (x := atBarrier s0 g x act false) (y := y) rfl .group
    rw [hlive, hthread] at hwait hgo
    refine ⟨_, syncG_go hrel h, fun hl => ⟨_, hwait hl, rfl, rfl⟩, fun hl hne => ⟨_, hgo hl hne, hleave, leave_vregs _ _⟩, fun i hi => ?_⟩
    rw [hother i hi, group_setGroup_other _ _ hi]
  · intro h hkeys y of hne
    let z := atBarrier s0 g x act true
    obtain ⟨hlive, -, hleave⟩ := leave_threads_congr (x := z) (y := y) rfl .block
    have hkeys0 : Sparse.rising (s0.core g.core).ve.groups = true := by
      simp only [s0, State.setGroup, State.core_updCore_same]
      exact Sparse.rising_put _ _ _ hkeys
    have hblock : z.blockSlot = x.blockSlot := (mapLanes_vregs x act _).2
    obtain ⟨hwait, hgo, hother⟩ := syncB_groups (act := act) hkeys0 (by rw [hlive]; exact hne) hblock
    have hto (i : Nat) (p : Group) (hp : of i p) : ∃ q, ((if i = g.slot.toNat then some z else s0.group g.core i) = some q ∧
        q.blockSlot = x.blockSlot) ∧ q.threads = p.threads ∧ q.vregs = p.vregs := by
      obtain ⟨hp, hb⟩ := hp
      by_cases hi : i = g.slot.toNat
      · rw [if_pos hi] at hp
        exact ⟨z, ⟨if_pos hi, hblock⟩, by rw [hp]; rfl, by rw [hp]; rfl⟩
      · rw [if_neg hi] at hp
        exact ⟨p, ⟨by rw [if_neg hi, group_setGroup_other _ _ hi, hp], hb⟩, rfl, rfl⟩
    have hback (i : Nat) (q : Group) (hq : (if i = g.slot.toNat then some z else s0.group g.core i) = some q ∧ q.blockSlot = x.blockSlot) :
        ∃ p, of i p ∧ q.threads = p.threads := by
      obtain ⟨hq, hb⟩ := hq
      by_cases hi : i = g.slot.toNat
      · rw [if_pos hi] at hq
        exact ⟨y, ⟨by rw [if_pos hi], hblock⟩, by rw [← Option.some.inj hq]; rfl⟩
      · rw [if_neg hi, group_setGroup_other _ _ hi] at hq
        exact ⟨q, ⟨by rw [if_neg hi, hq], hb⟩, rfl⟩
    refine ⟨_, syncB_go hrel h, fun hl i p hp => ?_, fun hl i p hp => ?_, fun i p hp hi hb => ?_⟩
    · obtain ⟨j, p', hp', l, hl, hnot⟩ := hl
      obtain ⟨q', hq', hth', -⟩ := hto j p' hp'
      obtain ⟨q, hq, hth, hvr⟩ := hto i p hp
      obtain ⟨hlive', hthread', -⟩ := leave_threads_congr hth' .block
      refine ⟨q, hwait ⟨j, q', hq', l, ?_, ?_⟩ i q hq, hth, hvr⟩
      · rw [hlive']; exact hl
      · rw [hthread']; exact hnot
    · obtain ⟨q, hq, hth, hvr⟩ := hto i p hp
      obtain ⟨-, -, hleave'⟩ := leave_threads_congr hth .block
      refine ⟨_, hgo (fun j q' hq' l hl' => ?_) i q hq, hleave', ?_⟩
      · obtain ⟨p', hp', hth'⟩ := hback j q' hq'
        obtain ⟨hlive', hthread', -⟩ := leave_threads_congr hth' .block
        rw [hlive'] at hl'
        rw [hthread']
        exact hl j p' hp' l hl'
      · rw [leave_vregs]; exact hvr
    · exact hother i p hi (by rw [group_setGroup_other _ _ hi, hp]) hb

end Sys2Proof.Proofs
end

section
/-! SUPPORT. Tile values of the matrix engine (08_matrix_array.md): reads after writes, and the steps of a chunk cell by cell. -/

namespace Sys2Proof.Proofs

open Sys2Proof Sys2Proof.Machine

/-! ## Tile values -/

theorem tile_get_put (m : Me) (t t' : Bool) (i j : Nat) (v : X40) :
    (m.put t i v).get t' j = if t' = t ∧ j = i then v else m.get t' j := by
  by_cases h : t' = t ∧ j = i
  · obtain ⟨rfl, rfl⟩ := h
    rw [if_pos ⟨rfl, rfl⟩]
    cases t' <;> exact Sparse.getD_put_same _ _ _ _
  · rw [if_neg h]
    cases t <;> cases t'
    · exact Sparse.getD_put_other _ _ _ _ _ (by tauto)
    · rfl
    · rfl
    · exact Sparse.getD_put_other _ _ _ _ _ (by tauto)

theorem tile_put_frame (m : Me) (t : Bool) (i : Nat) (v : X40) : (m.put t i v).fifo = m.fifo ∧ (m.put t i v).runs = m.runs := by
  cases t <;> exact ⟨rfl, rfl⟩

/-! ## Updates of single cells -/

/-- An update of the array that changes one tile value, by a function of that value alone, and no command. -/
structure CellUpd (upd : Me → Me) (t : Bool) (i : Nat) (F : X40 → X40) : Prop where
  here : ∀ m, (upd m).get t i = F (m.get t i)
  there : ∀ m t' j, ¬ (t' = t ∧ j = i) → (upd m).get t' j = m.get t' j
  fifo : ∀ m, (upd m).fifo = m.fifo
  runs : ∀ m, (upd m).runs = m.runs

/-- Updates of one cell in a row. -/
theorem cellUpd_foldl {β : Type} {t : Bool} {i : Nat} {upd : Me → β → Me} {F : X40 → β → X40}
    (h : ∀ b, CellUpd (fun m => upd m b) t i (fun v => F v b)) (bs : List β) :
    CellUpd (fun m => bs.foldl upd m) t i (fun v => bs.foldl F v) := by
  induction bs with
  | nil => exact ⟨fun _ => rfl, fun _ _ _ _ => rfl, fun _ => rfl, fun _ => rfl⟩
  | cons b bs ih =>
    refine ⟨fun m => ?_, fun m t' j hj => ?_, fun m => ?_, fun m => ?_⟩
    · exact (ih.here _).trans (congrArg (fun v => bs.foldl F v) ((h b).here m))
    · exact (ih.there _ t' j hj).trans ((h b).there m t' j hj)
    · exact (ih.fifo _).trans ((h b).fifo m)
    · exact (ih.runs _).trans ((h b).runs m)

/-- Updates of different cells, one each: every cell takes its own, and no other value changes. -/
theorem cells_foldl {β : Type} {t : Bool} {key : β → Nat} {upd : Me → β → Me} {F : β → X40 → X40}
    (h : ∀ b, CellUpd (fun m => upd m b) t (key b) (F b)) (bs : List β) (hkeys : (bs.map key).Nodup) (m : Me) :
    (∀ b ∈ bs, (bs.foldl upd m).get t (key b) = F b (m.get t (key b))) ∧
    (∀ t' j, (t' ≠ t ∨ ∀ b ∈ bs, j ≠ key b) → (bs.foldl upd m).get t' j = m.get t' j) ∧
    (bs.foldl upd m).fifo = m.fifo ∧ (bs.foldl upd m).runs = m.runs := by
  induction bs generalizing m with
  | nil => exact ⟨fun b hb => absurd hb List.not_mem_nil, fun _ _ _ => rfl, rfl, rfl⟩
  | cons b bs ih =>
    obtain ⟨hout, hkeys⟩ := List.nodup_cons.mp hkeys
    obtain ⟨hin, hother, hfifo, hruns⟩ := ih hkeys (upd m b)
    refine ⟨fun a ha => ?_, fun t' j hj => ?_, hfifo.trans ((h b).fifo m), hruns.trans ((h b).runs m)⟩
    · rw [List.foldl_cons]
      rcases List.mem_cons.mp ha with rfl | ha
      · rw [hother t (key a) (.inr (fun c hc e => hout (e ▸ List.mem_map_of_mem hc)))]
        exact (h a).here m
      · rw [hin a ha]
        refine congrArg (F a) ((h b).there m _ _ ?_)
        rintro ⟨-, e⟩
        exact hout (e ▸ List.mem_map_of_mem ha)
    · rw [List.foldl_cons, hother t' j (hj.imp_right (fun h c hc => h c (List.mem_cons_of_mem _ hc)))]
      refine (h b).there m t' j ?_
      rintro ⟨rfl, rfl⟩
      exact hj.elim (fun h => h rfl) (fun h => h b List.mem_cons_self rfl)

/-! ## A chunk -/

/-- One step of a tile value from one block pair. -/
def blockStep (neg : Bool) (as bs : Nat → Nat → Blk × Byte) (r n : Nat) (v : X40) (kb : Nat) : X40 × Byte :=
  step1 v (contribution (as r kb).1.scale.isNone neg (as r kb).1 (bs n kb).1) ((as r kb).2 ||| (bs n kb).2)

/-- The array after one step of the value at row r and column n. -/
def cellStep (t neg : Bool) (as bs : Nat → Nat → Blk × Byte) (r n : Nat) (m : Me) (kb : Nat) : Me :=
  { m.put t (32 * r + n) (blockStep neg as bs r n (m.get t (32 * r + n)) kb).1 with
    flags := m.flags ||| (blockStep neg as bs r n (m.get t (32 * r + n)) kb).2 }

theorem cellStep_upd (t neg : Bool) (as bs : Nat → Nat → Blk × Byte) (r n kb : Nat) :
    CellUpd (fun m => cellStep t neg as bs r n m kb) t (32 * r + n) (fun v => (blockStep neg as bs r n v kb).1) where
  here m := (tile_get_put m t t _ _ _).trans (if_pos ⟨rfl, rfl⟩)
  there m t' j hj := (tile_get_put m t t' _ j _).trans (if_neg hj)
  fifo m := (tile_put_frame m t _ _).1
  runs m := (tile_put_frame m t _ _).2

/-- A chunk into one tile, as steps of the cells of its rows and columns. -/
theorem chunkSteps_eq (m : Me) (f : FifoCmd) (t neg : Bool) (kbs : List Nat) (as bs : Nat → Nat → Blk × Byte) :
    m.chunkSteps f [(t, neg)] kbs as bs =
      (List.range f.rows ×ˢ List.range f.cols).foldl (fun m c => kbs.foldl (cellStep t neg as bs c.1 c.2) m) m := by
  simp only [SProd.sprod, List.product, List.foldl_flatMap, List.foldl_map]
  rfl

theorem cols_le (f : FifoCmd) : f.cols ≤ 32 := by
  have h : fld f.lo 47 5 < 2 ^ 5 := Nat.mod_lt _ (by norm_num)
  rw [FifoCmd.cols]
  omega

/-- The cells of a command are different ones: a tile has 32 columns. -/
theorem cellKeys_nodup (f : FifoCmd) : ((List.range f.rows ×ˢ List.range f.cols).map (fun c => 32 * c.1 + c.2)).Nodup := by
  refine List.Nodup.map_on ?_ (List.nodup_range.product List.nodup_range)
  rintro ⟨r, n⟩ hc ⟨r', n'⟩ hc' h
  have hcols := cols_le f
  obtain ⟨-, hn⟩ := List.mem_product.mp hc
  obtain ⟨-, hn'⟩ := List.mem_product.mp hc'
  rw [List.mem_range] at hn hn'
  dsimp only at h hn hn'
  rw [Prod.mk.injEq]
  omega

/-- Settles O35: the chunk is one update of each of its cells, and these are different cells. -/
theorem tileSteps : Obligations.TileSteps := by
  unfold Obligations.TileSteps
  intro m f t neg kbs as bs m'
  obtain ⟨hin, hother, hfifo, hruns⟩ := cells_foldl (key := fun c : Nat × Nat => 32 * c.1 + c.2)
    (fun c => cellUpd_foldl (cellStep_upd t neg as bs c.1 c.2) kbs) (List.range f.rows ×ˢ List.range f.cols) (cellKeys_nodup f) m
  rw [← chunkSteps_eq] at hother hfifo hruns
  simp only [← chunkSteps_eq] at hin
  refine ⟨fun r n hr hn => hin (r, n) (List.mem_product.mpr ⟨List.mem_range.mpr hr, List.mem_range.mpr hn⟩), fun t' i h => hother t' i ?_, hfifo,
    hruns⟩
  refine h.imp_right (fun h c hc => ?_)
  obtain ⟨hr, hn⟩ := List.mem_product.mp hc
  exact h c.1 c.2 (List.mem_range.mp hr) (List.mem_range.mp hn)

end Sys2Proof.Proofs
end

section
/-! SUPPORT. The home of an access (03_core.md R77 to R81, 12_atomics_and_sync.md R309 to R318): bytes, poison, merged atomics. -/

namespace Sys2Proof.Proofs

open Sys2Proof Sys2Proof.Machine

/-! ## Reads and stores at the home -/

/-- With no error armed an access injects none. -/
theorem inject_unarmed {s : State} (h : bit s.err.inject 0 = false) (a n : Nat) : s.inject a n = s := by
  simp [State.inject, h]

theorem traffic_counters (s : State) (a n : Nat) (w : Bool) : s.traffic a n w = { s with counters := (s.traffic a n w).counters } := by
  unfold State.traffic
  split <;> rfl

/-- A store that overtakes corrected words and marks changes only cores and marks. -/
theorem overtake_frame (s : State) (a n : Nat) : s.overtake a n = { s with cores := (s.overtake a n).cores, rels := (s.overtake a n).rels } := by
  unfold State.overtake
  dsimp only
  split <;> rfl

theorem classOf_congr {s t : State} (h : t.disc = s.disc) (a : Nat) : t.classOf a = s.classOf a := by
  rw [State.classOf, State.classOf, h]

theorem mergeRead_unarmed {s : State} (h : bit s.err.inject 0 = false) (a n : Nat) : s.mergeRead a n = s := by
  rw [State.mergeRead, inject_unarmed h, ite_self]

/-- A store of the device into its memory. -/
theorem devWrite_memory {s : State} {a : Nat} (h : (s.classOf a).isMemory = true) (bs : List Byte) :
    s.devWrite a bs = { s.traffic a bs.length true with mem := s.mem.store a bs } := by
  rw [State.devWrite, if_pos h]

/-- A store at the home, with no error armed. -/
theorem homeWrite_mem {s : State} {a : Nat} (hm : (s.classOf a).isMemory = true) (hi : bit s.err.inject 0 = false) (bs : List Byte) :
    (s.homeWrite a bs).mem = s.mem.store a bs := by
  have hmem : (s.overtake a bs.length).mem = s.mem := by rw [overtake_frame]
  have hclass : (s.overtake a bs.length).classOf a = s.classOf a := classOf_congr (by rw [overtake_frame]) a
  rw [State.homeWrite, mergeRead_unarmed hi, devWrite_memory (by rw [hclass]; exact hm), hmem]

/-- What a read of memory finds: the bytes, each unpredictable one drawn anew. -/
theorem memRead_fst (s : State) (a n : Nat) : (s.memRead a n).1 = if s.mem.known a n then s.mem.bytes a n else s.mem.bytesAt s.fresh a n := by
  unfold State.memRead
  split <;> rfl

theorem memRead_frame (s : State) (a n : Nat) : (s.memRead a n).2 = { s with fresh := (s.memRead a n).2.fresh } := by
  unfold State.memRead
  split <;> rfl

/-- A read at the home, with no error armed. -/
theorem homeRead_memory {s : State} {a : Nat} (hm : (s.classOf a).isMemory = true) (hi : bit s.err.inject 0 = false) (n : Nat) :
    (s.homeRead a n).1.1 = (if s.mem.known a n then s.mem.bytes a n else s.mem.bytesAt s.fresh a n) ∧
    (s.homeRead a n).1.2 = s.mem.firstPoison a n ∧
    (s.homeRead a n).2 = { s with counters := (s.homeRead a n).2.counters, fresh := (s.homeRead a n).2.fresh } := by
  have hread : s.homeRead a n = ((((s.traffic a n false).memRead a n).1, s.mem.firstPoison a n), ((s.traffic a n false).memRead a n).2) := by
    simp only [State.homeRead, inject_unarmed hi, State.devRead, hm, if_true]
  rw [hread]
  refine ⟨?_, rfl, ?_⟩
  · rw [memRead_fst, traffic_counters]
  · dsimp only
    rw [memRead_frame, traffic_counters]

theorem mem_poison_store (m : Memory) (a : Nat) (bs : List Byte) (w : Nat) :
    w ∈ (m.store a bs).poison ↔ w ∈ m.poison ∧ ¬ (a % 8 = 0 ∧ w ∈ wholeWords a bs.length) := by
  unfold Memory.store
  dsimp only
  split
  next h => simp [Memory.dropPoison, h]
  next h => simp [h]

/-- Settles O19: the home stores and reads the device's memory as it stands. -/
theorem homeAccess : Obligations.HomeAccess := by
  unfold Obligations.HomeAccess
  intro s a n bs hwf hm hi t
  have ht : t.mem = s.mem.store a bs := homeWrite_mem hm hi bs
  obtain ⟨hbytes, hpoison, hframe⟩ := homeRead_memory hm hi n
  rw [ht]
  exact ⟨Memory.bytes_store_same _ _ _ hwf, fun j hj => Memory.byte_store_other _ _ _ _ hwf (by omega), mem_poison_store _ _ _,
    Memory.store_wf _ _ _ hwf, hbytes, hpoison, by rw [hframe]⟩

/-! ## The value an atomic leaves -/

/-- An atomic that is an integer instruction of the word's width. -/
theorem ofNat_intOp {n : Nat} (hn : 0 < n) (fn : Nat) (v a : BitVec n) : BitVec.ofNat n (intOp n fn false v.toNat a.toNat).1 = aluOp fn v a := by
  rw [intOp_fst hn]
  simp

/-- The sum of two F32 values, rounded once: no operand is flushed and so no flag is added. -/
theorem atomOp_fadd (v a e : Nat) : atomOp 10 4 v a e = fusedTo 0xC {} [[decodeFmt 0xC v], [decodeFmt 0xC a]] := by
  have hflush (x : FV) : flushOperand 0xC false x = (x, 0) := by
    unfold flushOperand
    split <;> simp
  simp [atomOp, floatOp, hflush]

/-- One operation more of a merged atomic acts on the value that the others left. -/
theorem mergedAtom_append (fn n : Nat) (ops : List (Nat × Nat)) (o : Nat × Nat) (v : Nat) :
    (mergedAtom fn n (ops ++ [o]) v).1 = (mergedAtom fn n ops v).1 ++ [(mergedAtom fn n ops v).2.1] ∧
    (mergedAtom fn n (ops ++ [o]) v).2.1 = (atomOp fn n (mergedAtom fn n ops v).2.1 o.1 o.2).1 := by
  simp [mergedAtom, List.foldl_append]

theorem leBytes_length (n v : Nat) : (leBytes n v).length = n := by
  induction n generalizing v with
  | zero => rfl
  | succ n ih => rw [leBytes, List.length_cons, ih]

/-- A merged atomic at a word of this device's memory. -/
theorem atomAt_memory {s : State} {pa : Nat} (hm : (s.classOf pa).isMemory = true) (hi : bit s.err.inject 0 = false) (fn n : Nat)
    (ops : List (Nat × Nat)) :
    let m := mergedAtom fn n ops (leNat (if s.mem.known pa n then s.mem.bytes pa n else s.mem.bytesAt s.fresh pa n))
    (s.atomAt (.dev pa) fn n ops).1.1 = m.1 ∧ (s.atomAt (.dev pa) fn n ops).2.mem = s.mem.store pa (leBytes n m.2.1) := by
  intro m
  obtain ⟨hbytes, -, hframe⟩ := homeRead_memory hm hi n
  have hm' : ((s.homeRead pa n).2.classOf pa).isMemory = true := by
    rw [classOf_congr (by rw [hframe]) pa]
    exact hm
  have hi' : bit (s.homeRead pa n).2.err.inject 0 = false := by rw [hframe]; exact hi
  have hmem : (s.homeRead pa n).2.mem = s.mem := by rw [hframe]
  refine ⟨?_, ?_⟩
  · simp only [State.atomAt, hbytes, m]
  · simp only [State.atomAt, hbytes]
    rw [homeWrite_mem hm' hi', hmem]

/-- Settles O25: the table of operations, the order of a merged one, and the word at its home. -/
theorem mergedAtomics : Obligations.MergedAtomics := by
  unfold Obligations.MergedAtomics
  refine ⟨fun z v a e hz => ?_, fun fn n ops o v => ⟨rfl, mergedAtom_append fn n ops o v⟩, fun s pa fn n ops hwf hm hi => ?_⟩
  · intro new
    have hpos : 0 < 8 * z := by omega
    refine ⟨?_, ofNat_intOp hpos 11 v a, ofNat_intOp hpos 12 v a, ?_, ?_, ?_, ?_, ?_, ?_, ?_, ?_, atomOp_fadd _ _ _⟩
    · exact BitVec.eq_of_toNat_eq (by simp [new, atomOp, BitVec.toNat_add])
    · exact ofNat_intOp hpos 13 v a
    · exact ofNat_intOp hpos 14 v a
    · exact ofNat_intOp hpos 5 v a
    · exact ofNat_intOp hpos 6 v a
    · exact ofNat_intOp hpos 7 v a
    · exact BitVec.eq_of_toNat_eq (by simp [new, atomOp])
    · by_cases h : v = e
      · simp [new, atomOp, h]
      · simp [new, atomOp, h, BitVec.toNat_inj]
    · intro fn hfn
      interval_cases fn <;> rfl
  · intro r m
    obtain ⟨hold, hmem⟩ := atomAt_memory hm hi fn n ops
    have hlen := leBytes_length n m.2.1
    refine ⟨hold, ?_, fun j hj => ?_⟩
    · have hsame := Memory.bytes_store_same s.mem pa (leBytes n m.2.1) hwf
      rw [hlen] at hsame
      rw [hmem]
      exact hsame
    · rw [hmem]
      exact Memory.byte_store_other _ _ _ _ hwf (by rw [hlen]; omega)

end Sys2Proof.Proofs
end

section
/-! SUPPORT. Stores leave the store buffer (03_core.md R70, R281, R282, 11_ordering.md R278): into the own drawer, into the mesh, into the
cache; and their performance at the home. -/

namespace Sys2Proof.Proofs

open Sys2Proof Sys2Proof.Machine

/-! ## The own drawer -/

/-- Where BULK_GIB is sound, an address of a core's drawer is of that class and that core. -/
theorem drawer_class {s : State} (hb : s.bulkOk) {c : CoreNum} {pa : Nat} (hlo : drawerBase c ≤ pa) (hhi : pa < drawerBase c + 0x2_0000) :
    s.classOf pa = .drawer ∧ drawerCore pa = c := by
  have hc := c.isLt
  rw [State.bulkOk] at hb
  rw [drawerBase] at hlo hhi
  constructor
  · rw [State.classOf, if_neg (by omega), if_neg (by omega), if_neg (by omega), if_pos (by omega)]
  · rw [drawerCore]
    refine BitVec.eq_of_toNat_eq ?_
    rw [BitVec.toNat_ofNat]
    omega

/-- What a store at the home, with no error armed, can change beside memory: words that wait for correction, marks and counters. -/
theorem homeWrite_frame {s : State} {a : Nat} (hm : (s.classOf a).isMemory = true) (hi : bit s.err.inject 0 = false) (bs : List Byte) :
    s.homeWrite a bs = { s with mem := (s.homeWrite a bs).mem, cores := (s.homeWrite a bs).cores, rels := (s.homeWrite a bs).rels,
                                counters := (s.homeWrite a bs).counters } := by
  have hclass : (s.overtake a bs.length).classOf a = s.classOf a := classOf_congr (by rw [overtake_frame]) a
  rw [State.homeWrite, mergeRead_unarmed hi, devWrite_memory (by rw [hclass]; exact hm), traffic_counters, overtake_frame]

theorem core_unmark (s : State) (t : Tgt) (n : Nat) (c : CoreNum) : (s.unmark t n).core c = s.core c := rfl

theorem overtake_core (s : State) (a n : Nat) (c : CoreNum) :
    (s.overtake a n).core c = { s.core c with ceWait := ((s.overtake a n).core c).ceWait } := by
  simp only [State.overtake, core_unmark]
  split
  · by_cases h : c = drawerCore a
    · rw [h, State.core_updCore_same]
    · rw [State.core_updCore_other _ h]
  · rfl

theorem homeWrite_core {s : State} {a : Nat} (hm : (s.classOf a).isMemory = true) (hi : bit s.err.inject 0 = false) (bs : List Byte)
    (c : CoreNum) : (s.homeWrite a bs).core c = { s.core c with ceWait := ((s.homeWrite a bs).core c).ceWait } := by
  have hclass : (s.overtake a bs.length).classOf a = s.classOf a := classOf_congr (by rw [overtake_frame]) a
  have hcore : (s.homeWrite a bs).core c = (s.overtake a bs.length).core c := by
    rw [State.homeWrite, mergeRead_unarmed hi, devWrite_memory (by rw [hclass]; exact hm), traffic_counters]
    rfl
  rw [hcore]
  exact overtake_core s a bs.length c

/-- A store that is no release and is not cacheable, into the drawer of its own core, is performed at once. -/
theorem drainStep_drawer {s : State} {c : CoreNum} {e : StoreEntry} {x : LaneAcc} {pa : Nat} (hrel : e.rel = none) (hx : x.cache = false)
    (htgt : x.tgt = .dev pa) (hclass : s.classOf pa = .drawer) (hcore : drawerCore pa = c) (stay : List LaneAcc) :
    State.drainStep c e (stay, s) x = (stay, s.homeWrite pa x.bytes) := by
  simp [State.drainStep, State.drainLane, hrel, hx, State.drainHome, htgt, hclass, hcore]

/-- The stores of some lanes at their homes. -/
def storeLanes (s : State) (xs : List LaneAcc) : State := xs.foldl (fun u x => u.homeWrite x.tgt.addr x.bytes) s

/-- A lane that stores uncached into the drawer of a core. -/
def InDrawer (c : CoreNum) (x : LaneAcc) : Prop :=
  x.cache = false ∧ ∃ pa, x.tgt = .dev pa ∧ drawerBase c ≤ pa ∧ pa < drawerBase c + 0x2_0000

/-- A lane's store into a drawer: what it changes beside memory is no part of the store buffers. -/
theorem homeWrite_inDrawer {s : State} {c : CoreNum} {x : LaneAcc} (hb : s.bulkOk) (hi : bit s.err.inject 0 = false) (hx : InDrawer c x) :
    let t := s.homeWrite x.tgt.addr x.bytes
    t.bulkOk ∧ bit t.err.inject 0 = false ∧ ∃ w, t.core c = { s.core c with ceWait := w } := by
  intro t
  obtain ⟨-, pa, htgt, hlo, hhi⟩ := hx
  have ht : t = s.homeWrite pa x.bytes := by simp only [t, htgt, Tgt.addr]
  have hm : (s.classOf pa).isMemory = true := by rw [(drawer_class hb hlo hhi).1]; rfl
  have hframe := homeWrite_frame hm hi x.bytes
  rw [ht]
  refine ⟨?_, ?_, _, homeWrite_core hm hi x.bytes c⟩
  · rw [hframe]; exact hb
  · rw [hframe]; exact hi

/-- The lanes of an entry that all store into the own drawer. -/
theorem drain_drawer {c : CoreNum} {e : StoreEntry} (hrel : e.rel = none) {s : State} (hb : s.bulkOk) (hi : bit s.err.inject 0 = false)
    {xs : List LaneAcc} (hxs : ∀ x ∈ xs, InDrawer c x) (stay : List LaneAcc) :
    xs.foldl (State.drainStep c e) (stay, s) = (stay, storeLanes s xs) ∧ ∃ w, (storeLanes s xs).core c = { s.core c with ceWait := w } := by
  induction xs generalizing s with
  | nil => exact ⟨rfl, _, rfl⟩
  | cons x xs ih =>
    have hx := hxs x List.mem_cons_self
    obtain ⟨hb', hi', w, hw⟩ := homeWrite_inDrawer hb hi hx
    obtain ⟨hcache, pa, htgt, hlo, hhi⟩ := hx
    obtain ⟨hclass, hcore⟩ := drawer_class hb hlo hhi
    obtain ⟨hfold, w', hw'⟩ := ih hb' hi' (fun y hy => hxs y (List.mem_cons_of_mem _ hy))
    refine ⟨?_, w', hw'.trans (by rw [hw])⟩
    rw [List.foldl_cons, drainStep_drawer hrel hcache htgt hclass hcore stay, storeLanes, List.foldl_cons, ← storeLanes, ← hfold, htgt]
    rfl

/-! ## An entry that leaves whole -/

/-- The store buffer of an engine. -/
def engineBuffer (k : Core) (ve : Bool) : List StoreEntry := if ve then k.ve.buffer else k.se.buffer

/-- The state after entry idx of a store buffer left it. -/
def bufferLeft (u : State) (c : CoreNum) (ve : Bool) (idx : Nat) : State :=
  u.updCore c (fun k => if ve then { k with ve := { k.ve with buffer := (engineBuffer k ve).eraseIdx idx } }
    else { k with se := { k.se with buffer := (engineBuffer k ve).eraseIdx idx } })

theorem bufferLeft_buffer (u : State) (c : CoreNum) (ve : Bool) (idx : Nat) :
    engineBuffer ((bufferLeft u c ve idx).core c) ve = (engineBuffer (u.core c) ve).eraseIdx idx := by
  rw [bufferLeft, State.core_updCore_same]
  cases ve <;> rfl

theorem bufferLeft_frame (u : State) (c : CoreNum) (ve : Bool) (idx : Nat) :
    (bufferLeft u c ve idx).mem = u.mem ∧ ((bufferLeft u c ve idx).core c).storesOut = (u.core c).storesOut ∧
      ((bufferLeft u c ve idx).core c).dc = (u.core c).dc := by
  rw [bufferLeft, State.core_updCore_same]
  cases ve <;> exact ⟨rfl, rfl, rfl⟩

/-- An entry none of whose lanes stays leaves the buffer. -/
theorem drain_go {s u : State} {c : CoreNum} {ve : Bool} {idx : Nat} {e : StoreEntry} (hidx : (engineBuffer (s.core c) ve)[idx]? = some e)
    (hleave : s.mayLeave c ((engineBuffer (s.core c) ve).take idx) e = true) (hstat : e.stat = none)
    (hlanes : e.lanes.foldl (State.drainStep c e) ([], s) = ([], u)) :
    execStoreBufferDrain c ve idx s = .next (bufferLeft u c ve idx) := by
  rw [engineBuffer] at hidx hleave
  simp only [execStoreBufferDrain, hidx, hleave, hlanes, hstat, State.addStat]
  rfl

/-! ## Into the mesh -/

/-- A lane's store on its way: its place in the order of the port, the rest as it is. -/
def sentLane (e : StoreEntry) (x : LaneAcc) (place : Nat) : StoreEntry := { e with lanes := [{ x with port := place, cache := false }], stat := none }

/-- The state after a lane's store went into the mesh. -/
def sendLane (c : CoreNum) (e : StoreEntry) (s : State) (x : LaneAcc) : State :=
  ({ s with order := s.order + 1 } : State).updCore c (fun k => { k with storesOut := k.storesOut ++ [sentLane e x s.order] })

/-- A lane that stores uncached to a home on the device outside the drawers, or on the host. -/
def ToMesh (s : State) (x : LaneAcc) : Prop :=
  x.cache = false ∧ ((∃ pa, x.tgt = .dev pa ∧ s.classOf pa ≠ .drawer) ∨ ∃ pa, x.tgt = .host pa)

theorem drainStep_mesh {s : State} {c : CoreNum} {e : StoreEntry} {x : LaneAcc} (hrel : e.rel = none) (hx : ToMesh s x)
    (hroom : s.transfers c e.slot.isSome < 6) (stay : List LaneAcc) : State.drainStep c e (stay, s) x = (stay, sendLane c e s x) := by
  have hfull : ¬ 6 ≤ s.transfers c e.slot.isSome := Nat.not_le.mpr hroom
  obtain ⟨hcache, ⟨pa, htgt, hclass⟩ | ⟨pa, htgt⟩⟩ := hx
  · simp [State.drainStep, State.drainLane, hrel, hcache, State.drainHome, htgt, hclass, hfull, State.takeOrder, sendLane, sentLane]
  · simp [State.drainStep, State.drainLane, hrel, hcache, State.drainHome, htgt, hfull, State.takeOrder, sendLane, sentLane]

/-- Each lane sent is one transfer more of its engine. -/
theorem transfers_sendLane (c : CoreNum) (e : StoreEntry) (s : State) (x : LaneAcc) :
    (sendLane c e s x).transfers c e.slot.isSome = s.transfers c e.slot.isSome + 1 := by
  simp only [State.transfers, sendLane, State.core_updCore_same, State.updCore_tr, List.filter_append, List.flatMap_append, List.length_append]
  simp only [sentLane, List.filter_cons, beq_self_eq_true, if_true, List.filter_nil, List.flatMap_cons, List.flatMap_nil,
    List.append_nil, List.length_cons, List.length_nil, State.core]
  have hsum (loads stores miss back far : Nat) : loads + (stores + (0 + 1)) + miss + back + far = loads + stores + miss + back + far + 1 := by
    omega
  exact hsum _ _ _ _ _

/-- The lanes of an entry that all go into the mesh, with room for them. -/
theorem drain_mesh {c : CoreNum} {e : StoreEntry} (hrel : e.rel = none) {s : State} {xs : List LaneAcc} (hxs : ∀ x ∈ xs, ToMesh s x)
    (hroom : s.transfers c e.slot.isSome + xs.length ≤ 6) (stay : List LaneAcc) :
    let t := xs.foldl (sendLane c e) s
    xs.foldl (State.drainStep c e) (stay, s) = (stay, t) ∧ t.mem = s.mem ∧ ∃ es, t.core c = { s.core c with storesOut := (s.core c).storesOut ++ es } ∧
      es = xs.mapIdx (fun i x => sentLane e x (s.order + i)) := by
  induction xs generalizing s with
  | nil => exact ⟨rfl, rfl, [], by rw [List.append_nil]; rfl, rfl⟩
  | cons x xs ih =>
    rw [List.length_cons] at hroom
    have hxs' : ∀ y ∈ xs, ToMesh (sendLane c e s x) y := fun y hy => hxs y (List.mem_cons_of_mem _ hy)
    have hroom' : (sendLane c e s x).transfers c e.slot.isSome + xs.length ≤ 6 := by rw [transfers_sendLane]; omega
    obtain ⟨hfold, hmem, es, hcore, hes⟩ := ih hxs' hroom'
    refine ⟨?_, hmem, sentLane e x s.order :: es, ?_, ?_⟩
    · rw [List.foldl_cons, List.foldl_cons, drainStep_mesh hrel (hxs x List.mem_cons_self) (by omega), hfold]
    · rw [List.foldl_cons, hcore, sendLane, State.core_updCore_same, List.append_assoc]
      rfl
    · rw [hes, List.mapIdx_cons]
      refine congrArg₂ _ rfl (congrArg (fun f => xs.mapIdx f) ?_)
      funext i y
      exact congrArg (sentLane e y) (by rw [sendLane, State.updCore_order]; dsimp only; omega)

/-! ## Into the cache -/

/-- The state after a lane's store into a line that the cache holds. -/
def intoCache (s : State) (c : CoreNum) (e : StoreEntry) (x : LaneAcc) : State :=
  ((s.readSet c (s.lineOf x.tgt)).updCore c (fun k => { k with dc :=
    (k.dc.storeHit (s.lineOf x.tgt) (x.tgt.addr % 64) x.bytes { slot := e.slot, gid := e.gid, lane := x.lane }) })).selfAdd c 8 1

theorem drainStep_cache {s : State} {c : CoreNum} {e : StoreEntry} {x : LaneAcc} {l : CacheLine} (hrel : e.rel = none) (hx : x.cache = true)
    (hshut : (s.core c).dc.shut = false) (hhit : ((s.readSet c (s.lineOf x.tgt)).core c).dc.hit (s.lineOf x.tgt) = some l) (stay : List LaneAcc) :
    State.drainStep c e (stay, s) x = (stay, intoCache s c e x) := by
  simp [State.drainStep, State.drainLane, hrel, hx, State.drainCached, hshut, hhit, intoCache]

theorem intoCache_frame (s : State) (c : CoreNum) (e : StoreEntry) (x : LaneAcc) (ve : Bool) :
    let u := s.readSet c (s.lineOf x.tgt)
    engineBuffer ((intoCache s c e x).core c) ve = engineBuffer (u.core c) ve ∧ (intoCache s c e x).mem = u.mem ∧
      ((intoCache s c e x).core c).dc =
        (u.core c).dc.storeHit (s.lineOf x.tgt) (x.tgt.addr % 64) x.bytes { slot := e.slot, gid := e.gid, lane := x.lane } := by
  rw [intoCache]
  generalize s.readSet c (s.lineOf x.tgt) = u
  simp only [State.selfAdd, State.core_updCore_same, State.updCore_mem, engineBuffer, true_and]

/-! ## At the home -/

/-- A lane of a store that is no release, performed at its home. -/
theorem performLane_noRel {e : StoreEntry} (hrel : e.rel = none) (s : State) (c : CoreNum) (x : LaneAcc) :
    s.performLane c e x = (match x.tgt with
      | .dev a => if s.classOf a = .csr then s.csrStore (.job (s.ownerNiche c)) a x.bytes else s.homeWrite a x.bytes
      | .host a => (s.unmark (.host a) x.bytes.length).hostWrite a x.bytes
      | .remote _ _ => s) := by
  unfold State.performLane
  cases h : x.tgt <;> simp [hrel, State.noteStore, h]

theorem meshFlit_unarmed {s : State} (h : s.armed 11 = false) : s.meshFlit = s := by
  simp [State.meshFlit, h]

/-- No lane of an entry meets a line that the host holds. -/
theorem laneHeld_nil {s : State} {e : StoreEntry} (h : ∀ x ∈ e.lanes, ∀ a, x.tgt = .dev a → s.linesHeld a x.bytes.length true = []) :
    e.lanes.flatMap (fun x => s.laneHeld x.bytes.length true x) = [] := by
  rw [List.flatMap_eq_nil_iff]
  intro x hx
  unfold State.laneHeld
  split
  next a ha => exact h x hx a ha
  next => rfl

theorem storeAck_go {s : State} {c : CoreNum} {idx : Nat} {e : StoreEntry} (hidx : (s.core c).storesOut[idx]? = some e)
    (hdrains : s.drains c = true) (hlands : ∀ x ∈ e.lanes, s.lands c x = true) (hflit : s.armed 11 = false)
    (hheld : ∀ x ∈ e.lanes, ∀ a, x.tgt = .dev a → s.linesHeld a x.bytes.length true = []) :
    execStoreAck c idx s = .next (((e.lanes.foldl (fun s x => s.performLane c e x) s).updCore c
      (fun k => { k with storesOut := k.storesOut.eraseIdx idx })).goLoads c) := by
  have hall : e.lanes.all (s.lands c) = true := List.all_eq_true.mpr hlands
  simp [execStoreAck, hidx, hdrains, hall, laneHeld_nil hheld, meshFlit_unarmed hflit]

/-- Settles O22: the three ways out of the buffer, and the performance at the home. -/
theorem storesLeaveTheBuffer : Obligations.StoresLeaveTheBuffer := by
  unfold Obligations.StoresLeaveTheBuffer
  intro s c ve idx e buf left hb hrel hstat
  refine ⟨fun hidx hslot hleave => ⟨fun hlanes hi => ?_, fun hlanes hroom => ?_, ?_⟩, fun hidx hdrains hlands hflit hheld => ?_⟩
  · obtain ⟨hfold, w, hcore⟩ := drain_drawer hrel hb hi hlanes []
    obtain ⟨hmem, hout, -⟩ := bufferLeft_frame (storeLanes s e.lanes) c ve idx
    refine ⟨_, drain_go hidx hleave hstat hfold, hmem, ?_, ?_⟩
    · exact (bufferLeft_buffer _ c ve idx).trans (by rw [hcore]; rfl)
    · rw [hout, hcore]
  · rw [← hslot] at hroom
    obtain ⟨hfold, hmem, es, hcore, hes⟩ := drain_mesh hrel hlanes hroom []
    obtain ⟨hmem', hout, -⟩ := bufferLeft_frame (e.lanes.foldl (sendLane c e) s) c ve idx
    refine ⟨_, drain_go hidx hleave hstat hfold, hmem'.trans hmem, ?_, ?_⟩
    · exact (bufferLeft_buffer _ c ve idx).trans (by rw [hcore]; rfl)
    · rw [hout, hcore, hes]
      rfl
  · intro x l hone hcache hshut u hhit who
    have hfold : e.lanes.foldl (State.drainStep c e) ([], s) = ([], intoCache s c e x) := by
      rw [hone, List.foldl_cons, List.foldl_nil, drainStep_cache hrel hcache hshut hhit]
    obtain ⟨hmem, -, hdc⟩ := bufferLeft_frame (intoCache s c e x) c ve idx
    obtain ⟨hbuf, hmem', hdc'⟩ := intoCache_frame s c e x ve
    refine ⟨_, drain_go hidx hleave hstat hfold, hmem.trans hmem', ?_, hdc.trans hdc'⟩
    change engineBuffer _ ve = (engineBuffer (u.core c) ve).eraseIdx idx
    rw [bufferLeft_buffer, hbuf]
  · rw [exec_storeAck, storeAck_go hidx hdrains hlands hflit hheld]
    congr 4
    funext u x
    exact performLane_noRel hrel u c x

end Sys2Proof.Proofs
end

section
/-! SUPPORT. Loads and stores as they issue (03_core.md R281 to R303): the entry that a store puts, the registers or the entry that a load
leaves. -/

namespace Sys2Proof.Proofs

open Sys2Proof Sys2Proof.Machine

/-! ## Memory through an issue -/

theorem strmNext_mem (s : State) (t : Strm) (ls : List Nat) : (s.strmNext t ls).mem = s.mem := by
  cases t with
  | se c => exact State.updCore_mem _ _ _
  | ve g =>
    rw [State.strmNext]
    split
    · exact State.updCore_mem _ _ _
    · rfl

theorem counted_mem (s : State) (t : Strm) (ls : List Nat) : (s.counted t ls).mem = s.mem := by
  cases t with
  | se c => exact State.updCore_mem _ _ _
  | ve g => simp only [State.counted, State.veIssued, State.selfAdd, State.updCore_mem]

/-! ## Stores -/

/-- The accesses of lanes all of which have targets. -/
def okAccs (ls : List Nat) (va : Nat → Nat) (tg : Nat → Tgt) (ca : Nat → Bool) : List (Nat × Nat × Acc) :=
  ls.map (fun l => (l, va l, Acc.ok (tg l) (ca l)))

theorem firstFault_ok (ls : List Nat) (va : Nat → Nat) (tg : Nat → Tgt) (ca : Nat → Bool) : firstFault (okAccs ls va tg ca) = none := by
  rw [firstFault, List.findSome?_eq_none_iff]
  intro a ha
  obtain ⟨l, -, rfl⟩ := List.mem_map.mp ha
  rfl

theorem storeLanes_ok (n : Nat) (data : Nat → W64) (ls : List Nat) (va : Nat → Nat) (tg : Nat → Tgt) (ca : Nat → Bool) :
    (okAccs ls va tg ca).filterMap (storeLane n data) =
      ls.map (fun l => { lane := l, va := va l, tgt := tg l, cache := ca l, bytes := leBytes n (data l).toNat }) := by
  rw [okAccs, List.filterMap_map, ← List.filterMap_eq_map]
  rfl

theorem lanes_ok (ls : List Nat) (va : Nat → Nat) (tg : Nat → Tgt) (ca : Nat → Bool) : (okAccs ls va tg ca).map (·.1) = ls := by
  rw [okAccs, List.map_map]
  exact List.map_id _

/-- A strongly ordered access among those of some lanes. -/
theorem anyStrong_iff (s : State) (ls : List Nat) (va : Nat → Nat) (ac : Nat → Acc) :
    (ls.map (fun l => (l, va l, ac l))).any s.accStrong = true ↔ ∃ l ∈ ls, ∃ g k, ac l = .ok g k ∧ s.isStrong g = true := by
  rw [List.any_map, List.any_eq_true]
  refine exists_congr (fun l => and_congr_right (fun _ => ?_))
  dsimp only [Function.comp, State.accStrong]
  cases ac l <;> simp

/-- An access that R302 governs waits for the stream's stores; here none is pending. -/
theorem strongWait_false {s : State} {ls : List Nat} {va : Nat → Nat} {ac : Nat → Acc} {p : Bool}
    (h : (∃ l ∈ ls, ∃ g k, ac l = .ok g k ∧ s.isStrong g = true) → p = false) :
    ((ls.map (fun l => (l, va l, ac l))).any s.accStrong && p) = false := by
  by_cases hs : (ls.map (fun l => (l, va l, ac l))).any s.accStrong = true
  · rw [h ((anyStrong_iff s ls va ac).mp hs), Bool.and_false]
  · rw [Bool.not_eq_true] at hs
    rw [hs, Bool.false_and]

/-- A store whose lanes all have targets, with room and nothing that holds it back, enters the buffer. -/
theorem storeIssue_go {s0 s1 : State} {t : Strm} {pc size : Nat} {bases : List (Nat × W64)} {data : Nat → W64} {rel : Option (BitVec 3)}
    {space : Bool} {off : BitVec 16} {ls : List Nat} {va : Nat → Nat} {tg : Nat → Tgt} {ca : Nat → Bool}
    (hheld : s0.heldBack (strmCore t) (strmSlot t) = false) (hres : s0.resolveAll t bases off space (2 ^ size) .store = (okAccs ls va tg ca, s1))
    (hstrong : (∃ l ∈ ls, s1.isStrong (tg l) = true) → s1.storesPending (strmCore t) (strmSlot t) = false)
    (hroom : s1.bufferRoom (strmCore t) (strmSlot t) = true) :
    s0.storeIssue t pc bases data size rel space off = some ((s1.bufferPut t pc { slot := strmSlot t, rel := rel, lanes := ls.map (fun l =>
      { lane := l, va := va l, tgt := tg l, cache := ca l, bytes := leBytes (2 ^ size) (data l).toNat }) }).strmNext t ls) := by
  have hwait : ((okAccs ls va tg ca).any s1.accStrong && s1.storesPending (strmCore t) (strmSlot t)) = false :=
    strongWait_false (ac := fun l => .ok (tg l) (ca l)) (fun ⟨l, hl, g, k, hac, hs⟩ => hstrong ⟨l, hl, by cases hac; exact hs⟩)
  have hlen : (ls.map (fun l => ({ lane := l, va := va l, tgt := tg l, cache := ca l, bytes := leBytes (2 ^ size) (data l).toNat } : LaneAcc))).length =
      (okAccs ls va tg ca).length := by simp [okAccs]
  simp only [State.storeIssue, hheld, hres, firstFault_ok, storeLanes_ok, lanes_ok, hlen, hwait, hroom, bne_self_eq_false, Bool.not_true,
    Bool.or_self, Bool.false_eq_true, if_false]

/-- Settles O20. -/
theorem storeIssue : Obligations.StoreIssue := by
  unfold Obligations.StoreIssue
  intro s s0 s1 t f pc ls va tg ca c sl n h hheld hres hstrong hroom e u
  refine ⟨?_, ?_⟩
  · rw [exec_st, execSt]
    exact State.memIssue_go h (storeIssue_go hheld hres hstrong hroom)
  · rw [counted_mem, strmNext_mem, State.updCore_mem]

/-! ## Loads -/

theorem ended_bytes {xs : List LaneAcc} (h : ∀ x ∈ xs, x.bad = none ∧ x.bytes ≠ []) : ended xs = .bytes := by
  induction xs with
  | nil => rfl
  | cons x xs ih =>
    obtain ⟨hbad, hbytes⟩ := h x List.mem_cons_self
    simp [ended, hbad, hbytes, ih (fun y hy => h y (List.mem_cons_of_mem _ hy))]

theorem ended_no {xs : List LaneAcc} (hbad : ∀ x ∈ xs, x.bad = none) (hwait : ∃ x ∈ xs, x.bytes = []) : ended xs = .no := by
  induction xs with
  | nil => obtain ⟨x, hx, -⟩ := hwait; cases hx
  | cons x xs ih =>
    simp only [ended, hbad x List.mem_cons_self]
    by_cases hx : x.bytes = []
    · simp [hx]
    · rw [if_neg (by simpa using hx)]
      refine ih (fun y hy => hbad y (List.mem_cons_of_mem _ hy)) ?_
      obtain ⟨y, hy, hempty⟩ := hwait
      rcases List.mem_cons.mp hy with rfl | hy
      · exact absurd hempty hx
      · exact ⟨y, hy, hempty⟩

theorem ended_noFault {xs : List LaneAcc} (hbad : ∀ x ∈ xs, x.bad = none) : (ended xs).isFault = false := by
  by_cases h : ∃ x ∈ xs, x.bytes = []
  · rw [ended_no hbad h]; rfl
  · push Not at h
    rw [ended_bytes (fun x hx => ⟨hbad x hx, h x hx⟩)]; rfl

/-- A load that has all its bytes writes them, its data path sound. -/
theorem loadEnds_bytes {s s3 : State} {t : Strm} {lanes : List LaneAcc} (h : ∀ x ∈ lanes, x.bad = none ∧ x.bytes ≠ [])
    (hpath : s.pathRead (strmCore t) = (false, s3)) (pc : Nat) (dst : Byte) (n : Nat) (sx acq : Bool) :
    s.loadEnds t pc dst n sx acq lanes = some ((s3.loadResult (strmCore t) (strmSlot t) (some dst) n sx
      (lanes.map (fun l => (l.lane, l.bytes)))).strmNext t (lanes.map (·.lane))) := by
  simp only [State.loadEnds, ended_bytes h, hpath]

/-- A load that lacks bytes joins those outstanding. -/
theorem loadEnds_no {s : State} {t : Strm} {lanes : List LaneAcc} (hbad : ∀ x ∈ lanes, x.bad = none) (hwait : ∃ x ∈ lanes, x.bytes = [])
    (pc : Nat) (dst : Byte) (n : Nat) (sx acq : Bool) :
    s.loadEnds t pc dst n sx acq lanes = some ((({ s with order := s.order + 1 } : State).updCore (strmCore t) (fun k => { k with loads := k.loads ++
      [{ id := (s.core (strmCore t)).newLoad, num := s.order, slot := strmSlot t, acq := acq, dst := some dst, size := n, sx := sx,
         pc := BitVec.ofNat 64 pc, lanes := lanes }] })).goLoads (strmCore t) |>.strmNext t (lanes.map (·.lane))) := by
  simp only [State.loadEnds, ended_no hbad hwait]
  rfl

/-- What a lane finds that has its bytes, or has to go for them. -/
def Found (q : Got) (bs : List Byte) : Prop := (q = .bytes bs ∧ bs ≠ []) ∨ (q = .miss ∧ bs = [])

/-- An access of a lane that is no exception and does not wait. -/
def Sound (a : Acc) : Prop := (∃ g k, a = .ok g k) ∨ ∃ o, a = .window o

theorem gotLane_found {a : Acc} {q : Got} {bs : List Byte} (ha : Sound a) (hq : Found q bs) (l va : Nat) :
    (gotLane (l, va, a, q)).bad = none ∧ (gotLane (l, va, a, q)).bytes = bs ∧ gotWaits (l, va, a, q) = false := by
  obtain ⟨g, k, rfl⟩ | ⟨o, rfl⟩ := ha <;> obtain ⟨rfl, -⟩ | ⟨rfl, rfl⟩ := hq <;> exact ⟨rfl, rfl, rfl⟩

/-- No lane waits before the load can issue. -/
theorem noneWaits {ls : List Nat} {va : Nat → Nat} {ac : Nat → Acc} {q : Nat → Got} {bs : Nat → List Byte} (hac : ∀ l ∈ ls, Sound (ac l))
    (hq : ∀ l ∈ ls, Found (q l) (bs l)) : (ls.map (fun l => (l, va l, ac l, q l))).any gotWaits = false := by
  rw [List.any_eq_false]
  intro a ha
  obtain ⟨l, hl, rfl⟩ := List.mem_map.mp ha
  rw [(gotLane_found (hac l hl) (hq l hl) l (va l)).2.2]
  exact Bool.false_ne_true

/-- What a load's lanes leave, as a load outstanding or a finished one, given lanes that have found their bytes or must go for them. -/
theorem loadEnds_lanes {s s3 : State} {t : Strm} {ls : List Nat} {lane : Nat → LaneAcc} {bs : Nat → List Byte} (hlane : ∀ l ∈ ls, (lane l).lane = l)
    (hbad : ∀ l ∈ ls, (lane l).bad = none) (hbytes : ∀ l ∈ ls, (lane l).bytes = bs l) (pc : Nat) (dst : Byte) (n : Nat) (sx acq : Bool) :
    ((∀ l ∈ ls, bs l ≠ []) → s.pathRead (strmCore t) = (false, s3) → s.loadEnds t pc dst n sx acq (ls.map lane) =
      some ((s3.loadResult (strmCore t) (strmSlot t) (some dst) n sx (ls.map (fun l => (l, bs l)))).strmNext t ls)) ∧
    ((∃ l ∈ ls, bs l = []) → s.loadEnds t pc dst n sx acq (ls.map lane) =
      some ((({ s with order := s.order + 1 } : State).updCore (strmCore t) (fun k => { k with loads := k.loads ++
        [{ id := (s.core (strmCore t)).newLoad, num := s.order, slot := strmSlot t, acq := acq, dst := some dst, size := n, sx := sx,
           pc := BitVec.ofNat 64 pc, lanes := ls.map lane }] })).goLoads (strmCore t) |>.strmNext t ls)) := by
  have hls : (ls.map lane).map (·.lane) = ls := by
    rw [List.map_map]
    exact (List.map_congr_left hlane).trans (List.map_id _)
  have hpairs : (ls.map lane).map (fun l => (l.lane, l.bytes)) = ls.map (fun l => (l, bs l)) := by
    rw [List.map_map]
    exact List.map_congr_left (fun l hl => Prod.ext (hlane l hl) (hbytes l hl))
  refine ⟨fun hall hpath => ?_, fun ⟨l, hl, hempty⟩ => ?_⟩
  · rw [loadEnds_bytes (fun x hx => ?_) hpath, hls, hpairs]
    obtain ⟨l, hl, rfl⟩ := List.mem_map.mp hx
    exact ⟨hbad l hl, by rw [hbytes l hl]; exact hall l hl⟩
  · rw [loadEnds_no (fun x hx => ?_) ⟨lane l, List.mem_map_of_mem hl, (hbytes l hl).trans hempty⟩, hls]
    obtain ⟨l, hl, rfl⟩ := List.mem_map.mp hx
    exact hbad l hl

/-- A load whose lanes are sound and find bytes or misses comes to its end. -/
theorem loadIssue_go {s0 s1 s2 : State} {t : Strm} {pc size : Nat} {bases : List (Nat × W64)} {dst : Byte} {sx space : Bool} {off : BitVec 16}
    {ls : List Nat} {va : Nat → Nat} {ac : Nat → Acc} {q : Nat → Got} {bs : Nat → List Byte}
    (hheld : s0.heldBack (strmCore t) (strmSlot t) = false)
    (hres : s0.resolveAll t bases off space (2 ^ size) .load = (ls.map (fun l => (l, va l, ac l)), s1)) (hac : ∀ l ∈ ls, Sound (ac l))
    (hstrong : (∃ l ∈ ls, ∃ g k, ac l = .ok g k ∧ s2.isStrong g = true) → s2.storesPending (strmCore t) (strmSlot t) = false)
    (hgot : s1.loadLanes t (ls.map (fun l => (l, va l, ac l))) (2 ^ size) = (ls.map (fun l => (l, va l, ac l, q l)), s2))
    (hq : ∀ l ∈ ls, Found (q l) (bs l)) :
    s0.loadIssue t pc bases dst size sx space off =
      s2.loadEnds t pc dst (2 ^ size) sx false (ls.map (fun l => gotLane (l, va l, ac l, q l))) := by
  have hnoFault : (ended (ls.map (fun l => gotLane (l, va l, ac l, q l)))).isFault = false := by
    refine ended_noFault (fun x hx => ?_)
    obtain ⟨l, hl, rfl⟩ := List.mem_map.mp hx
    exact (gotLane_found (hac l hl) (hq l hl) l (va l)).1
  simp only [State.loadIssue, hheld, hres, hgot, List.map_map, Function.comp_def, hnoFault, noneWaits hac hq, strongWait_false hstrong,
    Bool.or_self, Bool.and_false, Bool.false_eq_true, if_false]

/-- Settles O21: the load comes to its end, with its bytes or without. -/
theorem loadIssue : Obligations.LoadIssue := by
  unfold Obligations.LoadIssue
  intro s s0 s1 s2 s3 t f pc ls va ac bs q c sl n as lanes e u h hheld hres hac hstrong hgot hq
  have hgo := loadIssue_go (pc := pc) (dst := f.dst) (sx := f.sx) hheld hres hac hstrong hgot hq
  obtain ⟨hbytes, hno⟩ := loadEnds_lanes (s := s2) (s3 := s3) (t := t) (lane := fun l => gotLane (l, va l, ac l, q l)) (bs := bs)
    (fun l _ => by rfl) (fun l hl => (gotLane_found (hac l hl) (hq l hl) l (va l)).1)
    (fun l hl => (gotLane_found (hac l hl) (hq l hl) l (va l)).2.1) pc f.dst n f.sx false
  rw [exec_ld, execLd]
  exact ⟨fun hall hpath => State.memIssue_go h (hgo.trans (hbytes hall hpath)), fun hmiss => State.memIssue_go h (hgo.trans (hno hmiss))⟩

end Sys2Proof.Proofs
end

section
/-! SUPPORT. Acquires and releases (11_ordering.md R291 to R297): LD.ACQ at its homes, ST.REL in the buffer and out of it. -/

namespace Sys2Proof.Proofs

open Sys2Proof Sys2Proof.Machine

/-! ## LD.ACQ -/

/-- A lane of an LD.ACQ as it is kept: never cached, with its scope. -/
def acqLaneOf (scope : Nat) (a : Nat × Nat × Acc × Got) : LaneAcc := { gotLane a with cache := false, scope := BitVec.ofNat 3 scope }

theorem filterMap_accTgt (ls : List Nat) (va : Nat → Nat) (tg : Nat → Tgt) (ca : Nat → Bool) :
    (okAccs ls va tg ca).filterMap accTgt = ls.map tg := by
  rw [okAccs, List.filterMap_map, ← List.filterMap_eq_map]
  rfl

/-- An LD.ACQ whose lanes find bytes or misses comes to its end. -/
theorem acquireIssue_go {s0 s1 s2 : State} {t : Strm} {pc size scope : Nat} {bases : List (Nat × W64)} {dst : Byte} {sx space : Bool}
    {off : BitVec 16} {ls : List Nat} {va : Nat → Nat} {tg : Nat → Tgt} {ca : Nat → Bool} {q : Nat → Got} {bs : Nat → List Byte}
    (hheld : s0.heldBack (strmCore t) (strmSlot t) = false) (hres : s0.resolveAll t bases off space (2 ^ size) .load = (okAccs ls va tg ca, s1))
    (hlines : s1.heldLines (ls.map tg) (2 ^ size) false = [])
    (hgot : s1.acqLanes t scope (okAccs ls va tg ca) (2 ^ size) = (ls.map (fun l => (l, va l, Acc.ok (tg l) (ca l), q l)), s2))
    (hstrong : (∃ l ∈ ls, s2.isStrong (tg l) = true) → s2.storesPending (strmCore t) (strmSlot t) = false)
    (hq : ∀ l ∈ ls, Found (q l) (bs l)) :
    s0.acquireIssue t pc bases dst size scope sx space off =
      s2.loadEnds t pc dst (2 ^ size) sx true (ls.map (fun l => acqLaneOf scope (l, va l, Acc.ok (tg l) (ca l), q l))) := by
  have hsound (l : Nat) : Sound (Acc.ok (tg l) (ca l)) := .inl ⟨_, _, rfl⟩
  have hnoFault : (ended (ls.map (fun l => acqLaneOf scope (l, va l, Acc.ok (tg l) (ca l), q l)))).isFault = false := by
    refine ended_noFault (fun x hx => ?_)
    obtain ⟨l, hl, rfl⟩ := List.mem_map.mp hx
    exact (gotLane_found (hsound l) (hq l hl) l (va l)).1
  have hwait : ((okAccs ls va tg ca).any s2.accStrong && s2.storesPending (strmCore t) (strmSlot t)) = false :=
    strongWait_false (ac := fun l => .ok (tg l) (ca l)) (fun ⟨l, hl, g, k, hac, hs⟩ => hstrong ⟨l, hl, by cases hac; exact hs⟩)
  have hlanes : (ls.map (fun l => (l, va l, Acc.ok (tg l) (ca l), q l))).map (fun a => { gotLane a with cache := false, scope := BitVec.ofNat 3 scope }) =
      ls.map (fun l => acqLaneOf scope (l, va l, Acc.ok (tg l) (ca l), q l)) := by
    rw [List.map_map]; rfl
  simp only [State.acquireIssue, hheld, hres, filterMap_accTgt, hlines, hgot, hlanes, hnoFault, noneWaits (fun l _ => hsound l) hq, hwait,
    List.isEmpty_nil, Bool.not_true, Bool.or_self, Bool.and_false, Bool.false_eq_true, if_false]

/-! ## ST.REL out of the buffer -/

/-- A lane of a release into the drawer of its own core is performed at once, and what it wrote is noted. -/
theorem drainStep_release {s : State} {c : CoreNum} {e : StoreEntry} {x : LaneAcc} {pa : Nat} {scope : BitVec 3} (hrel : e.rel = some scope)
    (hscope : scope ≠ 4) (hx : x.cache = false) (htgt : x.tgt = .dev pa) (hclass : s.classOf pa = .drawer) (hcore : drawerCore pa = c)
    (stay : List LaneAcc) :
    State.drainStep c e (stay, s) x =
      (stay, (s.homeWrite pa x.bytes).noteRelease c e.slot.isSome.toNat scope (.dev pa) x.bytes) := by
  have hdevice : ¬ scope = 4#3 := hscope
  simp [State.drainStep, State.drainLane, hrel, hx, hdevice, State.drainHome, htgt, hclass, hcore, State.noteStore]

theorem noteRelease_mem (s : State) (c : CoreNum) (en : Nat) (scope : BitVec 3) (t : Tgt) (bs : List Byte) :
    (s.noteRelease c en scope t bs).mem = s.mem := rfl

theorem noteRelease_core (s : State) (c c' : CoreNum) (en : Nat) (scope : BitVec 3) (t : Tgt) (bs : List Byte) :
    (s.noteRelease c en scope t bs).core c' = s.core c' := rfl

/-- The stores of some lanes in memory. -/
def memStores (m : Memory) (xs : List LaneAcc) : Memory := xs.foldl (fun m x => m.store x.tgt.addr x.bytes) m

theorem homeWrite_inDrawer_mem {s : State} {c : CoreNum} {x : LaneAcc} (hb : s.bulkOk) (hi : bit s.err.inject 0 = false) (hx : InDrawer c x) :
    (s.homeWrite x.tgt.addr x.bytes).mem = s.mem.store x.tgt.addr x.bytes := by
  obtain ⟨-, pa, htgt, hlo, hhi⟩ := hx
  rw [htgt]
  exact homeWrite_mem (by rw [Tgt.addr, (drawer_class hb hlo hhi).1]; rfl) hi _

theorem storeLanes_mem {c : CoreNum} {s : State} (hb : s.bulkOk) (hi : bit s.err.inject 0 = false) {xs : List LaneAcc}
    (hxs : ∀ x ∈ xs, InDrawer c x) : (storeLanes s xs).mem = memStores s.mem xs := by
  induction xs generalizing s with
  | nil => rfl
  | cons x xs ih =>
    have hx := hxs x List.mem_cons_self
    obtain ⟨hb', hi', -⟩ := homeWrite_inDrawer hb hi hx
    have htail := ih hb' hi' (fun y hy => hxs y (List.mem_cons_of_mem _ hy))
    rw [homeWrite_inDrawer_mem hb hi hx] at htail
    exact htail

/-- The lanes of a release that all store into the own drawer. -/
theorem drain_release {c : CoreNum} {e : StoreEntry} {scope : BitVec 3} (hrel : e.rel = some scope) (hscope : scope ≠ 4) {s : State} (hb : s.bulkOk)
    (hi : bit s.err.inject 0 = false) {xs : List LaneAcc} (hxs : ∀ x ∈ xs, InDrawer c x) (stay : List LaneAcc) :
    ∃ t w, xs.foldl (State.drainStep c e) (stay, s) = (stay, t) ∧ t.mem = memStores s.mem xs ∧ t.core c = { s.core c with ceWait := w } := by
  induction xs generalizing s with
  | nil => exact ⟨s, _, rfl, rfl, rfl⟩
  | cons x xs ih =>
    have hx := hxs x List.mem_cons_self
    have hmem := homeWrite_inDrawer_mem hb hi hx
    obtain ⟨hb', hi', w, hw⟩ := homeWrite_inDrawer hb hi hx
    obtain ⟨hcache, pa, htgt, hlo, hhi⟩ := hx
    obtain ⟨hclass, hcore⟩ := drawer_class hb hlo hhi
    rw [htgt, Tgt.addr] at hmem hb' hi' hw
    obtain ⟨t, w', hfold, hm, hc⟩ := ih (s := (s.homeWrite pa x.bytes).noteRelease c e.slot.isSome.toNat scope (.dev pa) x.bytes) hb' hi'
      (fun y hy => hxs y (List.mem_cons_of_mem _ hy))
    refine ⟨t, w', ?_, ?_, ?_⟩
    · rw [List.foldl_cons, drainStep_release hrel hscope hcache htgt hclass hcore stay, hfold]
    · rw [hm, noteRelease_mem, hmem, memStores, memStores, List.foldl_cons, htgt, Tgt.addr]
    · rw [hc, noteRelease_core, hw]

/-- An entry that may not leave stays. -/
theorem drain_stays {s : State} {c : CoreNum} {ve : Bool} {idx : Nat} {e : StoreEntry} (hidx : (engineBuffer (s.core c) ve)[idx]? = some e)
    (hleave : s.mayLeave c ((engineBuffer (s.core c) ve).take idx) e = false) : execStoreBufferDrain c ve idx s = .next s := by
  rw [engineBuffer] at hidx hleave
  simp only [execStoreBufferDrain, hidx, hleave, Bool.not_false, if_true]

/-- A release waits for the older stores that its scope asks for, and for the older loads of its stream. -/
theorem mayLeave_false {s : State} {c : CoreNum} {older : List StoreEntry} {e : StoreEntry} {scope : BitVec 3} (hrel : e.rel = some scope)
    (h : s.releasedTo c e.slot scope.toNat e.num = false ∨ ∃ l ∈ (s.core c).loads, l.slot = e.slot ∧ l.num < e.num) :
    s.mayLeave c older e = false := by
  rw [State.mayLeave, hrel]
  rcases h with h | ⟨l, hl, hslot, hnum⟩
  · simp only [h, Bool.and_false]
  · have hany : (s.core c).loads.any (fun l => l.slot == e.slot && decide (l.num < e.num)) = true :=
      List.any_eq_true.mpr ⟨l, hl, by simp [hslot, hnum]⟩
    simp only [hany, Bool.not_true, Bool.and_false, Bool.false_and]

/-- Settles O24: the acquire at its homes, the release into the buffer, what holds it there, and its stores. -/
theorem acquireAndRelease : Obligations.AcquireAndRelease := by
  unfold Obligations.AcquireAndRelease
  constructor
  · intro s s0 s1 s2 s3 t f pc ls va tg ca c sl n as hheld
    constructor
    · intro h hres hlines q bs hgot hstrong hq e u
      have hgo := acquireIssue_go (pc := pc) (dst := f.dst) (sx := f.sx) hheld hres hlines hgot hstrong hq
      have hfound (l : Nat) (hl : l ∈ ls) := gotLane_found (.inl ⟨_, _, rfl⟩ : Sound (Acc.ok (tg l) (ca l))) (hq l hl) l (va l)
      obtain ⟨hbytes, hno⟩ := loadEnds_lanes (s := s2) (s3 := s3) (t := t)
        (lane := fun l => acqLaneOf f.scope.toNat (l, va l, Acc.ok (tg l) (ca l), q l)) (bs := bs)
        (fun l _ => by rfl) (fun l hl => (hfound l hl).1) (fun l hl => (hfound l hl).2.1) pc f.dst n f.sx true
      rw [exec_ldAcq, execLdAcq]
      exact ⟨fun hall hpath => State.memIssue_go h (hgo.trans (hbytes hall hpath)), fun hmiss => State.memIssue_go h (hgo.trans (hno hmiss))⟩
    · intro h hres hstrong hroom e u
      rw [exec_stRel, execStRel]
      exact State.memIssue_go h (storeIssue_go hheld hres hstrong hroom)
  · intro s c ve idx e scope buf hidx hrel
    refine ⟨fun hwait => drain_stays hidx (mayLeave_false hrel hwait), fun hb hstat hscope hleave hi hlanes => ?_⟩
    obtain ⟨t, w, hfold, hmem, hcore⟩ := drain_release hrel hscope hb hi hlanes []
    refine ⟨_, drain_go hidx hleave hstat hfold, ?_, ?_⟩
    · rw [(bufferLeft_frame t c ve idx).1, hmem, ← storeLanes_mem hb hi hlanes]
      rfl
    · exact (bufferLeft_buffer _ c ve idx).trans (by rw [hcore]; rfl)

end Sys2Proof.Proofs
end

section
/-! SUPPORT. Loads that the drawer or a home answers (03_core.md R35, R135, R136, R292): LD of the SE from its drawer, LOAD_RESPONSE. -/

namespace Sys2Proof.Proofs

open Sys2Proof Sys2Proof.Machine

/-! ## Drawer addresses -/

theorem resolve_misaligned {t : Strm} {base : W64} {off : BitVec 16} {n : Nat} (s : State) (k : AccKind)
    (h : (((base.toNat % 2 ^ 32 : Nat) : Int) + off.toInt) % (n : Int) ≠ 0) : ∃ x, s.resolve t base off true n k = (.fault 4 x, s) := by
  simp only [State.resolve, if_true]
  exact ⟨_, if_pos h⟩

theorem resolve_outside {t : Strm} {base : W64} {off : BitVec 16} {n : Nat} (s : State) (k : AccKind)
    (h : (((base.toNat % 2 ^ 32 : Nat) : Int) + off.toInt) % (n : Int) = 0)
    (hout : ((base.toNat % 2 ^ 32 : Nat) : Int) + off.toInt < 0 ∨ 0x2_0000 ≤ ((base.toNat % 2 ^ 32 : Nat) : Int) + off.toInt) :
    s.resolve t base off true n k = (.fault 5 0, s) := by
  simp only [State.resolve, if_true, h, hout, ne_eq, not_true_eq_false, if_false]

theorem resolve_drawer {t : Strm} {base : W64} {off : BitVec 16} {n : Nat} (s : State) (k : AccKind)
    (h : (((base.toNat % 2 ^ 32 : Nat) : Int) + off.toInt) % (n : Int) = 0)
    (hlo : 0 ≤ ((base.toNat % 2 ^ 32 : Nat) : Int) + off.toInt) (hhi : ((base.toNat % 2 ^ 32 : Nat) : Int) + off.toInt < 0x2_0000) :
    s.resolve t base off true n k = (.ok (.dev (drawerBase (strmCore t) + (((base.toNat % 2 ^ 32 : Nat) : Int) + off.toInt).toNat)) false, s) := by
  have hin : ¬ (((base.toNat % 2 ^ 32 : Nat) : Int) + off.toInt < 0 ∨ 0x2_0000 ≤ ((base.toNat % 2 ^ 32 : Nat) : Int) + off.toInt) := by omega
  simp only [State.resolve, if_true, h, hin, ne_eq, not_true_eq_false, if_false]

/-! ## LD of the SE from its drawer -/

/-- A core that has nothing buffered, on its way or outstanding. -/
structure Quiet (k : Core) : Prop where
  loads : k.loads = []
  buffer : k.se.buffer = []
  out : k.storesOut = []

theorem awaits_quiet {s : State} {c : CoreNum} (h : Quiet (s.core c)) (regs : List Nat) : s.awaits c none regs = false := by
  simp [State.awaits, h.loads]

theorem heldBack_quiet {s : State} {c : CoreNum} (h : Quiet (s.core c)) : s.heldBack c none = false := by
  simp [State.heldBack, h.loads, h.out, Core.buffer, h.buffer]

theorem storesOut_quiet {s : State} {c : CoreNum} (h : Quiet (s.core c)) (lane pa n : Nat) :
    s.forward c none lane (.dev pa) n = (.none, none) := by
  simp [State.forward, h.out, Core.buffer, h.buffer]

theorem firstPoison_none {m : Memory} {a n : Nat} (h : m.poisoned a n = false) : m.firstPoison a n = none := by
  rw [Memory.poisoned, List.any_eq_false] at h
  rw [Memory.firstPoison, List.find?_eq_none]
  exact h

/-- A read of a drawer counts no traffic: it takes a new draw where a byte is unpredictable, and changes nothing else. -/
theorem homeRead_drawer {s : State} {a : Nat} (hm : s.classOf a = .drawer) (hi : bit s.err.inject 0 = false) (n : Nat) :
    (s.homeRead a n).2 = { s with fresh := s.fresh + (if s.mem.known a n then 0 else 1) } := by
  simp only [State.homeRead, inject_unarmed hi, State.devRead, State.traffic, hm, AddrClass.isMemory, if_true, State.memRead]
  split <;> rfl

theorem bytesAt_length (m : Memory) (d a n : Nat) : (m.bytesAt d a n).length = n := by
  rw [Memory.bytesAt, List.length_map, List.length_range]

/-- The bytes that one read of a range finds. -/
def readBytes (m : Memory) (draw a n : Nat) : List Byte := if m.known a n then m.bytes a n else m.bytesAt draw a n

theorem readBytes_ne_nil (m : Memory) (draw a : Nat) {n : Nat} (hn : 0 < n) : readBytes m draw a n ≠ [] := by
  refine List.ne_nil_of_length_pos ?_
  rw [readBytes]
  split
  · rw [Memory.bytes_length]; exact hn
  · rw [bytesAt_length]; exact hn

/-- A lane of a load from its own drawer, with no store of its stream on the way, reads the drawer. -/
theorem loadLane_drawer {s : State} {c : CoreNum} {pa n : Nat} (hq : Quiet (s.core c)) (hb : s.bulkOk) (hi : bit s.err.inject 0 = false)
    (hlo : drawerBase c ≤ pa) (hhi : pa < drawerBase c + 0x2_0000) (hp : s.mem.poisoned pa n = false) (lane va : Nat) (ca : Bool) :
    s.loadLane (.se c) lane va (.ok (.dev pa) ca) n = (.bytes (readBytes s.mem (s.fresh + 1) pa n),
      { s with fresh := s.fresh + (if s.mem.known pa n then 1 else 2) }) := by
  let t : State := { s with fresh := s.fresh + 1 }
  obtain ⟨hclass, hcore⟩ := drawer_class (s := t) hb hlo hhi
  obtain ⟨hbytes, hpoison, -⟩ := homeRead_memory (s := t) (a := pa) (by rw [hclass]; rfl) hi n
  have hstate := homeRead_drawer (s := t) hclass hi n
  have hread : t.homeRead pa n = ((readBytes s.mem (s.fresh + 1) pa n, none), { s with fresh := s.fresh + (if s.mem.known pa n then 1 else 2) }) := by
    refine Prod.ext (Prod.ext hbytes (hpoison.trans (firstPoison_none hp))) (hstate.trans ?_)
    simp only [t]
    split <;> rfl
  simp only [t] at hread hclass
  simp only [State.loadLane, strmCore, strmSlot, storesOut_quiet hq, hclass, hcore, Tgt.addr, hread, decide_true, beq_self_eq_true, Bool.and_self,
    if_true]

theorem pathRead_none {s : State} {c : CoreNum} (h : (s.core c).pathBad = 0) : s.pathRead c = (false, s) := by
  simp [State.pathRead, h]

/-- The SE's register from a load of its one lane; the SE past the load. -/
theorem loadResult_se (s : State) (c : CoreNum) (d : Byte) (n : Nat) (sx : Bool) (bs : List Byte) (hover : s.overwrite c none [0] [d.toNat] = s) :
    ((s.loadResult c none (some d) n sx [(0, bs)]).strmNext (.se c) [0]).counted (.se c) [0] = s.seDone c d.toNat (extend n sx bs) 0 := by
  rw [← seResult_counted, hover]
  simp only [State.loadResult, State.strmNext, State.counted, State.seNext, State.seResult, State.selfAdd, State.updCore_updCore,
    List.contains_nil, Bool.false_eq_true, if_false]
  refine updCore_congr ?_
  simp only [Se.setReg]
  split <;> rfl

/-- The load of the SE's one lane, by whatever way its address is an address of its own drawer. -/
theorem ld_drawer {s : State} {c : CoreNum} {f : MFmt} {pa : Nat} (h : s.SeGo c (encM 0x20 0 f) [(0, f.src1.toNat)] (some f.dst.toNat) false)
    (hq : Quiet (s.core c)) (hpath : (s.core c).pathBad = 0) (hb : s.bulkOk) (hi : bit s.err.inject 0 = false) (hlo : drawerBase c ≤ pa)
    (hhi : pa < drawerBase c + 0x2_0000) (hp : s.mem.poisoned pa (2 ^ f.size.toNat) = false)
    (hres : ∀ k, s.resolve (.se c) ((s.core c).se.reg f.src1.toNat) f.off f.space (2 ^ f.size.toNat) k = (.ok (.dev pa) false, s)) :
    execLd (.se c) f s = .next (({ s with fresh := s.fresh + (if s.mem.known pa (2 ^ f.size.toNat) then 1 else 2) } : State).seDone c f.dst.toNat
      (extend (2 ^ f.size.toNat) f.sx (readBytes s.mem (s.fresh + 1) pa (2 ^ f.size.toNat))) 0) := by
  let n := 2 ^ f.size.toNat
  let bs := readBytes s.mem (s.fresh + 1) pa n
  let u : State := { s with fresh := s.fresh + (if s.mem.known pa n then 1 else 2) }
  let va := if f.space then 2 ^ 58 else ((s.core c).se.reg f.src1.toNat + f.off.signExtend 64).toNat
  have hover : ∀ d, s.overwrite c none [0] [d] = s := fun d => State.overwrite_free (awaits_quiet hq _) _
  have hoverU : u.overwrite c none [0] [f.dst.toNat] = u := State.overwrite_free (awaits_quiet (s := u) hq _) _
  have hgo : s.StrmGo (.se c) (encM 0x20 0 f) (addrReads (.se c) f) (dataRegs (.se c) f.size.toNat f.dst.toNat) false s (s.core c).se.pc.toNat [0] :=
    ⟨h, (hover _).symm, rfl, rfl⟩
  have hall : s.resolveAll (.se c) (s.bases (.se c) f [0]) f.off f.space n .load = ([0].map (fun l => (l, va, Acc.ok (.dev pa) false)), s) := by
    simp only [State.resolveAll, State.bases, State.base, List.map_cons, List.map_nil, List.foldl_cons, List.foldl_nil, hres, n, va,
      List.nil_append]
  have hlanes : s.loadLanes (.se c) ([0].map (fun l => (l, va, Acc.ok (.dev pa) false))) n =
      ([0].map (fun l => (l, va, Acc.ok (.dev pa) false, Got.bytes bs)), u) := by
    simp only [State.loadLanes, List.map_cons, List.map_nil, List.foldl_cons, List.foldl_nil, loadLane_drawer hq hb hi hlo hhi hp, bs, u, n,
      List.nil_append]
  have hpos : bs ≠ [] := readBytes_ne_nil _ _ _ (Nat.pow_pos (by norm_num))
  have hfound : ∀ l ∈ [0], Found (Got.bytes bs) bs := fun _ _ => .inl ⟨rfl, hpos⟩
  have hend := (loadEnds_lanes (s := u) (s3 := u) (t := .se c) (ls := [0]) (lane := fun l => gotLane (l, va, Acc.ok (.dev pa) false, Got.bytes bs))
    (bs := fun _ => bs) (fun _ _ => rfl) (fun _ _ => rfl) (fun _ _ => rfl) (s.core c).se.pc.toNat f.dst n f.sx false).1
    (fun _ _ => hpos) (pathRead_none (s := u) hpath)
  have hweak : u.isStrong (.dev pa) = false := by simp [State.isStrong, (drawer_class (s := u) hb hlo hhi).1]
  have hissue := loadIssue_go (q := fun _ => Got.bytes bs) (pc := (s.core c).se.pc.toNat) (dst := f.dst) (sx := f.sx) (heldBack_quiet hq) hall
    (fun _ _ => .inl ⟨_, _, rfl⟩) (fun ⟨_, _, g, k, hac, hs⟩ => by cases hac; rw [hweak] at hs; cases hs) hlanes hfound
  rw [execLd, State.memIssue_go hgo (hissue.trans hend)]
  exact congrArg _ (loadResult_se u c f.dst n f.sx bs hoverU)

/-- Settles O18. -/
theorem drawerLoads : Obligations.DrawerLoads := by
  unfold Obligations.DrawerLoads
  constructor
  · intro s t base off z k a n d
    exact ⟨resolve_misaligned s k, fun h hout => resolve_outside s k h hout, fun h hlo hhi => resolve_drawer s k h hlo hhi⟩
  · intro s c f n a pa known v u h hspace hb hal hlo hhi hi hp hloads hbuf hout hpath
    have hpa : drawerBase c ≤ pa ∧ pa < drawerBase c + 0x2_0000 := by omega
    refine (ld_drawer h ⟨hloads, hbuf, hout⟩ hpath hb hi hpa.1 hpa.2 hp (fun k => ?_)).trans ?_
    · rw [hspace]
      exact resolve_drawer s k hal hlo hhi
    · rfl

/-! ## LOAD_RESPONSE -/

theorem scopeCheck_only (s : State) (t : Strm) (scope : Nat) (a : Tgt) (bs : List Byte) (va : Nat) : FrzOnly s (s.scopeCheck t scope a bs va) := by
  unfold State.scopeCheck
  dsimp only
  split
  · exact FrzOnly.ite (State.frieze_only _ _ _ _) (FrzOnly.refl s)
  · exact FrzOnly.refl s

/-- The state after a lane of a load took its bytes at its home. -/
def laneRead (s : State) (c : CoreNum) (e : LoadEntry) (x : LaneAcc) (pa : Nat) : State :=
  let r := (s.homeRead pa e.size).2
  if e.acq then r.scopeCheck (streamOf c e.slot) x.scope.toNat x.tgt (readBytes s.mem s.fresh pa e.size) x.va else r

/-- An uncached lane in its turn at a home in the device's memory takes its bytes. -/
theorem answerLane_memory {s : State} {c : CoreNum} {e : LoadEntry} {x : LaneAcc} {pa : Nat} (hcache : x.cache = false) (hport : x.port ≠ 0)
    (hlands : s.lands c x = true) (htgt : x.tgt = .dev pa) (hm : (s.classOf pa).isMemory = true) (hi : bit s.err.inject 0 = false)
    (hp : s.mem.poisoned pa e.size = false) :
    s.answerLane c e x = (.bytes (readBytes s.mem s.fresh pa e.size), laneRead s c e x pa) := by
  obtain ⟨hbytes, hpoison, -⟩ := homeRead_memory hm hi e.size
  have hread : s.homeRead pa e.size = ((readBytes s.mem s.fresh pa e.size, none), (s.homeRead pa e.size).2) :=
    Prod.ext (Prod.ext hbytes (hpoison.trans (firstPoison_none hp))) rfl
  have hcsr : s.classOf pa ≠ .csr := by intro h; rw [h] at hm; cases hm
  rw [laneRead]
  simp only [State.answerLane, hcache, hport, hlands, htgt, hcsr, Bool.not_true, decide_false, Bool.or_self,
    Bool.false_eq_true, if_false]
  rw [hread]

theorem laneRead_core {s : State} {pa : Nat} (hm : (s.classOf pa).isMemory = true) (hi : bit s.err.inject 0 = false) (c : CoreNum)
    (e : LoadEntry) (x : LaneAcc) : (laneRead s c e x pa).core c = s.core c := by
  obtain ⟨-, -, hframe⟩ := homeRead_memory hm hi e.size
  have hcore : (s.homeRead pa e.size).2.core c = s.core c := by rw [hframe]; rfl
  rw [laneRead]
  split
  · rw [(scopeCheck_only _ _ _ _ _ _).core, hcore]
  · exact hcore

/-- Only a lane that lacks its bytes is answered. -/
theorem answerSteps_done {c : CoreNum} {e : LoadEntry} {xs : List LaneAcc} (h : xs.filter (fun y => y.bytes.isEmpty) = []) (s : State) :
    xs.foldl (State.answerStep c e) s = s := by
  induction xs with
  | nil => rfl
  | cons y xs ih =>
    have hy : y.bytes.isEmpty = false := by
      rw [List.filter_eq_nil_iff] at h
      simpa using h y List.mem_cons_self
    have hstep : State.answerStep c e s y = s := by simp [State.answerStep, hy]
    rw [List.foldl_cons, hstep]
    refine ih ?_
    simpa [hy] using h

theorem answerSteps_one {c : CoreNum} {e : LoadEntry} {xs : List LaneAcc} {x : LaneAcc} (h : xs.filter (fun y => y.bytes.isEmpty) = [x])
    (s : State) : xs.foldl (State.answerStep c e) s = State.answerStep c e s x := by
  induction xs with
  | nil => cases h
  | cons y xs ih =>
    by_cases hy : y.bytes.isEmpty = true
    · rw [List.filter_cons, if_pos hy] at h
      obtain ⟨rfl, hrest⟩ := List.cons.inj h
      rw [List.foldl_cons, answerSteps_done hrest]
    · have hstep : State.answerStep c e s y = s := by simp [State.answerStep, hy]
      rw [List.filter_cons, if_neg hy] at h
      rw [List.foldl_cons, hstep, ih h]

/-- The entry of an identifier among loads that were changed under that identifier. -/
theorem find_updLoad {ls : List LoadEntry} {e : LoadEntry} (he : e ∈ ls) (huniq : ∀ z ∈ ls, z.id = e.id → z = e) {f : LoadEntry → LoadEntry}
    (hf : ∀ z, (f z).id = z.id) : (ls.map (fun z => if z.id = e.id then f z else z)).find? (fun z => z.id == e.id) = some (f e) := by
  have hid (z : LoadEntry) : (if z.id = e.id then f z else z).id = z.id := by
    split
    · exact hf z
    · rfl
  rw [List.find?_map]
  simp only [Function.comp_def, hid]
  have hfind : ls.find? (fun z => z.id == e.id) = some e := by
    cases hfd : ls.find? (fun z => z.id == e.id) with
    | none => exact absurd (List.find?_eq_none.mp hfd e he) (by simp)
    | some z => rw [huniq z (List.mem_of_find?_eq_some hfd) (by simpa using List.find?_some hfd)]
  rw [hfind, Option.map_some, if_pos rfl]

/-- A load none of whose lanes raised an exception does not end with one. -/
theorem answered_bad {e : LoadEntry} (h : ∀ y ∈ e.lanes, y.bad = none) (lane : Nat) (bs : List Byte) : ∀ y ∈ (e.answered lane bs).lanes, y.bad = none := by
  intro y hy
  obtain ⟨z, hz, rfl⟩ := List.mem_map.mp hy
  split <;> exact h z hz

/-- Settles O23: the lane is answered, its entry found again, and no exception ends it. -/
theorem loadResponse : Obligations.LoadResponse := by
  unfold Obligations.LoadResponse
  intro s c idx e x pa hidx huniq hdrains hatom hone hbad hcache hport hlands htgt hm hheld hp hi bs r u
  have hu : u = laneRead s c e x pa := rfl
  have hx : x ∈ e.lanes ∧ x.bytes = [] := by
    have hmem : x ∈ e.lanes.filter (fun y => y.bytes.isEmpty) := by rw [hone]; exact List.mem_cons_self
    exact ⟨(List.mem_filter.mp hmem).1, by simpa using (List.mem_filter.mp hmem).2⟩
  obtain ⟨hxmem, hxbytes⟩ := hx
  have hwaits : e.lanes.filter (fun y => !y.cache && y.bytes.isEmpty) = [x] := by
    have hsplit := List.filter_filter (p := fun y : LaneAcc => !y.cache) (q := fun y => y.bytes.isEmpty) (l := e.lanes)
    rw [← hsplit, hone]
    simp [hcache]
  have hlines : (e.lanes.filter (fun y => !y.cache && y.bytes.isEmpty)).flatMap (s.laneHeld e.size false) = [] := by
    rw [hwaits]
    simp [State.laneHeld, htgt, hheld]
  have hflit : s.meshFlit = s := meshFlit_unarmed (by simp [State.armed, hi])
  have hstep : State.answerStep c e s x = u.updLoad c e.id (fun e => e.answered x.lane bs) := by
    simp only [State.answerStep, hxbytes, hbad x hxmem, hatom, answerLane_memory hcache hport hlands htgt hm hi hp]
    rfl
  have hfind : ((u.updLoad c e.id (fun e => e.answered x.lane bs)).core c).loads.find? (fun z => z.id == e.id) = some (e.answered x.lane bs) := by
    rw [State.updLoad, State.core_updCore_same, hu, laneRead_core hm hi]
    exact find_updLoad (List.mem_of_getElem? hidx) huniq (fun _ => rfl)
  have hend := ended_noFault (answered_bad hbad x.lane bs)
  rw [exec_loadResponse]
  simp only [execLoadResponse, hidx, hdrains, hlines, hflit, answerSteps_one hone, hstep, hfind, Bool.not_true, Bool.false_eq_true, if_false,
    List.isEmpty_nil]
  cases hcase : ended (e.answered x.lane bs).lanes with
  | fault l code d => rw [hcase] at hend; cases hend
  | bytes => rfl
  | no => rfl

end Sys2Proof.Proofs
end

section
/-! SUPPORT. Atomics as they issue (12_atomics_and_sync.md R309 to R318): the words of the lanes, each performed as one merged operation. -/

namespace Sys2Proof.Proofs

open Sys2Proof Sys2Proof.Machine

/-! ## Lanes and words -/

theorem atomLanes_ok (ls : List Nat) (va : Nat → Nat) (tg : Nat → Tgt) (ca : Nat → Bool) :
    (okAccs ls va tg ca).filterMap atomLane = ls.map (fun l => (l, va l, tg l)) := by
  rw [okAccs, List.filterMap_map, ← List.filterMap_eq_map]
  rfl

/-- One lane more among the words. -/
def wordStep (ws : List (Tgt × List Nat)) (l : Nat × Tgt) : List (Tgt × List Nat) :=
  if ws.any (fun w => w.1 == l.2) then ws.map (fun w => if w.1 = l.2 then (w.1, w.2 ++ [l.1]) else w) else ws ++ [(l.2, [l.1])]

theorem wordStep_tgt {ws : List (Tgt × List Nat)} {y : Nat × Tgt} {v : Tgt × List Nat} (hv : v ∈ wordStep ws y) :
    (∃ u ∈ ws, u.1 = v.1) ∨ y.2 = v.1 := by
  rw [wordStep] at hv
  split at hv
  · obtain ⟨u, hu, rfl⟩ := List.mem_map.mp hv
    exact .inl ⟨u, hu, by split <;> rfl⟩
  · rcases List.mem_append.mp hv with hv | hv
    · exact .inl ⟨v, hv, rfl⟩
    · rw [List.mem_singleton] at hv
      exact .inr (by rw [hv])

theorem wordSteps_tgt {ys : List (Nat × Tgt)} {ws : List (Tgt × List Nat)} {w : Tgt × List Nat} (hw : w ∈ ys.foldl wordStep ws) :
    (∃ v ∈ ws, v.1 = w.1) ∨ ∃ x ∈ ys, x.2 = w.1 := by
  induction ys generalizing ws with
  | nil => exact .inl ⟨w, hw, rfl⟩
  | cons y ys ih =>
    rcases ih hw with ⟨v, hv, hvw⟩ | ⟨x, hx, hxw⟩
    · rcases wordStep_tgt hv with ⟨u, hu, huv⟩ | hy
      · exact .inl ⟨u, hu, huv.trans hvw⟩
      · exact .inr ⟨y, List.mem_cons_self, hy.trans hvw⟩
    · exact .inr ⟨x, List.mem_cons_of_mem _ hx, hxw⟩

/-- Every word of some lanes is the target of one of them. -/
theorem byWord_tgt {xs : List (Nat × Tgt)} {w : Tgt × List Nat} (hw : w ∈ byWord xs) : ∃ x ∈ xs, x.2 = w.1 := by
  rcases wordSteps_tgt (ws := []) hw with ⟨v, hv, -⟩ | h
  · cases hv
  · exact h

/-- Words of this device's memory are none of another device. -/
theorem words_near (ls : List Nat) (pa : Nat → Nat) (operand expected : Nat → W64) :
    let ws := (byWord (ls.map (fun l => (l, Tgt.dev (pa l))))).map (wordOps operand expected)
    ws.filter (fun w => !tgtFar w.tgt) = ws ∧ ws.filter (fun w => tgtFar w.tgt) = [] := by
  intro ws
  have hnear : ∀ w ∈ ws, tgtFar w.tgt = false := by
    intro w hw
    obtain ⟨v, hv, rfl⟩ := List.mem_map.mp hw
    obtain ⟨x, hx, hxv⟩ := byWord_tgt hv
    obtain ⟨l, -, rfl⟩ := List.mem_map.mp hx
    change tgtFar v.1 = false
    rw [← hxv]
    rfl
  exact ⟨List.filter_eq_self.mpr (fun w hw => by rw [hnear w hw]; rfl),
    List.filter_eq_nil_iff.mpr (fun w hw => by rw [hnear w hw]; exact Bool.false_ne_true)⟩

/-- The merged operation of a word, from the operands as numbers. -/
theorem atomWord_eq (s : State) (t : Strm) (fn n : Nat) (operand expected : Nat → W64) (done : List (Nat × List Byte)) (w : Tgt × List Nat) :
    s.atomWord t fn n done (wordOps operand expected w) =
      s.atomHome t fn n (fun l => ((operand l).toNat % 2 ^ (8 * n), (expected l).toNat % 2 ^ (8 * n))) done w := by
  simp only [State.atomWord, State.atomHome, wordOps, List.map_map, List.zip_map_left, Function.comp_def]
  rfl

theorem injectTgts_unarmed {s : State} (h : bit s.err.inject 0 = false) (n : Nat) (xs : List (Nat × Nat × Tgt)) :
    xs.foldl (fun s l => s.injectTgt l.2.2 n) s = s := by
  induction xs with
  | nil => rfl
  | cons x xs ih =>
    have hx : s.injectTgt x.2.2 n = s := by
      cases htgt : x.2.2 with
      | dev pa => exact inject_unarmed h pa n
      | remote d pa => rfl
      | host pa => rfl
    rw [List.foldl_cons, hx, ih]

/-! ## An ATOM -/

/-- What the accesses of an ATOM meet when each word of it can be performed at this device's memory now. -/
structure AtomReady (s : State) (c : CoreNum) (sl : Option (BitVec 5)) (n pa : Nat) : Prop where
  weak : s.isStrong (.dev pa) = false
  sound : s.mem.poisoned pa n = false
  alone : s.ownStores c sl (.dev pa) n = false
  uncached : s.uncachedNow c (.dev pa) = true
  reached : s.reaches c (.dev pa) = true

/-- An ATOM on words of this device's memory, all of which can be performed. -/
theorem atomIssue_go {s0 s1 s2 : State} {t : Strm} {pc : Nat} {bases : List (Nat × W64)} {operand expected : Nat → W64} {size : Nat} {dst : Byte}
    {off : BitVec 16} {ls : List Nat} {va pa : Nat → Nat} {ca : Nat → Bool} (fn : Nat)
    (hheld : s0.heldBack (strmCore t) (strmSlot t) = false) (hroom : s0.bufferRoom (strmCore t) (strmSlot t) = true)
    (hres : s0.resolveAll t bases off false (2 ^ size) .atomic = (okAccs ls va (fun l => .dev (pa l)) ca, s1))
    (hshut : (ls.map (fun l => Tgt.dev (pa l))).filter (fun x => !s1.uncachedNow (strmCore t) x) ≠ [] → (s1.core (strmCore t)).dc.shut = false)
    (hlines : ∀ l ∈ ls, s1.linesHeld (pa l) (2 ^ size) true = [])
    (hs2 : ((ls.map (fun l => Tgt.dev (pa l))).filter (fun x => !s1.uncachedNow (strmCore t) x)).foldl
      (fun u x => u.bypassFor (strmCore t) (strmVe t) x) s1 = s2) (hi : bit s2.err.inject 0 = false)
    (hready : ∀ l ∈ ls, AtomReady s2 (strmCore t) (strmSlot t) (2 ^ size) (pa l)) :
    let words := (byWord (ls.map (fun l => (l, Tgt.dev (pa l))))).foldl (fun (r : List (Nat × List Byte) × State) w => r.2.atomHome t fn (2 ^ size)
      (fun l => ((operand l).toNat % 2 ^ (8 * 2 ^ size), (expected l).toNat % 2 ^ (8 * 2 ^ size))) r.1 w) ([], s2)
    s0.atomIssue t pc bases operand expected fn size dst off =
      some ((words.2.loadResult (strmCore t) (strmSlot t) (some dst) (2 ^ size) false words.1).strmNext t ls) := by
  intro words
  have hall (p : Tgt → Bool) (h : ∀ l ∈ ls, p (.dev (pa l)) = false) : (ls.map (fun l => Tgt.dev (pa l))).any p = false := by
    rw [List.any_eq_false]
    intro x hx
    obtain ⟨l, hl, rfl⟩ := List.mem_map.mp hx
    rw [h l hl]
    exact Bool.false_ne_true
  have hshut' : (!((ls.map (fun l => Tgt.dev (pa l))).filter (fun x => !s1.uncachedNow (strmCore t) x)).isEmpty &&
      (s1.core (strmCore t)).dc.shut) = false := by
    by_cases h : (ls.map (fun l => Tgt.dev (pa l))).filter (fun x => !s1.uncachedNow (strmCore t) x) = []
    · rw [h]; rfl
    · rw [hshut h, Bool.and_false]
  have hheldLines : s1.heldLines (ls.map (fun l => Tgt.dev (pa l))) (2 ^ size) true = [] := by
    rw [State.heldLines, List.flatMap_eq_nil_iff]
    intro x hx
    obtain ⟨l, hl, rfl⟩ := List.mem_map.mp hx
    exact hlines l hl
  have hfault : (okAccs ls va (fun l => .dev (pa l)) ca).findSome? (s2.atomFault (2 ^ size)) = none := by
    rw [List.findSome?_eq_none_iff]
    intro a ha
    obtain ⟨l, hl, rfl⟩ := List.mem_map.mp ha
    simp [State.atomFault, (hready l hl).sound]
  have hstrong : ((okAccs ls va (fun l => .dev (pa l)) ca).any s2.accStrong && s2.storesPending (strmCore t) (strmSlot t)) = false :=
    strongWait_false (ac := fun l => .ok (.dev (pa l)) (ca l)) (fun ⟨l, hl, g, k, hac, hs⟩ => by
      cases hac
      rw [(hready l hl).weak] at hs
      cases hs)
  have hlen : (ls.map (fun l => (l, va l, Tgt.dev (pa l)))).length = (okAccs ls va (fun l => .dev (pa l)) ca).length := by simp [okAccs]
  have hown := hall (fun x => s2.ownStores (strmCore t) (strmSlot t) x (2 ^ size)) (fun l hl => (hready l hl).alone)
  have hunc := hall (fun x => !s2.uncachedNow (strmCore t) x) (fun l hl => by rw [(hready l hl).uncached]; rfl)
  have hreach := hall (fun x => !tgtFar x && !s2.reaches (strmCore t) x) (fun l hl => by rw [(hready l hl).reached]; rfl)
  obtain ⟨hnear, hfar⟩ := words_near ls pa operand expected
  simp only [State.atomIssue, hheld, hroom, hres, atomLanes_ok, List.map_map, Function.comp_def, hshut', hheldLines, hs2, injectTgts_unarmed hi,
    hfault, hlen, hstrong, hown, hunc, hreach, hnear, hfar, List.isEmpty_nil, bne_self_eq_false, Bool.not_true, Bool.or_self, Bool.false_eq_true,
    if_false, if_true, List.foldl_map, atomWord_eq, List.map_id']
  rfl

/-- One of the eleven ATOMs. -/
theorem atom_go {s s0 : State} {t : Strm} {f : MFmt} {pc : Nat} {ls : List Nat} {fn : Nat}
    (h : s.StrmGo t (encM 0x24 fn f) (addrReads t f ++ dataReads t f.size.toNat f.src2.toNat ++
      (if fn = 9 then dataReads t f.size.toNat f.dst.toNat else [])) (dataRegs t f.size.toNat f.dst.toNat) true s0 pc ls) {u : State}
    (hb : s0.atomIssue t pc (s0.bases t f ls) (fun l => s0.operand t l f.size.toNat f.src2) (fun l => s0.operand t l f.size.toNat f.dst) fn
      f.size.toNat f.dst f.off = some u) : s.atom t fn f = .next (u.counted t ls) := by
  rw [State.atom]
  exact State.memIssue_go h hb

/-- Settles O26: each FN is the one issue of atomics. -/
theorem atomicsAtHome : Obligations.AtomicsAtHome := by
  unfold Obligations.AtomicsAtHome
  intro s s0 s1 t f pc ls va pa ca c sl z n num as go ops cached s2 words out hheld hroom hres hshut hlines hi hready
  have hissue (fn : Nat) := atomIssue_go (pc := pc) (operand := fun l => s0.operand t l z f.src2) (expected := fun l => s0.operand t l z f.dst)
    (dst := f.dst) fn hheld hroom hres hshut hlines rfl hi (fun l hl => by
      obtain ⟨h1, h2, h3, h4, h5⟩ := hready l hl
      exact ⟨h1, h2, h3, h4, h5⟩)
  have hout (fn : Nat) (h : go fn (if fn = 9 then dataReads t z f.dst.toNat else [])) : s.atom t fn f = out fn := atom_go h (hissue fn)
  exact ⟨hout 0, hout 1, hout 2, hout 3, hout 4, hout 5, hout 6, hout 7, hout 8, hout 9, hout 10⟩

end Sys2Proof.Proofs
end

section
/-! SUPPORT. Ordering, cache maintenance and hints (11_ordering.md R288, R305, 05_instruction_set.md R565, 10_memory_tiers.md R272, R273). -/

namespace Sys2Proof.Proofs

open Sys2Proof Sys2Proof.Machine

/-! ## ORD -/

/-- ORD.S (fn 1) and ORD.LS (fn 2) behind every store and write-back. -/
theorem ordStore_go {s s0 u : State} {t : Strm} {f : MFmt} {pc : Nat} {ls : List Nat} {fn : Nat}
    (h : s.StrmGo t (encM 0x25 fn f) [] [] (fn == 2) s0 pc ls) (hst : s0.storesPending (strmCore t) (strmSlot t) = false)
    (hbacks : s0.backsPending (strmCore t) = false)
    (hb : (match s0.lostOf t ls with
      | some a => (s0.clearLost t ls).strmFault t (s0.lostLane t ls) pc 0x08 (a &&& mask 0 62)
      | none => some (s0.strmNext t ls)) = some u) : s.ordStore t fn f = .next (u.counted t ls) := by
  rw [State.ordStore]
  refine State.memIssue_go h ?_
  dsimp only
  rw [hst, hbacks, if_neg (by decide)]
  exact hb

theorem ordStore_kept {s s0 : State} {t : Strm} {f : MFmt} {pc : Nat} {ls : List Nat} {fn : Nat}
    (h : s.StrmGo t (encM 0x25 fn f) [] [] (fn == 2) s0 pc ls)
    (hclear : s0.storesPending (strmCore t) (strmSlot t) = false ∧ s0.backsPending (strmCore t) = false) (hlost : s0.lostOf t ls = none) :
    s.ordStore t fn f = .next ((s0.strmNext t ls).counted t ls) :=
  ordStore_go h hclear.1 hclear.2 (by rw [hlost])

theorem ordStore_lost {s s0 u : State} {t : Strm} {f : MFmt} {pc : Nat} {ls : List Nat} {fn : Nat} {a : W64}
    (h : s.StrmGo t (encM 0x25 fn f) [] [] (fn == 2) s0 pc ls)
    (hclear : s0.storesPending (strmCore t) (strmSlot t) = false ∧ s0.backsPending (strmCore t) = false) (hlost : s0.lostOf t ls = some a)
    (hfault : (s0.clearLost t ls).strmFault t (s0.lostLane t ls) pc 0x08 (a &&& mask 0 62) = some u) :
    s.ordStore t fn f = .next (u.counted t ls) :=
  ordStore_go h hclear.1 hclear.2 (by rw [hlost]; exact hfault)

/-! ## Cache operations -/

/-- What a cache operation leaves once it is over: lines of the instruction cache dropped, or of the data cache written back (CWB), dropped
(CINV), or both. -/
def cacheAct (s : State) (c : CoreNum) (isVe : Bool) (fn : Nat) (icache : Bool) (p : Nat → Bool) : State :=
  if icache then s.updCore c (fun k => { k with ic := { k.ic with lines := k.ic.lines.filter (fun x => !p x.2.addr), loose := none } })
  else match fn with
    | 0 => s.cleanLines c (.engine isVe) p
    | 1 => s.dropLines c p
    | _ => (s.cleanLines c (.engine isVe) p).dropLines c p

theorem cacheDo_over {s : State} {c : CoreNum} {isVe icache : Bool} {fn : Nat} {p : Nat → Bool}
    (h : icache = true ∨ fn = 1 ∨ (s.cleanLines c (.engine isVe) p).cleaned c (.engine isVe) p = true) :
    s.cacheDo c isVe fn icache p = (true, cacheAct s c isVe fn icache p) := by
  rw [State.cacheDo]
  cases icache with
  | true => rfl
  | false =>
    rcases fn with _ | _ | fn
    · have hclean := (h.resolve_left (by decide)).resolve_left (by decide)
      simp [hclean, cacheAct]
    · rfl
    · have hclean := (h.resolve_left (by decide)).resolve_left (by omega)
      simp [hclean, cacheAct]

/-- The registers that a cache operation reads, by its SIZE. -/
def cacheReads (t : Strm) (f : MFmt) : List (Nat × Nat) :=
  if f.size == 2 then [] else addrReads t { f with space := false } ++ (if f.size == 1 then [(fileOf t, f.src2.toNat)] else [])

theorem cacheOp_go {s s0 u : State} {t : Strm} {f : MFmt} {pc : Nat} {ls : List Nat} {fn : Nat} {p : Nat → Bool}
    (h : s.StrmGo t (encM 0x26 fn f) (cacheReads t f) [] true s0 pc ls) (hshut : (s0.core (strmCore t)).dc.shut = false)
    (hbuf : ∀ e ∈ (s0.core (strmCore t)).buffer (strmSlot t), e.slot ≠ strmSlot t) (hlines : s0.cacheLines t fn f ls = (.ok p, u))
    (hover : f.sx = true ∨ fn = 1 ∨ (u.cleanLines (strmCore t) (.engine (strmVe t)) p).cleaned (strmCore t) (.engine (strmVe t)) p = true) :
    s.cacheOp t fn f = .next (((cacheAct u (strmCore t) (strmVe t) fn f.sx p).strmNext t ls).counted t ls) := by
  have hnone : ((s0.core (strmCore t)).buffer (strmSlot t)).any (fun e => e.slot == strmSlot t) = false := by
    rw [List.any_eq_false]
    intro e he
    simpa using hbuf e he
  rw [State.cacheOp]
  refine State.memIssue_go h ?_
  simp only [hshut, hnone, Bool.or_self, Bool.false_eq_true, if_false, hlines, cacheDo_over hover]

theorem cacheLines_whole {f : MFmt} (h : f.size = 2) (s : State) (t : Strm) (fn : Nat) (ls : List Nat) :
    s.cacheLines t fn f ls = (.ok (fun _ => true), s) := by
  simp [State.cacheLines, h]

theorem cacheLines_lanes {s u : State} {t : Strm} {fn : Nat} {f : MFmt} {ls : List Nat} {rs : List (Nat × Nat)} (h : f.size = 0)
    (hlanes : s.laneLines (strmCore t) (cacheKind fn f.sx) f.sx
      (ls.map (fun l => (l, (s.base t l false f.src1 + f.off.signExtend 64).toNat))) = (.ok rs, u)) :
    s.cacheLines t fn f ls = (.ok (inRanges rs), u) := by
  simp only [State.cacheLines, h, hlanes]
  rfl

theorem cacheLines_range {s u : State} {t : Strm} {fn : Nat} {f : MFmt} {ls : List Nat} {rs : List (Nat × Nat)} (h : f.size = 1)
    (hrange : s.rangeLines (strmCore t) (cacheKind fn f.sx) f.sx ((s.operand t (ls.headD 0) 2 f.src2).toNat / 0x1_0000 + 2)
      (s.base t (ls.headD 0) false f.src1 + f.off.signExtend 64).toNat (s.operand t (ls.headD 0) 2 f.src2).toNat [] none = (.ok rs, u)) :
    s.cacheLines t fn f ls = (.ok (inRanges rs), u) := by
  simp only [State.cacheLines, h, hrange]
  rfl

/-- Settles O27: the orderings wait for what they name, and a cache operation acts on the lines that its SIZE gives. -/
theorem orderingAndCacheOperations : Obligations.OrderingAndCacheOperations := by
  unfold Obligations.OrderingAndCacheOperations
  constructor
  · intro s s0 t f pc ls c on go clear
    refine ⟨fun h => ?_, fun h => ordStore_kept (fn := 1) h, fun h => ordStore_kept (fn := 2) h, fun a u hclear hlost hfault =>
      ⟨fun h => ordStore_lost (fn := 1) h hclear hlost hfault, fun h => ordStore_lost (fn := 2) h hclear hlost hfault⟩⟩
    rw [exec_ordL, execOrdL]
    exact State.memIssue_go h rfl
  · intro s s0 t f pc ls c ad va n go fin w finished act ran lines range rd hshut hbuf
    have hran (fn : Nat) (p : Nat → Bool) (u : State) (hlines : s0.cacheLines t fn f ls = (.ok p, u)) (h : go fn (cacheReads t f))
        (hover : finished fn p u) : s.cacheOp t fn f = fin (cacheAct u c (strmVe t) fn f.sx p) := cacheOp_go h hshut hbuf hlines hover
    have h2 (hz : f.size = 2) : cacheReads t f = [] := by simp [cacheReads, hz]
    have h0 (hz : f.size = 0) : cacheReads t f = ad := by simp [cacheReads, hz, ad]
    have h1 (hz : f.size = 1) : cacheReads t f = rd := by simp [cacheReads, hz, rd, ad]
    refine ⟨fun hz => ?_, fun hz rs u => ?_, fun hz rs u => ?_⟩
    · have hgo (fn : Nat) (h : go fn []) := hran fn _ s0 (cacheLines_whole hz s0 t fn ls) (by rw [h2 hz]; exact h)
      exact ⟨hgo 0, hgo 1, hgo 2⟩
    · have hgo (fn : Nat) (hl : lines fn rs u) (h : go fn ad) := hran fn _ u (cacheLines_lanes hz hl) (by rw [h0 hz]; exact h)
      exact ⟨hgo 0, hgo 1, hgo 2⟩
    · have hgo (fn : Nat) (hl : range fn rs u) (h : go fn rd) := hran fn _ u (cacheLines_range hz hl) (by rw [h1 hz]; exact h)
      exact ⟨hgo 0, hgo 1, hgo 2⟩

/-! ## Hints -/

/-- A hint joins the niche's queue while that holds fewer than 256, else it is dropped and counted. -/
theorem hint_go {s s0 : State} {t : Strm} {f : MFmt} {pc : Nat} {ls : List Nat} (fn : BitVec 5)
    (h : s.StrmGo t (encM 0x27 fn.toNat f) (addrReads t f ++ [(fileOf t, f.src2.toNat)]) [] true s0 pc ls) :
    let o := s0.ownerNiche (strmCore t)
    let x : Hint := { fn := fn, va := (s0.base t (ls.headD 0) false f.src1 + f.off.signExtend 64).toNat,
                      len := (s0.operand t (ls.headD 0) 2 f.src2).toNat, region := regionOf (strmCore t) }
    s.hint t fn.toNat f = .next (((if (s0.niche o).hints.length < 256 then s0.updNiche o (fun y => { y with hints := y.hints ++ [x] })
      else { s0 with place := { s0.place with hintsDropped := satAdd s0.place.hintsDropped 1 } }).strmNext t ls).counted t ls) := by
  intro o x
  have hfn : BitVec.ofNat 5 fn.toNat = fn := BitVec.ofNat_toNat 5 fn |>.trans (BitVec.setWidth_eq fn)
  rw [State.hint]
  refine State.memIssue_go h ?_
  dsimp only
  rw [hfn]
  by_cases hlen : (s0.niche o).hints.length < 256
  · rw [if_pos hlen, if_neg (Nat.not_le.mpr hlen)]
  · rw [if_neg hlen, if_pos (Nat.le_of_not_lt hlen)]

/-- HINT_PROCESS of a queue that holds a hint. -/
theorem hintProcess_go {s : State} {n : NicheNum} {x : Hint} {xs : List Hint} (h : (s.niche n).hints = x :: xs) :
    let u := s.updNiche n (fun y => { y with hints := xs })
    let vas := u.hintVas n (x.va + x.len) (x.len / 0x1_0000 + 2) x.va
    execHintProcess n s = .next (if !(u.walk n x.va).isLeaf then u
      else if x.fn == 8 && decide (fld (u.niche n).nplControl 4 20 < (u.niche n).pinned.toNat + u.pinUnits n vas) then
        u.updNiche n (fun y => { y with pinRefused := satAdd y.pinRefused 1 })
      else vas.foldl (fun u va => u.hintPage n x.fn.toNat va x.region) u) := by
  intro u vas
  simp only [execHintProcess, h, u, vas]

/-- Settles O28. -/
theorem hints : Obligations.Hints := by
  unfold Obligations.Hints
  intro s s0 t f pc ls n c o h put go out
  refine ⟨hint_go 0, hint_go 1, hint_go 2, hint_go 3, hint_go 4, hint_go 5, hint_go 6, hint_go 7, hint_go 8, hint_go 9, hint_go 10, ?_⟩
  intro x xs hx u vas tooMany
  have hmany : (x.fn == 8 && decide (fld (u.niche n).nplControl 4 20 < (u.niche n).pinned.toNat + u.pinUnits n vas)) = true ↔ tooMany := by
    simp only [Bool.and_eq_true, beq_iff_eq, decide_eq_true_eq, tooMany]
  rw [exec_hintProcess, hintProcess_go hx]
  refine ⟨fun hleaf => ?_, fun hleaf hm => ?_, fun hleaf hm => ?_⟩
  · rw [hleaf, Bool.not_false, if_pos rfl]
  · rw [hleaf, Bool.not_true, if_neg Bool.false_ne_true, if_pos (hmany.mpr hm)]
  · rw [hleaf, Bool.not_true, if_neg Bool.false_ne_true, if_neg (mt hmany.mp hm)]

end Sys2Proof.Proofs
end

section
/-! SUPPORT. Quantising instructions (07_narrow_arithmetic.md R182 to R187). -/

namespace Sys2Proof.Proofs

open Sys2Proof Sys2Proof.Machine

/-- What quantising gives does not depend on the groups, nor on the accesses outstanding. -/
theorem quantLanes_enter (s : State) (g : VeAt) (x z : Group) (f : RFmt) (act regs : List Nat) :
    ((s.over g act regs).setGroup g.core g.slot.toNat z).quantLanes g x f act = s.quantLanes g x f act := by
  unfold State.quantLanes
  refine List.map_congr_left (fun l _ => ?_)
  rw [State.laneMode_setGroup, State.laneMode_over]

/-- A list of lanes, each with its result: looking a lane up gives its result. -/
theorem find_lane {α : Type} (F : Nat → α) {act : List Nat} {l : Nat} (hl : l ∈ act) :
    (act.map (fun l => (l, F l))).find? (fun q => q.1 == l) = some (l, F l) := by
  induction act with
  | nil => exact absurd hl List.not_mem_nil
  | cons a act ih =>
    rw [List.map_cons, List.find?_cons]
    by_cases ha : a = l
    · subst ha
      simp
    · rw [beq_false_of_ne ha]
      exact ih ((List.mem_cons.mp hl).resolve_left (Ne.symm ha))

/-- The code that a lane's quantising gives. -/
def quantCode (qs : List (Nat × Quantised)) (l : Nat) : Nat := ((qs.find? (fun q => q.1 == l)).map (·.2.code)).getD 0

/-- The codes written lane by lane from the results are those looked up by lane. -/
theorem write_codes (s : State) (g : VeAt) (x : Group) (f : RFmt) (act : List Nat) (d : Nat) :
    (s.quantLanes g x f act).foldl (fun y q => y.setReg q.1 d (BitVec.ofNat 32 q.2.code)) x =
      x.writeLanes act d (fun l => BitVec.ofNat 32 (quantCode (s.quantLanes g x f act) l)) := by
  unfold Group.writeLanes quantCode State.quantLanes
  rw [List.foldl_map]
  refine List.foldl_ext _ _ _ (fun y l hl => ?_)
  exact congrArg (fun o => y.setReg l d (BitVec.ofNat 32 ((o.map (fun q : Nat × Quantised => q.2.code)).getD 0))) 
    (find_lane (fun l => quantise f.fmt.toNat f.fmt2.toNat (scaleOf x f act) (s.laneMode g.core x f l 0)
      (x.num l f.src1 % 2 ^ fmtWidth f.fmt2.toNat)) hl).symm

/-- Taking a place in the order of accesses touches no core. -/
theorem takeOrder_updCore (s : State) (c : CoreNum) (F : Core → Core) : (s.updCore c F).takeOrder.2 = s.takeOrder.2.updCore c F := rfl

theorem cyclesOf_takeOrder (s : State) (c : CoreNum) : s.takeOrder.2.cyclesOf c = s.cyclesOf c := rfl

theorem order_updCore (s : State) (c : CoreNum) (F : Core → Core) : (s.updCore c F).order = s.order := rfl

/-- The state in which the VE's store buffer has taken an entry of a group. -/
def entered (u : State) (g : VeAt) (pc gid : Nat) (stat : Option (Nat × List Nat)) (lanes : List LaneAcc) : State :=
  u.takeOrder.2.updCore g.core (fun k => { k with ve := { k.ve with buffer := k.ve.buffer ++
    [{ slot := some g.slot, pc := BitVec.ofNat 64 pc, gid := gid, num := u.order, lanes := lanes, all := true, stat := stat }] } })

/-- The group's flags raised, its lanes on, the instruction counted. -/
theorem flags_next_issued (s : State) (g : VeAt) (x y : Group) (fl : Byte) (act : List Nat) :
    ((((s.setGroup g.core g.slot.toNat x).veFlags g.core fl).veNext g y act).veIssued g act.length) = s.veDone g (y.advance act) fl act.length := by
  simp only [State.veIssued, State.veNext, State.veFlags, State.setGroup, State.selfAdd, State.updCore_updCore, State.veDone, State.cyclesOf_updCore]
  exact updCore_congr (by simp [Sparse.put_put])

/-- An entry of a group put into the store buffer before the instruction is counted. -/
theorem bufferPut_veIssued (s : State) (g : VeAt) (z : Group) (pc n : Nat) (stat : Option (Nat × List Nat)) (lanes : List LaneAcc) :
    ((s.setGroup g.core g.slot.toNat z).bufferPut (.ve g) pc { slot := none, lanes := lanes, all := true, stat := stat }).veIssued g n =
      entered ((s.setGroup g.core g.slot.toNat z).veIssued g n) g pc z.seed stat lanes := by
  have hgid : (s.setGroup g.core g.slot.toNat z).gidOf (.ve g) = z.seed := by
    simp only [State.gidOf, State.group, State.setGroup, State.core_updCore_same, Sparse.find_put_same]
  unfold State.bufferPut
  rw [hgid]
  generalize s.setGroup g.core g.slot.toNat z = u
  change (entered u g pc z.seed stat lanes).veIssued g n = _
  simp only [entered, State.veIssued, State.selfAdd, takeOrder_updCore, State.updCore_updCore, State.cyclesOf_updCore, cyclesOf_takeOrder,
    order_updCore]

/-- Neither rounding randomly nor going on changes the seed of a group. -/
theorem quant_enter {s : State} {g : VeAt} {x y : Group} {fl : Byte} {pc : Nat} {act : List Nat} (stat : Option (Nat × List Nat))
    (lanes : List LaneAcc) :
    ((((s.setGroup g.core g.slot.toNat x).veFlags g.core fl).veNext g y act).bufferPut (.ve g) pc
      { slot := none, lanes := lanes, all := true, stat := stat }).veIssued g act.length =
      entered (s.veDone g (y.advance act) fl act.length) g pc (y.advance act).seed stat lanes := by
  rw [← flags_next_issued s g x y fl act]
  exact bufferPut_veIssued _ g (y.advance act) pc act.length stat lanes

theorem qcvt_plain {s : State} {g : VeAt} {f : RFmt} {x : Group} {pc : Nat} {act : List Nat}
    (h : s.VeGo g (encR 0x38 0 f) (qReads f false) [f.dst.toNat] false x pc act) (hrec : x.num (act.headD 0) f.src3 = 0xFFFF_FFFF) :
    let qs := s.quantLanes g x f act
    execQcvt g f s = .next ((s.over g act [f.dst.toNat]).veDone g (((x.writeLanes act f.dst.toNat
      (fun l => BitVec.ofNat 32 (quantCode qs l))).srAdvance act f 1).advance act) (quantFlags qs) act.length) := by
  intro qs
  rw [execQcvt]
  refine (State.veIssue_go h (t := (((s.over g act [f.dst.toNat]).setGroup g.core g.slot.toNat x).veFlags g.core (quantFlags qs)).veNext g
    ((x.writeLanes act f.dst.toNat (fun l => BitVec.ofNat 32 (quantCode qs l))).srAdvance act f 1) act) ?_).trans ?_
  · simp only [hrec, recordFault, statPart, quantLanes_enter, write_codes, if_true, ne_eq, not_true_eq_false, false_and, if_false, qs]
  · rw [flags_next_issued]

theorem qcvt_record {s : State} {g : VeAt} {f : RFmt} {x : Group} {pc : Nat} {act : List Nat}
    (h : s.VeGo g (encR 0x38 0 f) (qReads f false) [f.dst.toNat] false x pc act) (hrec : x.num (act.headD 0) f.src3 ≠ 0xFFFF_FFFF)
    (hok : recordFault (x.num (act.headD 0) f.src3) = none)
    (hheld : ((s.over g act [f.dst.toNat]).setGroup g.core g.slot.toNat x).heldBack g.core (some g.slot) = false)
    (hroom : ((s.over g act [f.dst.toNat]).setGroup g.core g.slot.toNat x).bufferRoom g.core (some g.slot) = true) :
    let qs := s.quantLanes g x f act
    let y := ((x.writeLanes act f.dst.toNat (fun l => BitVec.ofNat 32 (quantCode qs l))).srAdvance act f 1).advance act
    execQcvt g f s = .next (entered ((s.over g act [f.dst.toNat]).veDone g y (quantFlags qs) act.length) g pc y.seed
      (some (x.num (act.headD 0) f.src3, statAdds f.fmt.toNat (scaleOf x f act) (qs.map (·.2)))) []) := by
  intro qs y
  rw [execQcvt]
  refine (State.veIssue_go h ?_).trans (congrArg Host.Outcome.next
    (quant_enter (x := x) (y := (x.writeLanes act f.dst.toNat (fun l => BitVec.ofNat 32 (quantCode qs l))).srAdvance act f 1) _ _))
  simp only [hok, hheld, hroom, quantLanes_enter, write_codes, statPart, if_neg hrec, Bool.not_true, Bool.or_self, Bool.false_eq_true,
      and_false, if_false, qs]

theorem qst_go {s : State} {g : VeAt} {f : RFmt} {x : Group} {pc : Nat} {act : List Nat}
    (h : s.VeGo g (encR 0x39 0 f) (qReads f true) [] false x pc act)
    (hok : qstFault f.fmt.toNat (x.num (act.headD 0) f.dst) (x.num (act.headD 0) f.src3) = none)
    (hheld : ((s.over g act []).setGroup g.core g.slot.toNat x).heldBack g.core (some g.slot) = false)
    (hroom : ((s.over g act []).setGroup g.core g.slot.toNat x).bufferRoom g.core (some g.slot) = true) :
    let qs := s.quantLanes g x f act
    let a := x.num (act.headD 0) f.dst
    let n := 4 * fmtWidth f.fmt.toNat
    let part (at_ : Nat) (bs : List Byte) : LaneAcc :=
      { lane := act.headD 0, va := 2 ^ 58, tgt := .dev (drawerBase g.core + at_), cache := false, bytes := bs }
    let y := (x.srAdvance act f 1).advance act
    execQst g f s = .next (entered (s.veDone g y (quantFlags qs) act.length) g pc y.seed
      (statPart (x.num (act.headD 0) f.src3) f.fmt.toNat (scaleOf x f act) (qs.map (·.2)))
      [part (a % 0x2_0000 + a / 2 ^ 24 % 32 * n) (packCodes (fmtWidth f.fmt.toNat) ((List.range 32).map (quantCode qs))),
       part (a % 0x2_0000 + 32 * n + a / 2 ^ 24 % 32) [BitVec.ofNat 8 (scaleOf x f act)]]) := by
  intro qs a n part y
  have hover : s.over g act [] = s := State.overwrite_nil _ _ _ _
  rw [hover] at hheld hroom
  have hlanes := quantLanes_enter s g x x f act []
  rw [hover] at hlanes
  rw [execQst]
  refine (State.veIssue_go h ?_).trans (congrArg Host.Outcome.next (quant_enter (x := x) (y := x.srAdvance act f 1) _ _))
  rw [hover]
  simp only [hok, hheld, hroom, hlanes, Bool.not_true, Bool.or_self, Bool.false_eq_true, if_false]
  rfl

/-- Settles O33. -/
theorem quantising : Obligations.Quantising := by
  unfold Obligations.Quantising
  intro s g f x pc act qs code rec_ stat a n part entered' free _
  refine ⟨fun h hok => ?_, fun h hok hfree => ?_⟩
  · rw [exec_qcvt]
    refine ⟨fun hrec => qcvt_plain h hrec, fun hrec hfree => (qcvt_record h hrec hok hfree.1 hfree.2).trans ?_⟩
    simp only [entered', stat, rec_, if_neg hrec]
    rfl
  · rw [exec_qst]
    exact qst_go h hok hfree.1 hfree.2

end Sys2Proof.Proofs
end

section
/-! SUPPORT. The timeline and the clocks of regions (02_timeline.md R44 to R66, R443, R549, R562). -/

namespace Sys2Proof.Proofs

open Sys2Proof Sys2Proof.Machine

/-! ## Loads and edges -/

/-- A field other than the bit written keeps its value. -/
theorem fld_setBit {w : Nat} (x : BitVec w) {lo n i : Nat} (b : Bool) (hi : i < lo ∨ lo + n ≤ i) (hw : lo + n ≤ w) :
    fld (setBit x i b) lo n = fld x lo n := by
  refine Nat.eq_of_testBit_eq (fun j => ?_)
  simp only [fld, Nat.testBit_mod_two_pow, Nat.testBit_div_two_pow]
  by_cases hj : j < n
  · have hbit := bit_setBit x i (j + lo) b (by omega)
    rw [if_neg (by omega), bit, bit, BitVec.getLsbD, BitVec.getLsbD] at hbit
    rw [hbit]
  · rw [decide_eq_false hj, Bool.false_and, Bool.false_and]

/-- A step of the timeline: the plinth copy takes the value; the records that it calls for do not touch the timeline. -/
theorem stepTimeline_tl (s : State) (v : W64) : (s.stepTimeline v).tl = { s.tl with now := v, stepped := true, slew := 0 } := by
  unfold State.stepTimeline
  exact (FrzOnly.foldl (fun t i => t.frzResync (BitVec.ofNat 6 i)) (fun t i => State.frzResync_only t _) _ _ (FrzOnly.refl _)).tl

/-- The two cases of R45 in which a value is stepped to, as conditions on the timeline. -/
theorem takeTime_step {s : State} {v : W64}
    (h : (1000 + s.tl.now.toNat < v.toNat ∧ s.tl.state.toNat ≤ 1) ∨ (v.toNat < s.tl.now.toNat ∧ s.tl.state = 0 ∧ s.noContext = true)) :
    s.takeTime v = s.stepTimeline v := by
  have hcond : ((decide (s.tl.now.toNat + 1000 < v.toNat) && decide (s.tl.state.toNat ≤ 1)) ||
      (decide (v.toNat < s.tl.now.toNat) && s.tl.state == 0 && s.noContext)) = true := by
    rw [Nat.add_comm]
    simpa [and_assoc] using h
  exact if_pos hcond

theorem takeTime_slew {s : State} {v : W64}
    (h : ¬ ((1000 + s.tl.now.toNat < v.toNat ∧ s.tl.state.toNat ≤ 1) ∨ (v.toNat < s.tl.now.toNat ∧ s.tl.state = 0 ∧ s.noContext = true))) :
    s.takeTime v = { s with tl := { s.tl with slew := (v.toNat : Int) - s.tl.now.toNat } } := by
  have hcond : ¬ ((decide (s.tl.now.toNat + 1000 < v.toNat) && decide (s.tl.state.toNat ≤ 1)) ||
      (decide (v.toNat < s.tl.now.toNat) && s.tl.state == 0 && s.noContext)) = true := by
    rw [Nat.add_comm]
    simpa [and_assoc] using h
  exact if_neg hcond

/-- The plinth copy after an edge at which a load was applied: the source of the timeline is no board source. -/
theorem edge_load {s : State} {phase : BitVec 16} (hvalid : s.edgeValid = true) (hsrc : fld s.tl.control 0 2 ≠ 1)
    (harm : bit s.tl.control 8 = true) (hkeep : (s.applyLoad).tl.control = setBit s.tl.control 8 false) :
    exec (.tppsEdge phase) s = .next { s.applyLoad with tl := { s.applyLoad.tl with lastEdge := some s.applyLoad.tl.now } } := by
  have hboard : fld s.applyLoad.tl.control 0 2 ≠ 1 := by
    rw [hkeep, fld_setBit _ _ (Or.inr (by decide)) (by decide)]
    exact hsrc
  rw [exec_tppsEdge, execTppsEdge, hvalid, Bool.not_true, if_neg Bool.false_ne_true]
  dsimp only
  rw [if_pos harm]
  exact congrArg Host.Outcome.next (if_neg (by simpa [State.tlSource] using hboard))

theorem edge_board {s : State} {phase : BitVec 16} (hvalid : s.edgeValid = true) (hsrc : fld s.tl.control 0 2 = 1)
    (harm : bit s.tl.control 8 = false) :
    exec (.tppsEdge phase) s = .next (({ s with tl := { s.tl with lastEdge := some s.tl.now } } : State).measure phase.toInt 3 true) := by
  rw [exec_tppsEdge, execTppsEdge, hvalid, Bool.not_true, if_neg Bool.false_ne_true]
  dsimp only
  rw [harm, if_neg Bool.false_ne_true]
  exact congrArg Host.Outcome.next (if_pos (by simpa [State.tlSource] using hsrc))

/-! ## Booking -/

/-- With no entry waiting, nothing comes into force. -/
theorem commit_none {t : Timeline} (h : t.bookNext = []) : t.commit = t := by
  unfold Timeline.commit
  rw [h, List.foldl_nil, ← h]

/-- An entry booked where none waits: the tables are as before in this frame, and hold it from the next. -/
theorem bookPut_commit {s : State} (h : s.tl.bookNext = []) (r : Bool) (key : Nat) (v : W32) (later : W64) :
    ({ (s.bookPut r key v).tl with now := later } : Timeline).commit =
      if frameOf s.tl.now < frameOf later then
        if r then { s.tl with now := later, regionBook := Sparse.put s.tl.regionBook key ((v &&& 0x1_FFFD) ||| 2) }
        else { s.tl with now := later, portBook := Sparse.put s.tl.portBook key (v &&& 0x1_FFFD) }
      else { (s.bookPut r key v).tl with now := later } := by
  unfold State.bookPut
  dsimp only
  rw [commit_none h, h]
  unfold Timeline.commit
  simp only [List.nil_append, List.foldl_cons, List.foldl_nil]
  split
  · cases r with
    | true => rfl
    | false => simp
  · rfl

/-- A booked send entry that the peer matches. -/
theorem booked_slot {s : State} {p : PortNum} (hvalid : bit (s.tl.portEntry p (s.tl.now.toNat / 1024 % 1024)) 0 = true)
    (hsend : bit (s.tl.portEntry p (s.tl.now.toNat / 1024 % 1024)) 16 = false)
    (hmatch : (s.port p).matched (s.tl.now.toNat / 1024 % 1024) (s.tl.portEntry p (s.tl.now.toNat / 1024 % 1024)) = true) :
    let e := s.tl.portEntry p (s.tl.now.toNat / 1024 % 1024)
    exec (.bookedSlotStart p) s = .next ((s.updPort p (fun x => { x with booked := some (s.tl.now.toNat / 1024,
      BitVec.ofNat 6 (fld e 2 6), BitVec.ofNat 8 (fld e 8 8), 0) })).pump p.toNat) := by
  intro e
  rw [exec_bookedSlotStart, execBookedSlotStart]
  simp only [hvalid, hsend, hmatch, Bool.not_true, Bool.not_false, Bool.and_self, if_true, Bool.and_false, Bool.false_eq_true, if_false]
  rfl

/-- Settles O39. -/
theorem timelineCommands : Obligations.TimelineCommands := by
  unfold Obligations.TimelineCommands
  intro s far back held
  refine ⟨fun phase hbad => ?_, fun phase hvalid hsrc harm => ⟨fun h => ?_, fun h => ?_⟩, fun phase => edge_board,
    fun a ha => ?_, fun hlock => ?_, fun hhold => ?_, fun a r n idx v => ⟨fun h => ?_, fun h _ => ?_⟩, fun p => booked_slot⟩
  · rw [exec_tppsEdge, execTppsEdge, hbad, Bool.not_false, if_pos rfl]
  · have hload : s.applyLoad = ({ s with tl := held } : State).stepTimeline s.tl.load := takeTime_step (s := { s with tl := held }) h
    have htl : s.applyLoad.tl = { held with now := s.tl.load, stepped := true, slew := 0 } := by rw [hload, stepTimeline_tl]
    refine ⟨_, edge_load hvalid hsrc harm (by rw [htl]), ?_⟩
    rw [htl]
  · have hload : s.applyLoad = { s with tl := { held with slew := (s.tl.load.toNat : Int) - s.tl.now.toNat } } :=
      takeTime_slew (s := { s with tl := held }) h
    rw [edge_load hvalid hsrc harm (by rw [hload]), hload]
  · rw [exec_loadArm, execLoadArm, if_pos ha]
  · intro silent
    have hsilent : s.tl.lastInput + s.silenceNs = silent := by simp only [silent, State.silenceNs, State.tlSource, beq_iff_eq]
    rw [exec_sourceLostTimeout, execSourceLostTimeout, hlock, hsilent]
    refine ⟨fun h => ?_, fun h => ?_⟩
    · rw [decide_eq_true h]
      rfl
    · rw [decide_eq_false (Nat.not_le.mpr h)]
      rfl
  · rw [exec_holdoverExpiry, execHoldoverExpiry, hhold]
    refine ⟨fun h => ?_, fun h => ?_⟩
    · rw [decide_eq_true h]
      rfl
    · rw [decide_eq_false (Nat.not_le.mpr h)]
      rfl
  · exact exec_tlBookWrite_of_not_right (by simp [h]) n idx v s
  · refine ⟨_, exec_tlBookWrite_of_right h n idx v s, ?_, fun hnone later hlater => ?_⟩
    · rw [writeBook_tl, readBook_bookPut_same]
    · rw [writeBook_tl, bookPut_commit hnone, bookPut_commit hnone, if_neg (Nat.lt_irrefl _), if_pos hlater]
      refine ⟨?_, fun hr => ?_⟩
      · rw [State.bookPut, commit_none hnone]
      · rw [hr, if_pos rfl, Sparse.getD, Sparse.find_put_same]
        rfl

/-! ## Region clocks -/

theorem resync_region (s : State) (r : RegionNum) : ∃ v, (s.resync r).region r = { s.region r with tl := v } := by
  unfold State.resync
  exact ⟨_, State.region_updRegion_same _ r _⟩

/-- A region that enters OFF counts no cycles; its clock and the transitions that wait stay. -/
theorem regionOff_region (s : State) (r : RegionNum) : ((s.regionOff r).region r).clock = (s.region r).clock ∧
    ((s.regionOff r).region r).targets = (s.region r).targets ∧ ((s.regionOff r).region r).cycles = 0 := by
  unfold State.regionOff
  have hregion (t : State) (a n : Nat) : (t.scramble a n).region r = t.region r := rfl
  dsimp only
  rw [hregion, State.region_updRegion_same]
  exact ⟨rfl, rfl, rfl⟩

theorem mapCores_region (s : State) (r q : RegionNum) (f : Nat → Core → Core) : (s.mapCores r f).region q = s.region q := rfl

/-- The Frieze records of a change of clock state. -/
theorem clockRecords_only (s : State) (r : RegionNum) (old new step : Nat) : FrzOnly s (s.clockRecords r old new step) := by
  unfold State.clockRecords State.friezeClock
  exact FrzOnly.ite (FrzOnly.refl s) ((FrzOnly.ite (FrzOnly.refl s) (State.frieze1_only _ _ _ _ _ _ _ _)).trans
    (FrzOnly.ite (FrzOnly.refl _) (State.frieze1_only _ _ _ _ _ _ _ _)))

/-- A change of a region's clock in three stages: what leaving OFF or HALT asks for, what entering OFF asks for, the rest. -/
def leaveStage (s : State) (r : RegionNum) (new : W64) : State :=
  let u := s.updRegion r (fun x => { x.boundary with clock := new })
  let u := if (s.region r).state == 3 && fld new 0 3 != 3 then u.mapCores r Core.regionReset else u
  if ((s.region r).state == 2 || (s.region r).state == 3) && (fld new 0 3 == 0 || fld new 0 3 == 1) then u.resync r else u

def offStage (s : State) (r : RegionNum) (new : W64) : State :=
  if fld new 0 3 == 3 && (s.region r).state != 3 then (leaveStage s r new).regionOff r else leaveStage s r new

theorem leaveStage_region (s : State) (r : RegionNum) (new : W64) :
    ((leaveStage s r new).region r).clock = new ∧ ((leaveStage s r new).region r).targets = (s.region r).targets := by
  have hfirst : ((s.updRegion r (fun x => { x.boundary with clock := new })).region r) = { (s.region r).boundary with clock := new } :=
    State.region_updRegion_same s r _
  unfold leaveStage
  generalize s.updRegion r (fun x => { x.boundary with clock := new }) = u at hfirst ⊢
  have hmap : (if (s.region r).state == 3 && fld new 0 3 != 3 then u.mapCores r Core.regionReset else u).region r = u.region r := by
    split
    · exact mapCores_region u r r _
    · rfl
  dsimp only
  generalize (if (s.region r).state == 3 && fld new 0 3 != 3 then u.mapCores r Core.regionReset else u) = v at hmap ⊢
  split
  · obtain ⟨w, hw⟩ := resync_region v r
    rw [hw, hmap, hfirst]
    exact ⟨rfl, rfl⟩
  · rw [hmap, hfirst]
    exact ⟨rfl, rfl⟩

theorem offStage_region (s : State) (r : RegionNum) (new : W64) :
    ((offStage s r new).region r).clock = new ∧ ((offStage s r new).region r).targets = (s.region r).targets ∧
      (fld new 0 3 = 3 → (s.region r).state ≠ 3 → ((offStage s r new).region r).cycles = 0) := by
  obtain ⟨hclock, htargets⟩ := leaveStage_region s r new
  obtain ⟨hoclock, hotargets, hocycles⟩ := regionOff_region (leaveStage s r new) r
  unfold offStage
  split
  · exact ⟨hoclock.trans hclock, hotargets.trans htargets, fun _ _ => hocycles⟩
  next hno => exact ⟨hclock, htargets, fun h3 hold => absurd (by simp [h3, hold]) hno⟩

/-- What a change of a region's clock leaves of that region. -/
theorem setClock_region (s : State) (r : RegionNum) (new : W64) :
    ((s.setClock r new).region r).clock = new ∧ ((s.setClock r new).region r).targets = (s.region r).targets ∧
      (fld new 0 3 = 3 → (s.region r).state ≠ 3 → ((s.setClock r new).region r).cycles = 0) := by
  have hstages : ∃ f, s.setClock r new = (if fld new 0 3 == 0 then offStage s r new else (offStage s r new).mapCores r f).clockRecords r
      (s.region r).state (fld new 0 3) (fld new 3 3) := ⟨_, rfl⟩
  obtain ⟨f, hset⟩ := hstages
  have hrest : (if fld new 0 3 == 0 then offStage s r new else (offStage s r new).mapCores r f).region r = (offStage s r new).region r := by
    split
    · rfl
    · exact mapCores_region _ r r f
  rw [hset, (clockRecords_only _ r _ _ _).region r, hrest]
  exact offStage_region s r new

/-- A store to every bit of a register replaces it. -/
theorem masked_all (old v : W64) : masked (BitVec.allOnes 64) old v = v := by
  rw [masked, BitVec.and_allOnes, BitVec.not_allOnes, BitVec.and_zero, BitVec.zero_or]

/-- The value of REG_CLOCK that a write of a state asks for. -/
def clockValue (v : W64) : W64 := pack [(0, 3, v.toNat % 8), (3, 3, v.toNat / 8 % 8), (6, 1, (bit v 6).toNat)]

theorem writeRegClock_refused {s : State} {r : RegionNum} {v : W64} (hst : v.toNat % 8 < 4)
    (hbad : clockAllowed (fld (s.region r).clockReg 0 3) (v.toNat % 8) = false) :
    s.writeRegClock r (BitVec.allOnes 64) v = s.patinaEvent 0x03 (dieLoc r) r.toNat v.toNat 0 := by
  have hfld : fld v 0 3 = v.toNat % 8 := by simp [fld]
  unfold State.writeRegClock
  dsimp only
  rw [masked_all, hfld, if_neg (Nat.not_le.mpr hst), hbad, Bool.not_false, if_pos rfl]

theorem writeRegClock_allowed {s : State} {r : RegionNum} {v : W64} (hst : v.toNat % 8 < 4)
    (hallow : clockAllowed (fld (s.region r).clockReg 0 3) (v.toNat % 8) = true) (hne : v.toNat % 8 ≠ fld (s.region r).clockReg 0 3)
    (hstep : v.toNat % 8 = 1 → 1 ≤ v.toNat / 8 % 8 ∧ v.toNat / 8 % 8 ≤ 4) :
    s.writeRegClock r (BitVec.allOnes 64) v = s.updRegion r (fun x => { x with targets := x.targets ++ [clockValue v] }) := by
  have hfld : fld v 0 3 = v.toNat % 8 := by simp [fld]
  have hstretch : fld v 3 3 = v.toNat / 8 % 8 := by simp [fld]
  have hlegal : ¬ (v.toNat % 8 == 1 && (v.toNat / 8 % 8 == 0 || decide (5 ≤ v.toNat / 8 % 8))) = true := by
    simp only [Bool.and_eq_true, Bool.or_eq_true, beq_iff_eq, decide_eq_true_eq]
    omega
  unfold State.writeRegClock
  dsimp only
  rw [masked_all, hfld, hstretch, if_neg (Nat.not_le.mpr hst), hallow, Bool.not_true, if_neg Bool.false_ne_true, if_neg hlegal,
    beq_false_of_ne hne, Bool.false_and, if_neg Bool.false_ne_true]
  rfl

/-- Settles O40. -/
theorem regionClocks : Obligations.RegionClocks := by
  unfold Obligations.RegionClocks
  intro s r x old
  refine ⟨fun a v ha => ?_, ?_, fun t ts hts hoff => ?_, fun hrun hdroop => ?_⟩
  · rw [exec_regClockWrite, execRegClockWrite, ha, if_neg Bool.false_ne_true]
  · intro v st step hst
    rw [exec_regClockWrite, execRegClockWrite]
    exact ⟨fun hallow hne hstep => congrArg Host.Outcome.next (writeRegClock_allowed hst hallow hne hstep),
      fun hbad => congrArg Host.Outcome.next (writeRegClock_refused hst hbad)⟩
  · have hregion : (s.updRegion r (fun x => { x with targets := ts })).region r = { s.region r with targets := ts } :=
      State.region_updRegion_same s r _
    have hstate : ((s.updRegion r (fun x => { x with targets := ts })).region r).state = x.state := by rw [hregion]; rfl
    obtain ⟨hclock, htargets, hcycles⟩ := setClock_region (s.updRegion r (fun x => { x with targets := ts })) r t
    refine ⟨_, ?_, rfl, hclock, htargets.trans (by rw [hregion]), fun h3 hx => hcycles h3 (by rw [hstate]; exact hx)⟩
    have hgo : ¬ (fld t 0 3 == 3 && (s.region r).state != 3 && !s.regionDrained r) = true := by
      simp only [Bool.and_eq_true, beq_iff_eq, bne_iff_ne, Bool.not_eq_true', not_and, Bool.not_eq_false]
      exact fun h => hoff h.1 h.2
    rw [exec_clockTransitionDone, execClockTransitionDone, hts]
    exact if_neg hgo
  · rw [exec_droopCycle, execDroopCycle]
    exact congrArg Host.Outcome.next (if_pos (by rw [hrun, hdroop]; rfl))

end Sys2Proof.Proofs
end

section
/-! SUPPORT. The registers, triggers and sinks of Frieze (20_frieze.md R511 to R517). -/

namespace Sys2Proof.Proofs

open Sys2Proof Sys2Proof.Machine

/-- A bit of a register after a store: the new one where the mask has it, else the old one. -/
theorem bit_masked (m old v : W64) (i : Nat) : bit (masked m old v) i = if bit m i then bit v i else bit old i := by
  unfold masked bit
  rw [BitVec.getLsbD_or, BitVec.getLsbD_and, BitVec.getLsbD_and, BitVec.getLsbD_not]
  by_cases hi : i < 64
  · cases m.getLsbD i <;> simp [hi]
  · have hv : v.getLsbD i = false := BitVec.getLsbD_of_ge v i (by omega)
    have ho : old.getLsbD i = false := BitVec.getLsbD_of_ge old i (by omega)
    simp [hv, ho]

/-- The bits of FRZ_CONTROL that a store may change. -/
def frzControlMask (f : FrzRegion) (v : W64) : W64 :=
  if f.armed then (BitVec.allOnes 64 &&& mask 0 50) &&& ~~~(7 : W64)
  else if fld (masked (BitVec.allOnes 64 &&& mask 0 50) f.control v) 1 2 = 3 then (BitVec.allOnes 64 &&& mask 0 50) &&& ~~~(6 : W64)
  else BitVec.allOnes 64 &&& mask 0 50

theorem frzControlMask_arm (f : FrzRegion) (v : W64) : bit (frzControlMask f v) 7 = true := by
  unfold frzControlMask
  split_ifs <;> decide

theorem writeControl_eq (f : FrzRegion) (v : W64) : f.writeControl (BitVec.allOnes 64) v =
    let g := { f with control := masked (frzControlMask f v) f.control v }
    if !f.armed && g.armed then g.rearm else g := rfl

/-- ARM takes what is written. -/
theorem writeControl_arm (f : FrzRegion) (v : W64) : bit (f.writeControl (BitVec.allOnes 64) v).control 7 = bit v 7 := by
  have hbit : bit (masked (frzControlMask f v) f.control v) 7 = bit v 7 := by
    rw [bit_masked, frzControlMask_arm, if_pos rfl]
  rw [writeControl_eq]
  dsimp only
  split
  · exact hbit
  · exact hbit

/-- The low three bits, MODE and RESERVE, of an armed buffer's FRZ_CONTROL stay. -/
theorem writeControl_armed {f : FrzRegion} (v : W64) (h : f.armed = true) :
    (f.writeControl (BitVec.allOnes 64) v).control.toNat % 8 = f.control.toNat % 8 ∧ (f.writeControl (BitVec.allOnes 64) v).fill = f.fill := by
  rw [writeControl_eq]
  dsimp only
  rw [h, Bool.not_true, Bool.false_and, if_neg Bool.false_ne_true]
  refine ⟨?_, rfl⟩
  refine Nat.eq_of_testBit_eq (fun j => ?_)
  rw [show (8 : Nat) = 2 ^ 3 by norm_num, Nat.testBit_mod_two_pow, Nat.testBit_mod_two_pow]
  by_cases hj : j < 3
  · have hlow : bit (frzControlMask f v) j = false := by
      rw [frzControlMask, if_pos h]
      interval_cases j <;> decide
    have hbit := bit_masked (frzControlMask f v) f.control v j
    rw [hlow, if_neg Bool.false_ne_true] at hbit
    exact congrArg (decide (j < 3) && ·) hbit
  · rw [decide_eq_false hj, Bool.false_and, Bool.false_and]

/-- A buffer armed anew is empty. -/
theorem writeControl_rearm {f : FrzRegion} {v : W64} (h : f.armed = false) (hv : bit v 7 = true) :
    f.writeControl (BitVec.allOnes 64) v = ({ f with control := masked (frzControlMask f v) f.control v } : FrzRegion).rearm := by
  have harm : ({ f with control := masked (frzControlMask f v) f.control v } : FrzRegion).armed = true := by
    unfold FrzRegion.armed
    rw [bit_masked, frzControlMask_arm, if_pos rfl, hv]
  rw [writeControl_eq]
  dsimp only
  rw [h, harm, Bool.not_false, Bool.true_and, if_pos rfl]

/-! ## Triggers -/

theorem region_mem (s : State) (m : Memory) (r : RegionNum) : ({ s with mem := m } : State).region r = s.region r := rfl

theorem region_count (s : State) (i d : Nat) (r : RegionNum) : (s.count i d).region r = s.region r := rfl

theorem updRegion_control (s : State) (r : RegionNum) (F : Region → Region) (h : ∀ g, (F g).frz.control = g.frz.control) :
    ((s.updRegion r F).region r).frz.control = (s.region r).frz.control := by
  rw [State.region_updRegion_same, h]

/-- A record put into a region's buffer leaves its FRZ_CONTROL. -/
theorem frzPut_control (s : State) (r : RegionNum) (x : FrzRec) : ((s.frzPut r x).region r).frz.control = (s.region r).frz.control := by
  have hmove : ((s.frzMove r).region r).frz.control = (s.region r).frz.control := by
    rw [State.frzMove, State.region_updRegion_same]
  unfold State.frzPut
  generalize s.frzMove r = u at hmove ⊢
  dsimp only
  rw [region_count, updRegion_control]
  · rw [region_mem]
    exact hmove
  · exact fun _ => rfl

theorem frzSync_control (s : State) (r : RegionNum) : ((s.frzSync r).region r).frz.control = (s.region r).frz.control := by
  unfold State.frzSync
  dsimp only
  rw [State.region_updRegion_same]
  exact frzPut_control s r _

theorem frzTrigger1_control (s : State) (r : RegionNum) (a b c : Nat) :
    ((s.frzTrigger1 r a b c).region r).frz.control = (s.region r).frz.control := by
  unfold State.frzTrigger1
  dsimp only
  split
  · rfl
  · rw [frzPut_control, State.region_updRegion_same]
    split
    · exact frzSync_control s r
    · rfl

/-- A word with one bit set names one region. -/
theorem ones_shift (r : RegionNum) : ones 64 (((1 <<< r.toNat : Nat) : W64)).toNat = [r.toNat] := by
  revert r
  decide

theorem frzTrigger_one {s : State} {r : RegionNum} {v : W64} (hv : ones 64 v.toNat = [r.toNat]) (harm : (s.region r).frz.armed = true)
    (htrig : (s.region r).frz.triggered = false) (hglobal : bit (s.region r).frz.control 17 = false) :
    s.writeFrzTrigger v = s.frzTrigger1 r 4 0 r.toNat := by
  have hr : BitVec.ofNat 6 r.toNat = r := by simp
  unfold State.writeFrzTrigger
  simp only [hv, List.filter_cons, List.filter_nil, hr, harm, htrig, Bool.not_false, Bool.and_self, if_true, List.foldl_cons,
    List.foldl_nil, List.find?_cons, List.find?_nil, frzTrigger1_control, hglobal]

/-- Settles O41. -/
theorem friezeCommands : Obligations.FriezeCommands := by
  unfold Obligations.FriezeCommands
  intro s r f
  refine ⟨fun a v ha => ?_, fun a v ha hv harm htrig hglobal => ?_, fun htick hrun hat => ?_, fun t hlast hat => ?_, ?_⟩
  · refine ⟨f.writeControl (BitVec.allOnes 64) v, ?_, writeControl_armed v, fun hoff hv => ?_, writeControl_arm f v⟩
    · rw [exec_friezeArm, execFriezeArm, if_pos ha]
      rfl
    · rw [writeControl_rearm hoff hv]
      exact ⟨rfl, rfl, rfl, rfl, rfl⟩
  · rw [exec_frzTriggerWrite, execFrzTriggerWrite, if_pos ha, frzTrigger_one (by rw [hv, ones_shift]) harm htrig hglobal]
  · rw [exec_trigTick, execTrigTick]
    exact congrArg Host.Outcome.next (if_pos (by rw [decide_eq_true hat, bne_iff_ne.mpr htick, hrun]; rfl))
  · rw [exec_timeSync, execTimeSync]
    simp only [hlast, if_pos hat, f]
  · intro size at_ rec_ done hstream hen hfill hroom hbusy hbudget
    have hgo : ¬ (!f.stream || !bit f.sink 0 || decide (f.fill = 0) || !decide ((f.sinkWrite - f.sinkRead).toNat ≠ 2 ^ fld f.sink 1 5) ||
        s.sinkBusy r || !s.frzBudget r 1) = true := by
      rw [hstream, hen, decide_eq_false hfill, decide_eq_true hroom, hbusy, hbudget]
      decide
    rw [exec_sinkCopy, execSinkCopy]
    dsimp only
    rw [if_neg hgo]
    refine ⟨fun hhost => ?_, fun hdev hlocal => ?_⟩
    · rw [if_pos hhost]
      rfl
    · rw [if_neg (by rw [hdev]; decide), if_pos (by exact hlocal)]
      rfl

end Sys2Proof.Proofs
end

section
/-! SUPPORT. Backing, review and migration of pages, and the registers of the placement unit (10_memory_tiers.md R262 to R276, R566). -/

namespace Sys2Proof.Proofs

open Sys2Proof Sys2Proof.Machine

/-! ## Backing -/

/-- An unbacked placed page takes the first frame that its tiers have on this device. -/
theorem backPage_frame {s : State} {n : NicheNum} {va l a tier f : Nat} {e : W64} (hleaf : s.placedLeaf n va = some (l, a, e))
    (hback : bit e 11 = false) (hmig : bit e 10 = false) (hfill : s.fillOf n (pageBase l va) = none) (htier : tier ≠ 3)
    (hframe : s.chooseFrame n (pageBase l va) (pageSize l) = .frame tier f) :
    let pl : Placement := { s.place with frames := s.place.frames ++ [(n, f, pageSize l)] }
    s.backPage n va = some ((State.updPage { s with mem := s.mem.zero (f % 2 ^ 48) (pageSize l), place := pl } n (pageBase l va)
      id).setLeaf a (leafWith e tier f)) := by
  have hnear : (tier != 3) = true := by simpa using htier
  unfold State.backPage
  simp only [hleaf, hback, hmig, hfill, hframe, Bool.or_self, Bool.false_eq_true, if_false, State.zeroFrame, hnear, if_true]

theorem backPage_ask {s : State} {n : NicheNum} {va l a : Nat} {e : W64} (hleaf : s.placedLeaf n va = some (l, a, e))
    (hback : bit e 11 = false) (hmig : bit e 10 = false) (hfill : s.fillOf n (pageBase l va) = none)
    (hframe : s.chooseFrame n (pageBase l va) (pageSize l) = .ask) : s.backPage n va = some (s.askLease n) := by
  unfold State.backPage
  simp only [hleaf, hback, hmig, hfill, hframe, Bool.or_self, Bool.false_eq_true, if_false]

/-! ## Review and start of a move -/

/-- A page of a slow tier that is used enough moves to HBM4. -/
theorem reviewPage_hot {s : State} {n : NicheNum} {base l a : Nat} {e : W64} {p : PageInfo} (hleaf : s.placedLeaf n base = some (l, a, e))
    (hhot : fld s.place.control 15 7 ≤ p.tally) (hslow : leafTier e = 2 ∨ leafTier e = 3) :
    s.reviewPage n base p = s.startMove n base 1 none := by
  have hcond : (decide (fld s.place.control 15 7 ≤ p.tally) && (leafTier e == 2 || leafTier e == 3)) = true := by
    rcases hslow with h | h <;> simp [hhot, h]
  unfold State.reviewPage
  simp only [hleaf, hcond, if_true]

/-- The state in which a page's move to a frame is under way (R270). -/
def movingTo (s : State) (n : NicheNum) (va tier l a : Nat) (e : W64) (f : Nat) : State :=
  let base := pageBase l va
  let g : Migration := { niche := n, va := base, leafAddr := a, oldFrame := BitVec.ofNat 62 (fld e 16 46 * 2 ^ 16),
                         newFrame := BitVec.ofNat 62 f, tier := BitVec.ofNat 2 tier, bytes := pageSize l }
  let slots := if tier = 3 then (List.range (pageSize l / 0x1_0000)).map (fun i => f + i * 0x1_0000) else []
  let t : State := { s with place := { s.place with frames := s.place.frames ++ [(n, f, pageSize l)], migs := s.place.migs ++ [g]
                                                    usedSlots := slots.foldl insNat s.place.usedSlots } }
  ((t.setLeaf a (setBit e 10 true)).dropTranslations n base (pageSize l)).updPage n base (fun p => { p with cold := false })

theorem startMove_go {s : State} {n : NicheNum} {va l a tier f : Nat} {e : W64} (hleaf : s.placedLeaf n va = some (l, a, e))
    (hback : bit e 11 = true) (hmig : bit e 10 = false) (hlock : bit e 6 = false) (haway : leafTier e ≠ tier)
    (hen : bit s.place.control 0 = true) (hniche : bit (s.niche n).nplControl 2 = true)
    (hlevel : l = 0 ∨ l = 1 ∧ bit (s.niche n).nplControl 3 = true) (hframe : s.freeFrame n tier (pageSize l) none = some f) :
    s.startMove n va tier none = movingTo s n va tier l a e f := by
  have hlv : (l == 0 || (l == 1 && bit (s.niche n).nplControl 3)) = true := by
    rcases hlevel with h | ⟨h, hbit⟩
    · simp [h]
    · simp [h, hbit]
  unfold State.startMove
  simp only [hleaf, hback, hmig, hlock, hen, hniche, hlv, hframe, beq_false_of_ne haway, Bool.false_and, Bool.not_true, Bool.or_self,
    Bool.and_self, Bool.false_eq_true, if_false]
  rfl

/-! ## The end of a move -/

/-- A copy on this device, behind the write-back of the old frame's lines. -/
theorem migrationComplete_here {s u : State} {idx : Nat} {g : Migration} (hmig : s.place.migs[idx]? = some g) (hcopy : g.copying = false)
    (hold : s.frameBusy g.oldFrame.toNat g.bytes = false) (hnew : s.frameBusy g.newFrame.toNat g.bytes = false)
    (hoHere : g.oldFrame.toNat / 2 ^ 48 = s.myDevice) (hnHere : g.newFrame.toNat / 2 ^ 48 = s.myDevice) (hinj : bit s.err.inject 0 = false)
    (hu : s.flushFrame g.niche g.oldFrame.toNat g.bytes = u) (hclean : u.frameDirty g.niche g.oldFrame.toNat g.bytes = false)
    (hidle : u.frameBusy g.oldFrame.toNat g.bytes = false) :
    let m := u.mem.copyFrom u.mem (g.oldFrame.toNat % 2 ^ 48) (g.newFrame.toNat % 2 ^ 48) g.bytes
    exec (.migrationComplete idx) s = .next (({ u with mem := m } : State).endMove idx g) := by
  rw [exec_migrationComplete, execMigrationComplete]
  simp only [hmig, hcopy, hold, hnew, hoHere, hnHere, inject_unarmed hinj, hu, hclean, hidle, bne_self_eq_false, beq_self_eq_true,
    Bool.or_self, Bool.and_self, Bool.false_eq_true, if_false, if_true, ite_self]

/-- A frame that lies in no lease is given back without a word to another device. -/
theorem freeFrameOf_own {s : State} {n : NicheNum} {f : Nat}
    (h : s.tr.held.find? (fun h => h.1 == n && overlaps h.2 0x20_0000 f 1) = none) :
    s.freeFrameOf n f = { s with place := { s.place with frames := s.place.frames.filter (fun x => !(x.1 == n && x.2.1 == f)) } } := by
  unfold State.freeFrameOf State.returnLease
  simp only [h]

/-- Giving a frame back takes that frame, and no other, out of the frames in use. -/
theorem mem_freed {frames : List (NicheNum × Nat × Nat)} {n m : NicheNum} {a l f : Nat} (h : m ≠ n ∨ a ≠ f) :
    (m, a, l) ∈ frames.filter (fun x => !(x.1 == n && x.2.1 == f)) ↔ (m, a, l) ∈ frames := by
  rw [List.mem_filter]
  refine and_iff_left_of_imp (fun _ => ?_)
  rcases h with h | h <;> simp [h]

theorem not_mem_freed (frames : List (NicheNum × Nat × Nat)) (n : NicheNum) (f l : Nat) :
    (n, f, l) ∉ frames.filter (fun x => !(x.1 == n && x.2.1 == f)) := by
  simp

theorem endMove_poisoned {s : State} {idx : Nat} {g : Migration} (hp : s.mem.poisoned g.leafAddr 8 = true)
    (h : s.tr.held.find? (fun h => h.1 == g.niche && overlaps h.2 0x20_0000 g.newFrame.toNat 1) = none) :
    s.endMove idx g = { s with place := { s.place with
      migs := s.place.migs.eraseIdx idx, frames := s.place.frames.filter (fun x => !(x.1 == g.niche && x.2.1 == g.newFrame.toNat)) } } := by
  rw [State.endMove, if_pos hp, State.dropMove, freeFrameOf_own (by exact h)]

theorem endMove_moved {s : State} {idx : Nat} {g : Migration} (hp : s.mem.poisoned g.leafAddr 8 = false)
    (h : s.tr.held.find? (fun h => h.1 == g.niche && overlaps h.2 0x20_0000 g.oldFrame.toNat 1) = none) :
    (s.endMove idx g).mem = s.mem.setWord g.leafAddr (leafWith (s.mem.word g.leafAddr) g.tier.toNat g.newFrame.toNat) ∧
      (s.endMove idx g).place = { s.place with
        migrations := satAdd s.place.migrations 1, migs := s.place.migs.eraseIdx idx,
        frames := s.place.frames.filter (fun x => !(x.1 == g.niche && x.2.1 == g.oldFrame.toNat)) } := by
  rw [State.endMove, if_neg (by rw [hp]; decide)]
  dsimp only
  rw [freeFrameOf_own (by exact h)]
  exact ⟨rfl, rfl⟩

/-- Settles O42. -/
theorem pagesAndMigration : Obligations.PagesAndMigration := by
  unfold Obligations.PagesAndMigration
  intro s n va l a e
  refine ⟨fun hleaf => ⟨fun hback hmig hfill => ⟨fun tier f htier hframe => ?_, fun hask => ?_⟩, fun p => reviewPage_hot hleaf,
    fun tier f hback hmig hlock haway hen hniche hlevel hframe => startMove_go hleaf hback hmig hlock haway hen hniche hlevel hframe⟩, ?_,
    fun idx g hmig hcopy hold hnew hoHere hnHere hinj => ?_, fun idx g f hf hlease => ?_⟩
  · rw [exec_pageBacking, execPageBacking, backPage_frame hleaf hback hmig hfill htier hframe]
    rfl
  · rw [exec_pageBacking, execPageBacking, backPage_ask hleaf hback hmig hfill hask]
    rfl
  · rw [exec_epochEnd, execEpochEnd]
  · intro u hclean hidle
    exact migrationComplete_here hmig hcopy hold hnew hoHere hnHere hinj rfl hclean hidle
  · intro t
    cases hp : s.mem.poisoned g.leafAddr 8 with
    | true =>
      rw [hp, if_pos rfl] at hf
      subst hf
      have ht : t = _ := endMove_poisoned (idx := idx) hp hlease
      rw [ht]
      exact ⟨fun _ => ⟨rfl, rfl⟩, fun h => absurd h (by decide), rfl, mem_freed, not_mem_freed _ _ _ _⟩
    | false =>
      rw [hp, if_neg Bool.false_ne_true] at hf
      subst hf
      obtain ⟨hmem, hplace⟩ := endMove_moved (idx := idx) hp hlease
      rw [show t.mem = _ from hmem, show t.place = _ from hplace]
      exact ⟨fun h => absurd h (by decide), fun _ => ⟨rfl, rfl⟩, rfl, mem_freed, not_mem_freed _ _ _ _⟩

end Sys2Proof.Proofs
end

section
/-! SUPPORT. The registers of the placement unit (10_memory_tiers.md R264, R265, R275, R276, R332). -/

namespace Sys2Proof.Proofs

open Sys2Proof Sys2Proof.Machine

/-- A start of an invalidation where none is under way. -/
theorem writeShoot_start {s : State} {n : NicheNum} {v : W64} (hstart : bit v 0 = true) (hdone : bit (s.niche n).shoot 1 = true) :
    let w := masked (mask 2 1 ||| mask 16 41) (s.niche n).shoot v
    let va := if bit w 2 then 0 else fld w 16 41 * 2 ^ 16
    let len := if bit w 2 then 2 ^ 57 else (s.niche n).shootCount.toNat % 2 ^ 32 * 2 ^ 16
    s.writeShoot n (BitVec.allOnes 64) v = (s.updNiche n (fun x => { x with shoot := setFld w 0 2 1, shooting := some (va, len) })).dropTranslations n va len := by
  intro w va len
  have hcount : fld (s.niche n).shootCount 0 32 = (s.niche n).shootCount.toNat % 2 ^ 32 := by rw [fld, pow_zero, Nat.div_one]
  unfold State.writeShoot
  dsimp only
  rw [hcount]
  rw [BitVec.allOnes_and, BitVec.allOnes_and, hstart, hdone, Bool.not_true, if_neg Bool.false_ne_true, if_neg Bool.false_ne_true]

theorem writeShoot_busy {s : State} {n : NicheNum} {v : W64} (hstart : bit v 0 = true) (hbusy : bit (s.niche n).shoot 1 = false) :
    s.writeShoot n (BitVec.allOnes 64) v = s := by
  unfold State.writeShoot
  dsimp only
  rw [BitVec.allOnes_and, BitVec.allOnes_and, hstart, hbusy, Bool.not_true, if_neg Bool.false_ne_true, Bool.not_false, if_pos rfl]

theorem writeNpl_resident {s : State} {n : NicheNum} {reg : Nat} {v : W64} (hres : s.resident n = true) (hreg : reg < 6) :
    s.writeNpl n reg (BitVec.allOnes 64) v = s.writeRefused (0x380_1000 + n.toNat * 0x100 + reg * 8) n v := by
  rw [State.writeNpl, if_neg (by omega), if_pos hres, nplOff]

theorem writeNpl_root {s : State} {n : NicheNum} {v : W64} (hfree : s.resident n = false) : s.writeNpl n 0 (BitVec.allOnes 64) v =
    s.updNiche n (fun x => { x with nplRoot := masked (mask 0 1 ||| mask 12 50) x.nplRoot v }) := by
  rw [State.writeNpl, if_neg (by decide), hfree, if_neg Bool.false_ne_true]
  simp only [BitVec.allOnes_and]

theorem writeNpl_control {s : State} {n : NicheNum} {v : W64} (hfree : s.resident n = false) : s.writeNpl n 5 (BitVec.allOnes 64) v =
    s.updNiche n (fun x => { x with nplControl := masked (mask 0 24) x.nplControl v }) := by
  rw [State.writeNpl, if_neg (by decide), hfree, if_neg Bool.false_ne_true]
  simp only [BitVec.allOnes_and]

theorem writeNpl_pool {s : State} {n : NicheNum} {k : Nat} {v : W64} (hfree : s.resident n = false) (hlo : 1 ≤ k) (hhi : k ≤ 4) :
    s.writeNpl n k (BitVec.allOnes 64) v = s.updNiche n (fun x =>
      { x with pools := Sparse.put x.pools (k - 1) (masked (mask 0 48) (Sparse.getD x.pools (k - 1) 0) v) }) := by
  rw [State.writeNpl, if_neg (by omega), hfree, if_neg Bool.false_ne_true]
  interval_cases k <;> simp only [BitVec.allOnes_and]

/-! ## NSEM counts -/

/-- A bit of a mask of the lowest ones. -/
theorem bit_mask_low {n : Nat} (hn : n ≤ 64) (i : Nat) : bit (mask 0 n) i = decide (i < n) := by
  unfold bit mask
  rw [BitVec.getLsbD_ofNat, pow_zero, mul_one, Nat.testBit_two_pow_sub_one]
  by_cases hi : i < n
  · simp [hi, lt_of_lt_of_le hi hn]
  · simp [hi]

/-- A field of the lowest bits written over one that holds no more bits. -/
theorem masked_low {n c : Nat} (hn : n ≤ 64) (hc : c < 2 ^ n) (v : W64) :
    (masked (mask 0 n) (BitVec.ofNat 64 c) v).toNat = v.toNat % 2 ^ n := by
  refine Nat.eq_of_testBit_eq (fun i => ?_)
  rw [Nat.testBit_mod_two_pow]
  refine (bit_masked (mask 0 n) (BitVec.ofNat 64 c) v i).trans ?_
  rw [bit_mask_low hn]
  by_cases hi : i < n
  · simp only [hi, decide_true, if_true, Bool.true_and]
    rfl
  · have hold : c.testBit i = false := Nat.testBit_lt_two_pow (lt_of_lt_of_le hc (Nat.pow_le_pow_right (by decide) (Nat.le_of_not_lt hi)))
    simp only [hi, decide_false, Bool.false_eq_true, if_false, Bool.false_and, bit, BitVec.getLsbD_ofNat, hold, Bool.and_false]

theorem mask_low_ne_zero : (mask 0 32 != 0) = true := by decide

theorem writeNsem_sup_free {s : State} {n : NicheNum} {k : Nat} {v : W64} (hov : bit v 44 = false) (hc : ((s.niche n).nsem k).count < 2 ^ 32)
    (hfree : s.resident n = false) :
    s.writeNsem .supervisor n k (BitVec.allOnes 64) v = s.updNsem n k (fun x => { x with count := v.toNat % 2 ^ 32 }) := by
  unfold State.writeNsem
  simp only [BitVec.allOnes_and, hov, hfree, isSup, isFwOrSup, Bool.and_false, Bool.false_eq_true, if_false, mask_low_ne_zero, Bool.and_self, if_true]
  unfold State.updNsem State.updNiche
  dsimp only
  rw [masked_low (by decide) hc]

theorem writeNsem_sup_resident {s : State} {n : NicheNum} {k : Nat} {v : W64} (hov : bit v 44 = false) (hres : s.resident n = true) :
    s.writeNsem .supervisor n k (BitVec.allOnes 64) v = s.writeRefused (0x340_0000 + n.toNat * 0x8000 + k * 8) n v := by
  unfold State.writeNsem
  simp only [BitVec.allOnes_and, hov, hres, isSup, isFwOrSup, Bool.and_false, Bool.false_eq_true, if_false, mask_low_ne_zero, Bool.and_self,
    if_true, nsemOff]

theorem writeNsem_other {s : State} {a : Actor} (ha : isFwOrSup a = false) (n : NicheNum) (k : Nat) (m v : W64) :
    s.writeNsem a n k m v = s := by
  have hsup : isSup a = false := by cases a <;> simp_all [isSup, isFwOrSup]
  unfold State.writeNsem
  simp only [ha, hsup, Bool.false_and, Bool.false_eq_true, if_false]

/-- Settles O43. -/
theorem placementRegisters : Obligations.PlacementRegisters := by
  unfold Obligations.PlacementRegisters
  intro s n v x with_
  refine ⟨fun a ha => ⟨?_, fun reg => ?_⟩, fun a ha => ?_, fun va len hshoot hdone => ?_, fun k hov hc => ⟨fun hfree => ?_, fun hres => ?_,
    fun a ha => ?_⟩⟩
  · rw [exec_nplShoot, execNplShoot, ha, if_neg Bool.false_ne_true]
  · rw [exec_nplConfigWrite, execNplConfigWrite, ha, if_neg Bool.false_ne_true]
  · have hshoot : exec (.nplShoot a n v) s = .next (s.writeShoot n (BitVec.allOnes 64) v) := by
      rw [exec_nplShoot, execNplShoot, if_pos ha]
    have hconfig (reg : BitVec 3) : exec (.nplConfigWrite a n reg v) s = .next (s.writeNpl n reg.toNat (BitVec.allOnes 64) v) := by
      rw [exec_nplConfigWrite, execNplConfigWrite, if_pos ha]
    refine ⟨fun hstart hdone => ?_, fun hstart hbusy => ?_, fun hres reg hreg => ?_, fun hfree => ⟨?_, ?_, fun k hlo hhi => ?_⟩⟩
    · exact hshoot.trans (congrArg Host.Outcome.next (writeShoot_start hstart hdone))
    · rw [hshoot, writeShoot_busy hstart hbusy]
    · rw [hconfig, writeNpl_resident hres hreg]
    · exact (hconfig 0).trans (congrArg Host.Outcome.next (writeNpl_root hfree))
    · exact (hconfig 5).trans (congrArg Host.Outcome.next (writeNpl_control hfree))
    · rw [hconfig, writeNpl_pool hfree hlo hhi]
      rfl
  · rw [exec_shootdownDone, execShootdownDone]
    have hsome : (s.niche n).shooting = some (va, len) := hshoot
    simp only [hsome, hdone, Bool.false_eq_true, if_false]
  · rw [exec_nsemCountWrite, execNsemCountWrite, writeNsem_sup_free hov hc hfree]
  · rw [exec_nsemCountWrite, execNsemCountWrite, writeNsem_sup_resident hov hres]
  · rw [exec_nsemCountWrite, execNsemCountWrite, writeNsem_other ha]

end Sys2Proof.Proofs
end

section
/-! SUPPORT. Doorbells and the entries of queues (14_front_end.md R357 to R367, R385). -/

namespace Sys2Proof.Proofs

open Sys2Proof Sys2Proof.Machine

/-! ## Doorbells -/

/-- The entries that a new TAIL would make a queue hold. -/
def newEntries (x : Queue) (tail : W32) : Nat := (tail - (if x.kind = 2 then x.tail else x.head)).toNat

theorem ring_eq (s : State) (q : QueueNum) (tail : W32) : s.ring q tail =
    if bit (s.queue q).base 0 = false ∨ newEntries (s.queue q) tail = 0 ∨ (s.queue q).size < newEntries (s.queue q) tail then
      s.updQueue q (fun x => { x with dbBad := true })
    else if (s.queue q).kind = 2 then
      (s.updQueue q (fun x => { x with tail := tail, head := tail, next := tail })).nsemSignal (s.queue q).niche
        (fld (s.queue q).config 25 12) (tail - (s.queue q).tail).toNat none
    else s.updQueue q (fun x => { x with tail := tail }) := by
  have hnew : (tail - (if (s.queue q).kind == 2 then (s.queue q).tail else (s.queue q).head)).toNat = newEntries (s.queue q) tail := by
    simp only [newEntries, beq_iff_eq]
  unfold State.ring
  dsimp only
  rw [hnew]
  by_cases hbad : bit (s.queue q).base 0 = false ∨ newEntries (s.queue q) tail = 0 ∨ (s.queue q).size < newEntries (s.queue q) tail
  · rw [if_pos hbad, if_pos (by simpa [or_assoc] using hbad)]
  · rw [if_neg hbad, if_neg (by simpa [or_assoc] using hbad)]
    by_cases hkind : (s.queue q).kind = 2
    · unfold State.updQueue
      simp only [hkind, beq_self_eq_true, if_true]
    · unfold State.updQueue
      simp only [beq_false_of_ne hkind, Bool.false_eq_true, if_false, if_neg hkind]

/-! ## Outcomes -/

theorem conclude_queue (s : State) (q : QueueNum) (seq : W32) (st d : Nat) : (s.conclude q seq st d).queue q =
    let y : Queue := { s.queue q with entries := (s.queue q).entries.map (fun e => if e.seq = seq ∧ e.outcome = none
      then { e with outcome := some (BitVec.ofNat 8 st, BitVec.ofNat 7 d), commit := s.tl.now } else e) }
    if haltsQueue st then { y with halted := true, haltStatus := BitVec.ofNat 8 st } else y := by
  have hentry (e : QEntry) : (if e.seq = seq then (if e.outcome.isSome then e
      else { e with outcome := some (BitVec.ofNat 8 st, BitVec.ofNat 7 d), commit := s.tl.now }) else e) =
      if e.seq = seq ∧ e.outcome = none then { e with outcome := some (BitVec.ofNat 8 st, BitVec.ofNat 7 d), commit := s.tl.now } else e := by
    by_cases hseq : e.seq = seq
    · cases hout : e.outcome <;> simp [hseq]
    · simp [hseq]
  have hupd : ((s.updEntry q seq (fun e => if e.outcome.isSome then e
      else { e with outcome := some (BitVec.ofNat 8 st, BitVec.ofNat 7 d), commit := s.tl.now })).queue q) =
      { s.queue q with entries := (s.queue q).entries.map (fun e => if e.seq = seq ∧ e.outcome = none
        then { e with outcome := some (BitVec.ofNat 8 st, BitVec.ofNat 7 d), commit := s.tl.now } else e) } := by
    rw [State.updEntry, State.queue_updQueue_same]
    simp only [hentry]
  unfold State.conclude
  dsimp only
  split
  · rw [State.queue_updQueue_same, hupd]
  · exact hupd

/-! ## The start of an entry -/

/-- The entry that a queue's read position names. -/
def headEntry (s : State) (q : QueueNum) (ws : List W64) : QEntry := { seq := (s.queue q).next, words := ws, since := s.tl.now }

/-- The state in which the read position is past that entry (R359). -/
def headTaken (s s1 : State) (q : QueueNum) (ws : List W64) : State :=
  s1.updQueue q (fun y => { y with
    next := y.next + 1, entries := y.entries ++ [headEntry s q ws], marks := y.marks.filter (· != (headEntry s q ws).seq)
    ahead := y.ahead.filter (fun a => a.1 != (headEntry s q ws).seq) })

/-- A queue's next entry may start: its words are at hand, nothing before it bars it, no ABORT names it, its context runs. -/
def EntryGo (s s1 : State) (q : QueueNum) (ws : List W64) : Prop :=
  bit (s.queue q).base 0 = true ∧ (s.queue q).halted = false ∧ (s.queue q).kind ≠ 2 ∧ (s.queue q).unstarted ≠ 0 ∧
    (∀ e ∈ (s.queue q).entries, e.bars = false) ∧ s.readSlot q (s.queue q).next = (.words ws, s1) ∧ (s.queue q).next ∉ (s.queue q).marks ∧
    s.canStart (s.queue q) (headEntry s q ws).op ((headEntry s q ws).w 0) = true ∧
    bit ((headTaken s s1 q ws).ctx (s.queue q).niche (s.queue q).ctx).control 0 = true

theorem startEntry_eq {s s1 : State} {q : QueueNum} {ws : List W64} (h : EntryGo s s1 q ws) {p : Nat → Bool}
    (hp : p (headEntry s q ws).op = true) (run : State → QEntry → State) : s.startEntry q p run =
      if entryFault (s.queue q).kind (headEntry s q ws) != 0 then
        (headTaken s s1 q ws).conclude q (headEntry s q ws).seq 8 (entryFault (s.queue q).kind (headEntry s q ws))
      else run (headTaken s s1 q ws) (headEntry s q ws) := by
  obtain ⟨hbase, hhalted, hkind, hun, hbars, hread, hmark, hcan, hctx⟩ := h
  have hnoBar : (s.queue q).entries.any (·.bars) = false := by
    rw [List.any_eq_false]
    exact fun e he => by simp [hbars e he]
  have hopen : ¬ (!bit (s.queue q).base 0 || (s.queue q).halted || (s.queue q).kind == 2 || (s.queue q).unstarted == 0 ||
      (s.queue q).entries.any (·.bars)) = true := by
    simp [hbase, hhalted, hkind, hun, hnoBar]
  have hmarked : (s.queue q).marks.contains (s.queue q).next = false := by simpa using hmark
  have hword : p (QEntry.op { seq := (s.queue q).next, words := ws, since := s.tl.now }) = true := hp
  have hstart : s.canStart (s.queue q) (QEntry.op { seq := (s.queue q).next, words := ws, since := s.tl.now })
      (QEntry.w { seq := (s.queue q).next, words := ws, since := s.tl.now } 0) = true := hcan
  unfold State.startEntry
  dsimp only
  rw [if_neg hopen, hread]
  dsimp only
  rw [hword, hmarked, hstart, Bool.not_true, if_neg Bool.false_ne_true, Bool.and_false, if_neg Bool.false_ne_true, Bool.false_and,
    if_neg Bool.false_ne_true, if_neg Bool.false_ne_true]
  have hrun : ¬ (!bit ((headTaken s s1 q ws).ctx (s.queue q).niche (s.queue q).ctx).control 0) = true := by simp [hctx]
  exact if_neg hrun

/-- An entry without a fault of its own runs. -/
theorem startEntry_go {s s1 : State} {q : QueueNum} {ws : List W64} (h : EntryGo s s1 q ws) {p : Nat → Bool}
    (hp : p (headEntry s q ws).op = true) (hok : entryFault (s.queue q).kind (headEntry s q ws) = 0) (run : State → QEntry → State) :
    s.startEntry q p run = run (headTaken s s1 q ws) (headEntry s q ws) := by
  rw [startEntry_eq h hp, hok, bne_self_eq_false, if_neg Bool.false_ne_true]

theorem entryFault_reserved {e : QEntry} (h : 8 ≤ e.op) (kind : Nat) : entryFault kind e = 3 := by
  rw [entryFault]
  exact if_pos (Or.inl h)

/-! ## LAUNCH -/

/-- A maquette that is not to be cast anew is launched as it is. -/
theorem recast_none {m : Maquette} (h : m.recast = false) (s : State) (n : NicheNum) (k : BitVec 12) : s.recast n k m = some (m, s) := by
  rw [State.recast, h, Bool.not_false, if_pos rfl]

/-- The state in which a launch of a maquette is under way (R367). -/
def launched (t : State) (q : QueueNum) (e : QEntry) (m : Maquette) : State :=
  let n := (t.queue q).niche
  let k : Launch :=
    { queue := q, seq := e.seq, niche := n, ctx := (t.queue q).ctx, maq := e.maq, bank := m.current, seed := e.w 3,
      super := (t.queue q).kind == 0, prev := m.lastLaunch,
      nodes := m.nodes.map (fun _ => { phase := .waiting, toWrite := [], open_ := [] }), ended := none }
  let m' : Maquette := if m.current then { m with capt1 := m.capt1 + 1 } else { m with capt0 := m.capt0 + 1 }
  let u := t.setMaq n e.maq { m' with lastLaunch := some t.fe.nextLaunch }
  let fe : FrontEnd := { u.fe with nextLaunch := t.fe.nextLaunch + 1, launches := Sparse.put t.fe.launches t.fe.nextLaunch k }
  ({ u with fe := fe } : State).updEntry q e.seq (fun e => { e with launch := some t.fe.nextLaunch })

theorem runLaunch_go {t : State} {q : QueueNum} {e : QEntry} {m : Maquette} (hmaq : t.maq? (t.queue q).niche e.maq = some m)
    (hres : m.resident = false) (hre : m.recast = false) : t.runLaunch q e = launched t q e m := by
  unfold State.runLaunch
  dsimp only
  rw [hmaq]
  dsimp only
  rw [if_neg (by simp [hres]), recast_none hre]
  rfl

/-- Settles O44. -/
theorem queueEntries : Obligations.QueueEntries := by
  unfold Obligations.QueueEntries
  intro s q x
  refine ⟨fun a tail => ⟨fun hmay => ?_, fun hmay => ?_⟩, conclude_queue s q, ?_⟩
  · rw [exec_doorbell, execDoorbell, hmay, if_neg Bool.false_ne_true]
  · intro d
    have hsize : x.size = 2 ^ (x.config.toNat / 4 % 32) := rfl
    rw [exec_doorbell, execDoorbell, if_pos hmay, ring_eq]
    refine ⟨fun hbad => ?_, fun hen hd hle => ?_⟩
    · rw [if_pos (by exact hbad)]
    · have hgood : ¬ (bit x.base 0 = false ∨ newEntries x tail = 0 ∨ x.size < newEntries x tail) := by
        rintro (hb | hz | hl)
        · exact absurd (hen.symm.trans hb) (by decide)
        · exact hd hz
        · exact Nat.not_lt.mpr hle hl
      rw [if_neg hgood]
      exact ⟨fun hkind => by rw [if_neg hkind], fun hkind => by rw [if_pos hkind]; rfl⟩
  · intro ws s1 hbase hhalted hkind hun hbars hread hmark e t n f hcan hctx
    have hgo : EntryGo s s1 q ws := ⟨hbase, hhalted, hkind, hun, hbars, hread, hmark, hcan, hctx⟩
    have hf : fld ((headEntry s q ws).w 3) 0 10 = f := by simp [fld, f, e, headEntry, x]
    refine ⟨fun hop => ?_, fun hok => ⟨fun hop => ?_, fun hop => ?_, fun hop hremote => ?_, fun hop hmaq hidle => ?_, fun m hop hmaq hres hre => ?_⟩⟩
    · rw [exec_reservedOpcode, execReservedOpcode, startEntry_eq hgo (by exact decide_eq_true hop), entryFault_reserved (e := headEntry s q ws) hop, if_pos (by decide)]
      rfl
    · rw [exec_nop, execNop, startEntry_go hgo (by exact beq_iff_eq.mpr hop) hok]
      rfl
    · rw [exec_fenceWait, execFenceWait, startEntry_go hgo (by exact beq_iff_eq.mpr hop) hok]
      exact ⟨fun hle => congrArg Host.Outcome.next (if_pos (by rw [hf]; exact hle)),
        fun hlt => congrArg Host.Outcome.next (if_neg (by rw [hf]; exact Nat.not_le.mpr hlt))⟩
    · rw [exec_fenceSignal, execFenceSignal, startEntry_go hgo (by exact beq_iff_eq.mpr hop) hok]
      dsimp only
      rw [if_pos (by rw [show bit ((headEntry s q ws).w 3) 24 = false from hremote]; rfl), hf]
      rfl
    · rw [exec_remove, execRemove, startEntry_go hgo (by exact beq_iff_eq.mpr hop) hok]
      have hsome : ¬ (t.maq? n e.maq).isNone = true := by simpa using hmaq
      have hfree : ¬ t.maqBusy n e.maq = true := by simp [hidle]
      exact congrArg Host.Outcome.next ((if_neg hsome).trans (if_neg hfree))
    · rw [exec_launch, execLaunch, startEntry_go hgo (by exact beq_iff_eq.mpr hop) hok]
      exact congrArg Host.Outcome.next (runLaunch_go hmaq hres hre)

end Sys2Proof.Proofs
end

section
/-! SUPPORT. INSTALL, PATCH and ABORT (14_front_end.md R364 to R366, R376 to R379). -/

namespace Sys2Proof.Proofs

open Sys2Proof Sys2Proof.Machine

/-- An operation of one entry at a time, which no entry of that opcode is under way for, starts as any entry does. -/
theorem startOrResume_go {s s1 : State} {q : QueueNum} {ws : List W64} (h : EntryGo s s1 q ws) {op : Nat}
    (hop : (headEntry s q ws).op = op) (hnone : ∀ g ∈ (s.queue q).entries, g.op = op → g.outcome ≠ none)
    (hok : entryFault (s.queue q).kind (headEntry s q ws) = 0) (run : State → QEntry → State) :
    s.startOrResume q op run = run (headTaken s s1 q ws) (headEntry s q ws) := by
  have hfind : (s.queue q).entries.find? (fun e => e.op == op && e.outcome.isNone) = none := by
    rw [List.find?_eq_none]
    intro g hg hgo
    rw [Bool.and_eq_true, beq_iff_eq, Option.isNone_iff_eq_none] at hgo
    exact hnone g hg hgo.1 hgo.2
  rw [State.startOrResume, hfind]
  exact startEntry_go h (p := fun o => o == op) (beq_iff_eq.mpr hop) hok run

/-! ## INSTALL -/

theorem runInstall_go {t t2 t3 : State} {q : QueueNum} {e : QEntry} {bs : List Byte} {img : Image} {lists : List (Nat × List CastEntry)}
    (halign : (e.w 5).toNat % 0x1_0000 = 0) (htier : t.tierOf (e.w 5).toNat (fld (e.w 6) 0 40) ≠ none)
    (hfw : inFirmware (e.w 5).toNat (fld (e.w 6) 0 40) = false)
    (hgather : t.gather q e false (e.w 3).toNat (fld (e.w 4) 0 32) true = (.bytes bs, t2))
    (himg : checkImage bs (fld (e.w 6) 0 40) = .ok img) (hidle : t2.maqBusy (t.queue q).niche e.maq = false)
    (hlines : t2.linesHeld (e.w 5).toNat (0x2_0000 + bs.length) true = []) (hlists : t2.readCastLists q e img.lists = (some lists, t3)) :
    t.runInstall q e = t3.installImage q e bs img lists := by
  have hplace : ¬ ((e.w 5).toNat % 0x1_0000 ≠ 0 ∨ (t.tierOf (e.w 5).toNat (fld (e.w 6) 0 40)).isNone = true ∨
      inFirmware (e.w 5).toNat (fld (e.w 6) 0 40) = true) := by
    rw [Option.isNone_iff_eq_none, hfw]
    simp [halign, htier]
  unfold State.runInstall
  dsimp only
  rw [if_neg hplace, hgather]
  dsimp only
  rw [himg]
  dsimp only
  rw [hidle, hlines, if_neg Bool.false_ne_true, List.isEmpty_nil, Bool.not_true, if_neg Bool.false_ne_true, hlists]

/-- Objects that are not to be pinned ask nothing of the placement unit. -/
theorem pinObjects_none {objs : List ObjRec} (h : ∀ o ∈ objs, o.pin = false) (s : State) (n : NicheNum) :
    objs.foldl (fun s o => s.pinObject n o) s = s := by
  induction objs generalizing s with
  | nil => rfl
  | cons o objs ih =>
    have hpin : s.pinObject n o = s := by
      unfold State.pinObject
      dsimp only
      rw [h o List.mem_cons_self, Bool.not_false, if_pos rfl]
    rw [List.foldl_cons, hpin]
    exact ih (fun o ho => h o (List.mem_cons_of_mem _ ho)) s

/-- What INSTALL leaves once its nodes and lists are cast. -/
theorem installImage_cast {s u v : State} {q : QueueNum} {e : QEntry} {bs : List Byte} {img : Image} {lists : List (Nat × List CastEntry)}
    {cast : List (List Nat)} (hcast : s.castRanks (s.queue q).niche img.nodes = some (cast, u))
    (hlists : u.castLists (s.queue q).niche img.nodes cast lists = some v) (hpin : ∀ o ∈ img.objs, o.pin = false) :
    let area := (e.w 5).toNat
    let m := ((v.mem.zero area 0x1_0000).store area img.bank).store (area + 0x2_0000) bs
    let maq : Maquette :=
      { area := area, nodes := img.nodes, reds := img.reds, objs := img.objs, lists := img.lists, resident := img.resident,
        paramVa := img.paramVa, current := false, capt0 := 0, capt1 := 0, cast := cast, recast := false, lastLaunch := none }
    s.installImage q e bs img lists = ((({ v with mem := m } : State).scramble (area + 0x2_0000 + bs.length)
      (256 * img.nodes.length)).setMaq (s.queue q).niche e.maq maq).conclude q e.seq 1 0 := by
  intro area m maq
  unfold State.installImage
  dsimp only
  rw [hcast]
  dsimp only
  rw [hlists]
  dsimp only
  rw [pinObjects_none hpin]

/-! ## PATCH -/

theorem runPatch_go {t t2 : State} {q : QueueNum} {e : QEntry} {m : Maquette} {b : Bool} {bs : List Byte}
    (hmaq : t.maq? (t.queue q).niche e.maq = some m) (hbank : m.patchBank = some b)
    (hgather : t.gather q e ((t.queue q).kind == 0 && bit (e.w 3) 63)
      (if (t.queue q).kind == 0 && bit (e.w 3) 63 then fld (e.w 3) 0 62 else (e.w 3).toNat) (fld (e.w 4) 16 17) false = (.bytes bs, t2))
    (hnew : t2.linesHeld (m.bankAt b) 0x1_0000 true = []) (hold : t2.linesHeld (m.bankAt m.current) 0x1_0000 false = []) :
    let mem := if b = m.current then t2.mem else t2.mem.copyFrom t2.mem (m.bankAt m.current) (m.bankAt b) 0x1_0000
    let w := mem.store (m.bankAt b + fld (e.w 4) 0 16) bs
    t.runPatch q e = (({ t2 with mem := w } : State).setMaq (t.queue q).niche e.maq { m with current := b }).conclude q e.seq 1 0 := by
  intro mem w
  unfold State.runPatch
  dsimp only
  rw [hmaq]
  dsimp only
  rw [hbank]
  dsimp only
  rw [hgather]
  dsimp only
  rw [hnew, hold, List.append_nil, List.eraseDups_nil, List.isEmpty_nil, Bool.not_true, if_neg Bool.false_ne_true]

/-! ## ABORT -/

/-- An ABORT that names an entry which its queue may hold: what it does is settled by that entry. -/
def AbortNames (t : State) (q : QueueNum) (e : QEntry) (tq : QueueNum) (seq : W32) : Prop :=
  BitVec.ofNat 12 (fld (e.w 3) 0 12) = tq ∧ BitVec.ofNat 32 (fld (e.w 4) 0 32) = seq ∧
    ((t.queue q).kind ≠ 1 ∨ (t.queue tq).niche = (t.queue q).niche) ∧
    0 < ((t.queue tq).tail - seq).toNat ∧ ((t.queue tq).tail - seq).toNat ≤ 2 ^ 31

/-- The ABORT waits for the entry that it names. -/
def abortWaits (t : State) (q : QueueNum) (e : QEntry) (tq : QueueNum) (seq : W32) : State :=
  t.updEntry q e.seq (fun e => { e with target := some (tq, seq) })

theorem abort_named {t : State} {q tq : QueueNum} {e : QEntry} {seq : W32} (h : AbortNames t q e tq seq) :
    ¬ (((t.queue q).kind == 1 && (t.queue tq).niche != (t.queue q).niche) || ((t.queue tq).tail - seq).toNat == 0 ||
      decide (2 ^ 31 < ((t.queue tq).tail - seq).toNat)) = true := by
  obtain ⟨-, -, hniche, hpos, hle⟩ := h
  simp only [Bool.or_eq_true, Bool.and_eq_true, beq_iff_eq, bne_iff_ne, decide_eq_true_eq, not_or, not_and, not_not]
  exact ⟨⟨fun hk => hniche.resolve_left (not_not_intro hk), hpos.ne'⟩, Nat.not_lt.mpr hle⟩

theorem runAbort_final {t : State} {q tq : QueueNum} {e g : QEntry} {seq : W32} (h : AbortNames t q e tq seq)
    (hfind : (t.queue tq).entries.find? (fun g => g.seq == seq) = some g) (hfinal : g.isFinal = true) :
    t.runAbort q e = t.conclude q e.seq 3 0 := by
  have hgo := abort_named h
  obtain ⟨rfl, rfl, -⟩ := h
  unfold State.runAbort
  dsimp only
  rw [if_neg hgo, hfind]
  exact if_pos hfinal

theorem runAbort_running {t : State} {q tq : QueueNum} {e g : QEntry} {seq : W32} (h : AbortNames t q e tq seq)
    (hfind : (t.queue tq).entries.find? (fun g => g.seq == seq) = some g) (hfinal : g.isFinal = false) (hout : g.outcome = none)
    (hop : g.op = 2 ∨ g.op = 5) : t.runAbort q e = match g.launch with
      | some l => (abortWaits t q e tq seq).abortLaunch l
      | none => (abortWaits t q e tq seq).endWait tq g 2 2 0 := by
  have hgo := abort_named h
  have hends : (g.op == 2 || g.op == 5) = true := by simpa using hop
  obtain ⟨rfl, rfl, -⟩ := h
  unfold State.runAbort
  dsimp only
  rw [if_neg hgo, hfind]
  dsimp only
  rw [hfinal, if_neg Bool.false_ne_true, hends, if_pos rfl, hout]
  rfl

theorem runAbort_marks {t : State} {q tq : QueueNum} {e : QEntry} {seq : W32} (h : AbortNames t q e tq seq)
    (hfind : (t.queue tq).entries.find? (fun g => g.seq == seq) = none)
    (hahead : ((t.queue tq).tail - seq).toNat ≤ ((t.queue tq).tail - (t.queue tq).next).toNat) (hen : bit (t.queue tq).base 0 = true) :
    t.runAbort q e = (abortWaits t q e tq seq).updQueue tq (fun y => { y with marks := y.marks ++ [seq] }) := by
  have hgo := abort_named h
  obtain ⟨rfl, rfl, -⟩ := h
  unfold State.runAbort
  dsimp only
  rw [if_neg hgo, hfind]
  dsimp only
  rw [if_neg (Nat.not_lt.mpr hahead), hen, Bool.not_true, if_neg Bool.false_ne_true]
  rfl

/-- Settles O45. -/
theorem maquettesAndAborts : Obligations.MaquettesAndAborts := by
  unfold Obligations.MaquettesAndAborts
  intro s s1 q ws x hbase hhalted hkind hun hbars hread hmark e t y n hcan hctx hok
  have hgo : EntryGo s s1 q ws := ⟨hbase, hhalted, hkind, hun, hbars, hread, hmark, hcan, hctx⟩
  have hlow (w : W64) (k : Nat) : fld w 0 k = w.toNat % 2 ^ k := by simp [fld]
  refine ⟨?_, ?_, fun hop => ?_⟩
  · intro bs t2 t3 img lists area bytes hop hnone halign htier hfw hgather himg _ hidle hlines hlists hniche
    have hbytes : fld (e.w 6) 0 40 = bytes := hlow _ _
    refine ⟨?_, fun cast u v hcast hcl hpin => ?_⟩
    · rw [exec_install, execInstall, startOrResume_go hgo hop hnone hok]
      exact congrArg Host.Outcome.next (runInstall_go halign (by rw [← hbytes] at htier; exact htier) (by rw [← hbytes] at hfw; exact hfw) hgather
        (by rw [← hbytes] at himg; exact himg) hidle hlines hlists)
    · rw [← hniche] at hcast hcl
      have himage := installImage_cast (e := e) (bs := bs) hcast hcl hpin
      rw [hniche] at himage
      exact himage
  · intro m b bs t2 host hop hnone hmaq hbank hgather hnew hold
    rw [exec_patch, execPatch, startOrResume_go hgo hop hnone hok, ← hlow (e.w 4) 16]
    exact congrArg Host.Outcome.next (runPatch_go hmaq hbank hgather hnew hold)
  · intro tq seq z behind wait hniche hpos hle
    have hnames : AbortNames t q e tq seq := ⟨by rw [hlow], by rw [hlow], hniche, hpos, hle⟩
    have habort : exec (.abort q) s = .next (t.runAbort q e) := by
      rw [exec_abort, execAbort, startEntry_go hgo (by exact beq_iff_eq.mpr hop) hok]
      rfl
    rw [habort]
    refine ⟨fun g hfind => ⟨fun hfinal => ?_, fun hfinal hout => ⟨fun hgop hl => ?_, fun l hgop hl => ?_⟩⟩, fun hfind hahead hen => ?_⟩
    · rw [runAbort_final hnames hfind hfinal]
    · rw [runAbort_running hnames hfind hfinal hout (Or.inr hgop), hl]
      rfl
    · rw [runAbort_running hnames hfind hfinal hout (Or.inl hgop), hl]
      rfl
    · rw [runAbort_marks hnames hfind hahead hen]
      rfl

end Sys2Proof.Proofs
end

section
/-! SUPPORT. Final status, queue registers, fence timeouts and cycles (14_front_end.md R380 to R390). -/

namespace Sys2Proof.Proofs

open Sys2Proof Sys2Proof.Machine

/-! ## Final status -/

theorem payHead_none {s : State} {q : QueueNum} (h : (s.queue q).headOwed = false) : s.payHead q = s := by
  rw [State.payHead, h, Bool.false_and, if_neg Bool.false_ne_true]

/-- No completion word is left to perform. -/
theorem sendCw_none {s : State} {q : QueueNum} {e : QEntry} {st : Byte} {d : BitVec 7} (hout : e.outcome = some (st, d))
    (h : bit (e.w 0) 10 = false ∨ st ≠ 1 ∨ e.cwSent = true) : s.sendCw q e = (true, s) := by
  have hdone : (e.cwSent || !bit (e.w 0) 10 || e.outcome.map (·.1) != some 1) = true := by
    rw [hout]
    rcases h with h | h | h
    · simp [h]
    · simp [show ¬ st = 1#8 from h]
    · simp [h]
  rw [State.sendCw, if_pos hdone]

theorem entryFinal_go {s : State} {q : QueueNum} {seq : W32} {e : QEntry} {st : Byte} {d : BitVec 7} (howed : (s.queue q).headOwed = false)
    (hfind : (s.queue q).entries.find? (fun e => e.seq == seq) = some e) (hout : e.outcome = some (st, d)) (hopen : e.isFinal = false)
    (hcw : bit (e.w 0) 10 = false ∨ st ≠ 1 ∨ e.cwSent = true) (hidle : (s.tr.ops.any (fun o => o.purpose == .completion q seq)) = false)
    (hready : s.endWaits q e = none) : exec (.entryFinal q seq) s = .next (s.finishEntry q e st.toNat) := by
  rw [exec_entryFinal, execEntryFinal, payHead_none howed]
  simp only [hfind, hout, hopen, sendCw_none hout hcw, hidle, hready, Bool.false_eq_true, if_false]

/-! ## Queue registers -/

/-- Clearing ENABLE, and nothing else, of a base. -/
theorem masked_disable (x : W64) : masked (1 &&& (3 ||| mask 6 56)) x 0 = setBit x 0 false := by
  refine BitVec.eq_of_getLsbD_eq (fun i hi => ?_)
  have hone : bit (1 &&& (3 ||| mask 6 56) : W64) i = decide (i = 0) := by
    have hval : (1 &&& (3 ||| mask 6 56) : W64) = mask 0 1 := by decide
    rw [hval, bit_mask_low (by decide)]
    simp
  refine (bit_masked _ x 0 i).trans ?_
  refine Eq.trans ?_ (bit_setBit x 0 i false hi).symm
  rw [hone]
  simp [bit]

theorem writeSqBase_enable {s : State} {q : QueueNum} {v : W64} (hoff : bit (s.queue q).base 0 = false) (hstate : (s.queue q).state = 0)
    (hring : ringInFirmware { s.queue q with base := masked (3 ||| mask 6 56) (s.queue q).base v } = false)
    (hen : bit (masked (3 ||| mask 6 56) (s.queue q).base v) 0 = true) :
    s.writeSqBase q (BitVec.allOnes 64) v = s.enableQueue q (masked (3 ||| mask 6 56) (s.queue q).base v) := by
  unfold State.writeSqBase
  dsimp only
  rw [BitVec.allOnes_and, hring, if_neg Bool.false_ne_true, hoff, if_neg Bool.false_ne_true, hstate, bne_self_eq_false,
    if_neg Bool.false_ne_true, if_pos hen]

theorem writeSqBase_disable {s : State} {q : QueueNum} (hon : bit (s.queue q).base 0 = true)
    (hring : ringInFirmware { s.queue q with base := setBit (s.queue q).base 0 false } = false) :
    s.writeSqBase q 1 0 = s.disableQueue q := by
  have hclear : bit (setBit (s.queue q).base 0 false) 0 = false := by rw [bit_setBit _ _ _ _ (by decide), if_pos rfl]
  unfold State.writeSqBase
  dsimp only
  rw [masked_disable, hring, if_neg Bool.false_ne_true, if_pos hon, hclear, if_neg Bool.false_ne_true, beq_self_eq_true, if_pos rfl]

/-- HEAD of a ring header written at once. -/
theorem putHead_done {s t : State} {q : QueueNum} {again : Bool}
    (h : s.queueWrite q (bit (s.queue q).base 1) (fld (s.queue q).base 6 56 * 64) (leBytes 8 (s.queue q).head.toNat) (.ring q) = (.done, t)) :
    s.putHead q again = t.updQueue q (fun x => { x with headOwed := false }) := by
  rw [State.putHead, h]

/-- RESUME of a queue that owes no HEAD. -/
theorem resumeQueue_go {s : State} {q : QueueNum} (hhalted : (s.queue q).halted = true) (howed : (s.queue q).headOwed = false) :
    s.resumeQueue q = s.updQueue q (fun x => { x with halted := false, ahead := x.ahead.filter (fun a => a.2.isSome) }) := by
  unfold State.resumeQueue
  dsimp only
  rw [hhalted, Bool.not_true, if_neg Bool.false_ne_true, payHead_none (by rw [State.queue_updQueue_same]; exact howed)]

theorem writeSqStatus_resume (s : State) (q : QueueNum) : s.writeSqStatus q (mask 12 1) (mask 12 1) = s.resumeQueue q := by
  have h11 : bit (mask 12 1 &&& mask 12 1) 11 = false := by decide
  have h12 : bit (mask 12 1 &&& mask 12 1) 12 = true := by decide
  have h13 : bit (mask 12 1 &&& mask 12 1) 13 = false := by decide
  unfold State.writeSqStatus
  dsimp only
  rw [h11, h12, h13, if_neg Bool.false_ne_true, if_pos rfl, if_neg Bool.false_ne_true]

theorem writeSqStatus_reset (s : State) (q : QueueNum) : s.writeSqStatus q (mask 13 1) (mask 13 1) = s.resetQueue q := by
  have h11 : bit (mask 13 1 &&& mask 13 1) 11 = false := by decide
  have h12 : bit (mask 13 1 &&& mask 13 1) 12 = false := by decide
  have h13 : bit (mask 13 1 &&& mask 13 1) 13 = true := by decide
  unfold State.writeSqStatus
  dsimp only
  rw [h11, h12, h13, if_neg Bool.false_ne_true, if_neg Bool.false_ne_true, if_pos rfl]

/-- Settles O46. -/
theorem queueControl : Obligations.QueueControl := by
  unfold Obligations.QueueControl
  intro s q x
  refine ⟨fun seq e st d howed hfind hout hopen hcw hidle hready => entryFinal_go howed hfind hout hopen hcw hidle hready,
    fun a v => ⟨fun ha => ⟨?_, ?_, ?_, ?_⟩, fun ha => ⟨?_, fun hon hring => ?_, fun hhalted howed => ?_, ?_, fun hempty => ?_⟩⟩,
    ?_, ?_, fun a n f v => ⟨fun ha => ?_, fun ha => ?_⟩⟩
  · rw [exec_queueEnable, execQueueEnable, ha, if_neg Bool.false_ne_true]
  · rw [exec_queueDisable, execQueueDisable, ha, if_neg Bool.false_ne_true]
  · rw [exec_queueResume, execQueueResume, ha, if_neg Bool.false_ne_true]
  · rw [exec_queueReset, execQueueReset, ha, if_neg Bool.false_ne_true]
  · intro w y u hoff hstate hring hen
    have hu : u.queue q = y := State.queue_updQueue_same s q _
    refine ⟨?_, fun t hdone => putHead_done (by rw [hu]; exact hdone)⟩
    rw [exec_queueEnable, execQueueEnable, if_pos ha, writeSqBase_enable hoff hstate (by exact hring) (by exact hen)]
    rfl
  · rw [exec_queueDisable, execQueueDisable, if_pos ha, writeSqBase_disable hon hring]
    rfl
  · rw [exec_queueResume, execQueueResume, if_pos ha, writeSqStatus_resume, resumeQueue_go hhalted howed]
  · rw [exec_queueReset, execQueueReset, if_pos ha, writeSqStatus_reset]
  · unfold State.resetQueue
    dsimp only
    rw [if_pos (by rw [show (s.queue q).head = (s.queue q).tail from hempty, beq_self_eq_true]; rfl)]
  · intro e hfind ms hms hdue
    rw [exec_fenceTimeout, execFenceTimeout]
    have hfind' : (s.queue q).entries.find? (·.onFence) = some e := hfind
    simp only [hfind']
    exact congrArg Host.Outcome.next (if_pos ⟨hms, hdue⟩)
  · intro n qs t set hset
    rw [exec_fenceCycle, execFenceCycle]
    exact congrArg Host.Outcome.next (if_neg (by rw [List.isEmpty_iff]; exact hset))
  · rw [exec_feFenceWrite, execFeFenceWrite, if_pos ha, State.writeFence, masked_all]
    rfl
  · rw [exec_feFenceWrite, execFeFenceWrite, ha, if_neg Bool.false_ne_true]

end Sys2Proof.Proofs
end

section
/-! SUPPORT. Release, entries and completion of the nodes of a launch (14_front_end.md R370 to R374). -/

namespace Sys2Proof.Proofs

open Sys2Proof Sys2Proof.Machine

theorem depInject_unarmed {s : State} (h : bit s.err.inject 0 = false) (l node : Nat) : s.depInject l node = s := by
  rw [State.depInject, h, Bool.not_false, if_pos rfl]

/-- A node whose dependences hold nothing and are sound is released where it is the first that is ready. -/
theorem nodeRelease_go {s u : State} {l node : Nat} {x : Launch} {m : Maquette} {r : NodeRec} {place : List (CoreNum × Nat)}
    (hl : s.launch? l = some x) (hm : s.maq? x.niche x.maq = some m) (hr : m.nodes[node]? = some r) (hinj : bit s.err.inject 0 = false)
    (hdeps : s.depsHeld l node = []) (hsound : s.poisonedDep l node = none) (hfirst : s.firstReady = some (l, node))
    (hplace : s.placeRanks x m l node r = some (place, u)) :
    let k : NodeRun := { phase := .released, toWrite := r.entries, open_ := r.entries, place := place }
    exec (.nodeRelease l node) s = .next ((u.setLaunch l { x with nodes := x.nodes.set node k }).count 115 1) := by
  rw [exec_nodeRelease, execNodeRelease, depInject_unarmed hinj]
  simp only [hdeps, hsound, hfirst, hl, hm, hr, hplace, List.isEmpty_nil, Bool.not_true, Bool.false_eq_true, if_false, bne_self_eq_false]

theorem nodeRelease_poisoned {s : State} {l node pa : Nat} {y : Launch} (hinj : bit s.err.inject 0 = false)
    (hdeps : s.depsHeld l node = []) (hbad : s.poisonedDep l node = some (y, pa)) : exec (.nodeRelease l node) s =
      .next ((s.plinthExc y.niche 6 0 (some (node, y.maq)) (paDetail pa)).endLaunch l 0xD) := by
  rw [exec_nodeRelease, execNodeRelease, depInject_unarmed hinj]
  simp only [hdeps, hbad, List.isEmpty_nil, Bool.not_true, Bool.false_eq_true, if_false]

/-- What ENGINE_ENTRY_WRITE of a rank that waits to be written does. -/
theorem entryWrite_eq {s : State} {l node rank : Nat} {e : Eng} {x : Launch} {m : Maquette} {r : NodeRec} {k : NodeRun} {c : CoreNum}
    {grants : Nat} (hl : s.launch? l = some x) (hm : s.maq? x.niche x.maq = some m) (hr : m.nodes[node]? = some r)
    (hk : x.nodes[node]? = some k) (hp : k.place[rank]? = some (c, grants)) (hend : x.ended = none) (hw : (rank, e) ∈ k.toWrite) :
    exec (.engineEntryWrite l node rank e) s = .next (if !(s.granted x.niche).contains (regionOf c).toNat then s.endLaunch l 0xD
      else if (s.region (regionOf c)).holder != some (x.niche, x.ctx) || (s.region (regionOf c)).preempting ||
          (s.region (regionOf c)).restoring.isSome || s.reservedSlot (regionOf c) || 16 ≤ ((s.core c).engQ e).length then s
      else (s.updCore c (fun y => y.pushQ (s.entryFor x m l node rank r grants e))).setLaunch l
        { x with nodes := x.nodes.set node { k with toWrite := k.toWrite.filter (· != (rank, e)) } }) := by
  rw [exec_engineEntryWrite, execEngineEntryWrite]
  simp only [hl, hk, hm, hp, hr]
  rw [if_neg (by simp [hend, hw])]

/-- What NODE_COMPLETE of a node that is over does: the last node is the commit point of its launch. -/
theorem nodeComplete_eq {s : State} {l node : Nat} {x : Launch} {m : Maquette} {r : NodeRec} {k : NodeRun} (hl : s.launch? l = some x)
    (hm : s.maq? x.niche x.maq = some m) (hr : m.nodes[node]? = some r) (hk : x.nodes[node]? = some k) (hend : x.ended = none)
    (hover : s.nodeOver l node k r = true) :
    let y : Launch := { x with nodes := x.nodes.set node { k with phase := .complete } }
    let t := (s.setLaunch l y).releaseGrants l (fun g => g.node == node)
    exec (.nodeComplete l node) s = .next (if y.nodes.all (fun k => decide (k.phase = .complete)) then t.commit l y else t) := by
  intro y t
  rw [exec_nodeComplete, execNodeComplete]
  simp only [hl, hk, hm, hr, Option.bind_some]
  exact congrArg Host.Outcome.next (if_neg (by simp [hend, hover]))

/-- Settles O47. -/
theorem launchNodes : Obligations.LaunchNodes := by
  unfold Obligations.LaunchNodes
  intro s l node x m r hl hm hr
  refine ⟨fun place u => nodeRelease_go hl hm hr, fun y pa => nodeRelease_poisoned, fun k rank c grants e hk hp hend hw => ?_,
    fun k hk hend hover => ?_⟩
  · rw [entryWrite_eq hl hm hr hk hp hend hw]
    refine ⟨fun hout => ?_, ?_⟩
    · rw [if_pos (by simpa using hout)]
    · intro hin g hholder hpre hrest hslot hroom
      rw [if_neg (by simpa using hin), if_neg (by simp [show (s.region (regionOf c)).holder = _ from hholder,
        show (s.region (regionOf c)).preempting = _ from hpre, show (s.region (regionOf c)).restoring = _ from hrest, hslot, Nat.not_le.mpr hroom])]
  · intro y t
    rw [nodeComplete_eq hl hm hr hk hend hover]
    refine ⟨fun hmore => ?_, fun hall => ?_⟩
    · exact congrArg Host.Outcome.next (if_neg (by rw [hmore]; decide))
    · exact congrArg Host.Outcome.next (if_pos hall)

end Sys2Proof.Proofs
end

section
/-! SUPPORT. The registers of niches (15_niches.md R391 to R396, R412, R415). -/

namespace Sys2Proof.Proofs

open Sys2Proof Sys2Proof.Machine

theorem updNiche_updNiche (s : State) (n : NicheNum) (f g : Niche → Niche) :
    (s.updNiche n f).updNiche n g = s.updNiche n (fun x => g (f x)) := by
  simp [State.updNiche, State.setNiche, State.niche, Sparse.put_put]

/-! ## Grants and control -/

/-- A change of every value of a map at some keys, as its reads see it. -/
theorem find_mapIf {α : Type} (p : Nat → Prop) [DecidablePred p] (g : α → α) (m : Sparse α) (i : Nat) :
    Sparse.find (m.map (fun x => if p x.1 then (x.1, g x.2) else x)) i = (Sparse.find m i).map (fun x => if p i then g x else x) := by
  induction m with
  | nil => rfl
  | cons x m ih =>
    obtain ⟨k, v⟩ := x
    rw [List.map_cons]
    by_cases hki : i = k
    · subst hki
      by_cases hp : p i <;> simp [Sparse.find, hp]
    · by_cases hlt : i < k
      · by_cases hp : p k <;> simp [Sparse.find, hp, hki, hlt]
      · by_cases hp : p k <;> simp [Sparse.find, hp, hki, hlt, ih]

theorem grant_refused {s : State} {n : NicheNum} {v : W64} (hclear : bit (s.niche n).clear 1 = true)
    (h : (s.allEmpty n && !s.inFlight n (fun _ => true) && !s.niches.any (fun p => p.1 != n.toNat && (p.2.grant &&& v) != 0)) = false) :
    s.writeGrant n (BitVec.allOnes 64) v = s.writeRefused (0x300_0000 + n.toNat * 0x1000) n v := by
  have hbad : (!s.allEmpty n || s.inFlight n (fun _ => true) || s.niches.any (fun p => p.1 != n.toNat && (p.2.grant &&& v) != 0)) = true := by
    rw [← Bool.not_eq_false', Bool.not_or, Bool.not_or, Bool.not_not]
    simp only [h]
  rw [State.writeGrant, State.clearing, hclear, Bool.not_true, if_neg Bool.false_ne_true]
  dsimp only
  rw [masked_all, if_pos hbad, nicheOff]
  rfl

/-- The state in which a niche has taken its regions: its maquettes are to be cast anew. -/
def granting (s : State) (n : NicheNum) (v : W64) : State :=
  let u := s.updNiche n (fun x => { x with grant := v })
  { u with fe := { u.fe with maqs := u.fe.maqs.map (fun p => if p.1 / 4096 = n.toNat then (p.1, { p.2 with recast := true }) else p) } }

theorem grant_taken {s : State} {n : NicheNum} {v : W64} (hclear : bit (s.niche n).clear 1 = true)
    (h : (s.allEmpty n && !s.inFlight n (fun _ => true) && !s.niches.any (fun p => p.1 != n.toNat && (p.2.grant &&& v) != 0)) = true) :
    s.writeGrant n (BitVec.allOnes 64) v = granting s n v := by
  have hgood : ¬ (!s.allEmpty n || s.inFlight n (fun _ => true) || s.niches.any (fun p => p.1 != n.toNat && (p.2.grant &&& v) != 0)) = true := by
    rw [Bool.not_eq_true, ← Bool.not_eq_true', Bool.not_or, Bool.not_or, Bool.not_not]
    exact h
  rw [State.writeGrant, State.clearing, hclear, Bool.not_true, if_neg Bool.false_ne_true]
  dsimp only
  rw [masked_all, if_neg hgood]
  rfl

theorem granting_maq (s : State) (n : NicheNum) (v : W64) (m : BitVec 12) :
    (granting s n v).maq? n m = (s.maq? n m).map (fun q => { q with recast := true }) := by
  have hkey : maqKey n m / 4096 = n.toNat := by
    unfold maqKey
    have := m.isLt
    omega
  refine (find_mapIf (fun k => k / 4096 = n.toNat) (fun q : Maquette => { q with recast := true }) s.fe.maqs (maqKey n m)).trans ?_
  simp only [hkey, if_true]
  rfl

theorem control_taken {s : State} {n : NicheNum} {v : W64} (hclear : bit (s.niche n).clear 1 = true) (hfree : s.resident n = false) :
    s.writeNicheControl n (BitVec.allOnes 64) v = s.updNiche n (fun x => { x with control := v }) := by
  rw [State.writeNicheControl, hfree, if_neg Bool.false_ne_true]
  dsimp only
  rw [State.clearing, hclear, Bool.not_true, if_neg Bool.false_ne_true]
  simp only [masked_all]

theorem control_refused {s : State} {n : NicheNum} {v : W64} (hres : s.resident n = true) :
    s.writeNicheControl n (BitVec.allOnes 64) v = s.writeRefused (0x300_0000 + n.toNat * 0x1000 + 8) n v := by
  rw [State.writeNicheControl, if_pos hres, nicheOff]

theorem queueCtx_taken {s : State} {q : QueueNum} {v : W64} (hclear : bit (s.niche (s.queue q).niche).clear 1 = true)
    (hfree : s.resident (s.queue q).niche = false) :
    s.writeQueueCtx q (BitVec.allOnes 64) v = s.updQueue q (fun x => { x with ctx := BitVec.ofNat 4 (v.toNat % 16) }) := by
  have hlow (c : BitVec 4) : (masked (BitVec.allOnes 64 &&& 0xF) (BitVec.ofNat 64 c.toNat) v).toNat = v.toNat % 16 := by
    rw [BitVec.allOnes_and]
    exact masked_low (n := 4) (by decide) c.isLt v
  unfold State.writeQueueCtx
  dsimp only
  rw [hfree, if_neg Bool.false_ne_true, State.clearing, hclear, Bool.not_true, if_neg Bool.false_ne_true]
  simp only [hlow]

/-! ## Grant clears -/

theorem resident_clear (s : State) (n : NicheNum) (w : W64) : (s.updNiche n (fun x => { x with clear := w })).resident n = s.resident n := by
  rw [State.resident, State.niche_updNiche_same]
  rfl

/-- A field of which the mask has every bit is the one written. -/
theorem fld_masked {m : W64} {lo n : Nat} (h : ∀ j < n, bit m (j + lo) = true) (old v : W64) : fld (masked m old v) lo n = fld v lo n := by
  refine Nat.eq_of_testBit_eq (fun j => ?_)
  simp only [fld, Nat.testBit_mod_two_pow, Nat.testBit_div_two_pow]
  by_cases hj : j < n
  · have hbit := bit_masked m old v (j + lo)
    rw [h j hj, if_pos rfl] at hbit
    exact congrArg (decide (j < n) && ·) hbit
  · rw [decide_eq_false hj, Bool.false_and, Bool.false_and]

/-- The parts that a clear selects are those written. -/
theorem clear_parts (x v : W64) : fld (masked (mask 2 3) x v) 2 3 = v.toNat / 4 % 8 :=
  fld_masked (by decide) x v

/-- A GRANT_CLEAR written where none is under way: it starts where the niche is idle, else REFUSED is set. -/
theorem writeClear_eq {s : State} {n : NicheNum} {v : W64} (hclear : bit (s.niche n).clear 1 = true) (hstart : bit v 0 = true)
    (hkeep : bit v 5 = false) : s.writeClear n (BitVec.allOnes 64) v =
      if (s.niche n).ctxs.all (fun c => c.2.state == 0 || c.2.state == 2) && !s.resident n && !s.inFlight n (fun _ => true) then
        s.updNiche n (fun x => { x with clear := setFld (masked (mask 2 3) (s.niche n).clear v) 0 2 1,
                                        clearing := some (BitVec.ofNat 3 (v.toNat / 4 % 8)) })
      else s.updNiche n (fun x => { x with clear := setBit (masked (mask 2 3) (s.niche n).clear v) 5 true }) := by
  have hidle : (s.updNiche n (fun x => { x with clear := masked (mask 2 3) (s.niche n).clear v })).clearing n = false := by
    rw [State.clearing, State.niche_updNiche_same, bit_masked, show bit (mask 2 3) 1 = false by decide, if_neg Bool.false_ne_true, hclear,
      Bool.not_true]
  have hflight : (s.updNiche n (fun x => { x with clear := masked (mask 2 3) (s.niche n).clear v })).inFlight n (fun _ => true) =
      s.inFlight n (fun _ => true) := rfl
  unfold State.writeClear
  dsimp only
  rw [BitVec.allOnes_and, BitVec.allOnes_and, hstart, hkeep, if_neg Bool.false_ne_true, hidle, Bool.not_true, Bool.or_self,
    if_neg Bool.false_ne_true, resident_clear, hflight, updNiche_updNiche, updNiche_updNiche, clear_parts]

/-! ## The end of a frame -/

/-- One niche after the end of a frame. -/
def frameEndOf (counts : List (NicheNum × Nat × Nat)) (frame : Nat) (n : NicheNum) (x : Niche) : Niche :=
  let mine := counts.filter (fun c => c.1 == n)
  x.frameEnd (mine.map (·.2.1)).sum (mine.map (·.2.2)).sum frame

/-- Niches changed one after another, each once: niche n is as its own change leaves it. -/
theorem foldl_niches (F : NicheNum → Niche → Niche) (n : NicheNum) {l : List Nat} (hnd : l.Nodup) (hlt : ∀ i ∈ l, i < 64) (s : State) :
    (l.foldl (fun s i => s.updNiche (BitVec.ofNat 6 i) (F (BitVec.ofNat 6 i))) s).niche n =
      if n.toNat ∈ l then F n (s.niche n) else s.niche n := by
  induction l generalizing s with
  | nil => rfl
  | cons i l ih =>
    obtain ⟨hni, hnd⟩ := List.nodup_cons.mp hnd
    rw [List.foldl_cons, ih hnd (fun j hj => hlt j (List.mem_cons_of_mem _ hj))]
    by_cases hi : i = n.toNat
    · subst hi
      rw [if_neg hni, if_pos List.mem_cons_self, BitVec.ofNat_toNat, BitVec.setWidth_eq, State.niche_updNiche_same]
    · have hne : n ≠ BitVec.ofNat 6 i := by
        rintro rfl
        rw [BitVec.toNat_ofNat, Nat.mod_eq_of_lt (hlt i List.mem_cons_self)] at hi
        exact hi rfl
      rw [State.niche_updNiche_other _ hne]
      simp only [List.mem_cons, Ne.symm hi, false_or]

theorem frameEnd_niche (counts : List (NicheNum × Nat × Nat)) (s : State) (n : NicheNum) :
    ∃ t, exec (.frameEnd counts) s = .next t ∧ t.niche n = frameEndOf counts (frameOf s.tl.now) n (s.niche n) := by
  have hfold (l : List Nat) (u : State) (hu : u.tl = s.tl) : l.foldl (fun t i => t.updNiche (BitVec.ofNat 6 i)
      (frameEndOf counts (frameOf t.tl.now) (BitVec.ofNat 6 i))) u =
      l.foldl (fun t i => t.updNiche (BitVec.ofNat 6 i) (frameEndOf counts (frameOf s.tl.now) (BitVec.ofNat 6 i))) u := by
    induction l generalizing u with
    | nil => rfl
    | cons i l ih =>
      rw [List.foldl_cons, List.foldl_cons, hu]
      exact ih _ hu
  refine ⟨_, (exec_frameEnd s).trans (congrArg Host.Outcome.next (hfold (List.range 64) s rfl)), ?_⟩
  rw [foldl_niches (frameEndOf counts (frameOf s.tl.now)) n List.nodup_range (fun i => List.mem_range.mp), if_pos (List.mem_range.mpr n.isLt)]

/-- Settles O48. -/
theorem nicheRegisters : Obligations.NicheRegisters := by
  unfold Obligations.NicheRegisters
  intro s n v x
  have hidx : (n.setWidth 12).toNat < 64 ∧ BitVec.ofNat 6 (n.setWidth 12).toNat = n := by
    have hwide : (n.setWidth 12).toNat = n.toNat := by
      rw [BitVec.toNat_setWidth]
      exact Nat.mod_eq_of_lt (lt_trans n.isLt (by decide))
    rw [hwide]
    exact ⟨n.isLt, by simp⟩
  have hcontrol (a : Actor) (ha : isFwOrSup a = true) : exec (.nicheControlWrite a false (n.setWidth 12) v) s =
      .next (s.writeNicheControl n (BitVec.allOnes 64) v) := by
    rw [exec_nicheControlWrite, execNicheControlWrite, ha, Bool.not_true, if_neg Bool.false_ne_true, if_neg Bool.false_ne_true,
      if_pos hidx.1, hidx.2]
  refine ⟨fun a ha => ⟨?_, ?_, fun b i => ?_⟩, fun a ha hclear => ⟨⟨fun hbad => ?_, fun hgood => ?_⟩, fun hfree => ?_, fun hres => ?_,
    fun q hq hfree => ?_, fun hstart hkeep => ?_⟩, fun sel hsel => ?_, fun counts => ?_⟩
  · rw [exec_nicheGrantWrite, execNicheGrantWrite, ha, if_neg Bool.false_ne_true]
  · rw [exec_grantClear, execGrantClear, ha, if_neg Bool.false_ne_true]
  · rw [exec_nicheControlWrite, execNicheControlWrite, ha, Bool.not_false, if_pos rfl]
  · rw [exec_nicheGrantWrite, execNicheGrantWrite, if_pos ha, grant_refused hclear hbad]
  · refine ⟨granting s n v, ?_, ?_, granting_maq s n v, rfl, rfl⟩
    · rw [exec_nicheGrantWrite, execNicheGrantWrite, if_pos ha, grant_taken hclear hgood]
    · exact congrArg Niche.grant (State.niche_updNiche_same s n (fun x => { x with grant := v }))
  · rw [hcontrol a ha, control_taken hclear hfree]
  · rw [hcontrol a ha, control_refused hres]
  · subst hq
    rw [exec_nicheControlWrite, execNicheControlWrite, ha, Bool.not_true, if_neg Bool.false_ne_true, if_pos rfl, queueCtx_taken hclear hfree]
  · intro sel idle
    rw [exec_grantClear, execGrantClear, if_pos ha, writeClear_eq hclear hstart hkeep]
    exact ⟨fun h => congrArg Host.Outcome.next (if_pos h), fun h => congrArg Host.Outcome.next (if_neg (by rw [Bool.not_eq_true]; exact h))⟩
  · intro s1 s2 rest
    have hrun (hfirst : x.zeroSent = false) : exec (.grantClearDone n) s = .next (if (s2.niche n).zeroSent then s2 else rest s2) := by
      rw [exec_grantClearDone, execGrantClearDone, show (s.niche n).clearing = some sel from hsel]
      simp only [show (s.niche n).zeroSent = false from hfirst, Bool.not_false, Bool.true_and, Bool.true_or, Bool.and_true]
      rfl
    have hwait (hsent : x.zeroSent = true) : exec (.grantClearDone n) s =
        .next (if s.tr.ops.any (fun o => o.purpose == .lease n) then s else rest s) := by
      rw [exec_grantClearDone, execGrantClearDone, show (s.niche n).clearing = some sel from hsel]
      simp only [show (s.niche n).zeroSent = true from hsent, Bool.not_true, Bool.false_and, Bool.false_or, Bool.true_and, Bool.false_eq_true,
        if_false]
      rfl
    exact ⟨fun hfirst hz => by rw [hrun hfirst, hz, if_neg Bool.false_ne_true], fun hfirst hz => by rw [hrun hfirst, hz, if_pos rfl],
      fun hsent ho => by rw [hwait hsent, ho, if_pos rfl], fun hsent ho => by rw [hwait hsent, ho, if_neg Bool.false_ne_true]⟩
  · obtain ⟨t, ht, hn⟩ := frameEnd_niche counts s n
    refine ⟨t, ht, ?_⟩
    intro mine busy last
    rw [hn]
    exact ⟨rfl, rfl, rfl⟩

end Sys2Proof.Proofs
end

section
/-! SUPPORT. Contexts on regions: placement, restore, slices, suspension, save (15_niches.md R397 to R404). -/

namespace Sys2Proof.Proofs

open Sys2Proof Sys2Proof.Machine

/-! ## Placement and restore -/

theorem contextPlace_go {s : State} {region : RegionNum} {n : NicheNum} {c : BitVec 4} (hrun : (s.region region).running = true)
    (hholder : (s.region region).holder = none) (hrest : (s.region region).restoring = none) (hgrant : region.toNat ∈ s.granted n)
    (hniche : s.nicheRuns n = true) (hclear : bit (s.niche n).clear 1 = true) (hnext : s.nextContext n region = some c)
    (himage : s.hasImage n c (· == region) = false) (hquiet : s.regionQuiet region = true) :
    exec (.contextPlace region n c) s =
      .next (((s.vacate region).scramble (drawerBase (coreAt region 0)) (128 * 0x2_0000)).takeRegion region n c) := by
  have hin : (s.granted n).contains region.toNat = true := by simpa using hgrant
  rw [exec_contextPlace, execContextPlace]
  refine congrArg Host.Outcome.next (if_pos ?_)
  rw [hrun, hholder, hrest, hin, hniche, hclear, hnext, himage, hquiet]
  simp

theorem restore_go {s : State} {region : RegionNum} {n : NicheNum} {c : BitVec 4} (hrun : (s.region region).running = true)
    (hholder : (s.region region).holder = none) (hrest : (s.region region).restoring = none) (hniche : s.nicheRuns n = true)
    (hclear : bit (s.niche n).clear 1 = true) (hnext : s.nextContext n region = some c) (himage : s.hasImage n c (· == region) = true)
    (hquiet : s.regionQuiet region = true) (hgrantee : s.grantee region = some n) : exec (.restore region) s =
      .next ((s.takeRegion region n c).updRegion region (fun x => { x with restoring := some (n, c), moveStart := s.tl.now })) := by
  rw [exec_restore, execRestore, hgrantee]
  dsimp only
  rw [hnext]
  refine congrArg Host.Outcome.next (if_pos ?_)
  rw [hrun, hholder, hrest, hniche, hclear, himage, hquiet]
  rfl

/-- With no error injected, the reads of a save image inject none. -/
theorem foldl_inject {α : Type} {s : State} (h : bit s.err.inject 0 = false) (a : α → Nat) (n : Nat) (l : List α) :
    l.foldl (fun s p => s.inject (a p) n) s = s := by
  induction l with
  | nil => rfl
  | cons p l ih => rw [List.foldl_cons, inject_unarmed h, ih]

theorem restoreComplete_poisoned {s : State} {region : RegionNum} {n : NicheNum} {c : BitVec 4} {y : SavedCtx} {w : Nat}
    (hinj : bit s.err.inject 0 = false) (hrest : (s.region region).restoring = some (n, c))
    (hsaved : s.saved.find? (fun y => y.niche == n && y.ctx == c && y.region == region) = some y)
    (hbad : y.cores.findSome? (fun p => imagePoison s.mem (s.imageBase n c region + p.1 * 0x4_A000)) = some w) :
    let poisoned : ErrInfo := { cause := 0x2E, loc := 0, niche := some n, ctx := some c, addr := s.globalPa w, aspace := 1 }
    exec (.restoreComplete region) s = .next ((s.logError poisoned).faultContext n c) := by
  rw [exec_restoreComplete, execRestoreComplete]
  simp only [hrest, hsaved, foldl_inject hinj, hbad]

/-- What a region holds once its image is read back. -/
theorem restoreComplete_go {s : State} {region : RegionNum} {n : NicheNum} {c : BitVec 4} {y : SavedCtx}
    (hinj : bit s.err.inject 0 = false) (hrest : (s.region region).restoring = some (n, c))
    (hsaved : s.saved.find? (fun y => y.niche == n && y.ctx == c && y.region == region) = some y)
    (hsound : y.cores.findSome? (fun p => imagePoison s.mem (s.imageBase n c region + p.1 * 0x4_A000)) = none) :
    let s1 := (s.vacate region).scramble (drawerBase (coreAt region 0)) (128 * 0x2_0000)
    let s2 := y.cores.foldl (fun t p => t.readImage (s.imageBase n c region + p.1 * 0x4_A000) (coreAt region p.1) p.2 (t.tl.now - y.tick)) s1
    let s3 : State := { s2 with saved := s2.saved.filter (fun z => !(z.niche == n && z.ctx == c && z.region == region)) }
    let s4 := s3.updRegion region (fun x => { x with restoring := none, sliceStart := s3.tl.now })
    exec (.restoreComplete region) s = .next ((s4.setCtxState n c).friezeContext region n c true false (s.region region).moveStart) := by
  intro s1 s2 s3 s4
  rw [exec_restoreComplete, execRestoreComplete]
  simp only [hrest, hsaved, foldl_inject hinj, hsound]
  rfl

/-! ## Slices -/

theorem preempt_go {s : State} {region : RegionNum} {n : NicheNum} {c : BitVec 4} (hholder : (s.region region).holder = some (n, c))
    (hpre : (s.region region).preempting = false) : s.preempt region = (s.updRegion region (fun x =>
      { x with preempting := true, moveStart := s.tl.now })).updCtx n c (fun x => { x with preempts := satAdd x.preempts 1 }) := by
  rw [State.preempt, hholder]
  exact if_neg (by rw [hpre]; decide)

/-- SLICE_END of a holder that is neither stopping nor part of a holder resumption, with none due. -/
theorem sliceEnd_none {s : State} {region : RegionNum} {n : NicheNum} {c : BitVec 4} (hholder : (s.region region).holder = some (n, c))
    (hpre : (s.region region).preempting = false) (hrest : (s.region region).restoring = none)
    (hresume : (s.region region).resumption = none) (hdue : s.resumptionDue region n c = none) :
    exec (.sliceEnd region) s = .next (if !s.sliceOver region n then s
      else if (s.waiting n region).isEmpty then
        (s.updRegion region (fun y => { y with sliceStart := s.tl.now })).updCtx n c (fun y => { y with resumed := false })
      else s.preempt region) := by
  rw [exec_sliceEnd, execSliceEnd]
  simp only [hholder, hpre, hrest, hresume, hdue, Option.isSome_none, Bool.or_self, Bool.false_eq_true, if_false]

/-- A holder resumption that is due comes first. -/
theorem sliceEnd_due {s : State} {region : RegionNum} {n : NicheNum} {c h : BitVec 4} {k : Nat}
    (hholder : (s.region region).holder = some (n, c)) (hpre : (s.region region).preempting = false)
    (hrest : (s.region region).restoring = none) (hresume : (s.region region).resumption = none)
    (hdue : s.resumptionDue region n c = some (h, k)) :
    exec (.sliceEnd region) s = .next ((((s.updCtx n c (fun y => { y with resumed := true })).updRegion region (fun y =>
      { y with resumption := some (h, c, BitVec.ofNat 12 k), first := some h })).friezeHolder region n h c (BitVec.ofNat 12 k) false
        false).preempt region) := by
  rw [exec_sliceEnd, execSliceEnd]
  simp only [hholder, hpre, hrest, hresume, hdue, Option.isSome_none, Bool.or_self, Bool.false_eq_true, if_false]

/-! ## Suspension and save -/

theorem ctx_updCtx_same (s : State) (n : NicheNum) (c : BitVec 4) (f : Ctx → Ctx) : (s.updCtx n c f).ctx n c = f (s.ctx n c) := by
  rw [State.ctx, State.updCtx, State.niche_updNiche_same, Niche.ctx, Sparse.getD_put_same]
  rfl

/-- Setting SUSPEND sets that bit and no other. -/
theorem masked_suspend (x : W64) : masked 8 x 8 = x ||| 8 := by
  refine BitVec.eq_of_getLsbD_eq (fun i _ => ?_)
  refine (bit_masked 8 x 8 i).trans ?_
  rw [BitVec.getLsbD_or]
  change (if bit (8 : W64) i then bit (8 : W64) i else bit x i) = (bit x i || bit (8 : W64) i)
  cases bit (8 : W64) i <;> simp

theorem suspend_go {s : State} {n : NicheNum} {c : BitVec 4} (hclear : bit (s.niche n).clear 1 = true) :
    let t := s.updCtx n c (fun x => { x with control := x.control ||| 8 })
    s.writeCtxControl n c 8 8 = (t.regionsOf n c).foldl (fun s r => s.preempt r) t := by
  intro t
  have hmask : (8 &&& (if (s.ctx n c).state == 0 then 0xF else 0xE) : W64) = 8 := by
    split <;> decide
  have hset : bit ((s.updCtx n c (fun x => { x with control := x.control ||| 8 })).ctx n c).control 3 = true := by
    rw [ctx_updCtx_same]
    simp [bit]
  rw [State.writeCtxControl, State.clearing, hclear, Bool.not_true, if_neg Bool.false_ne_true]
  dsimp only
  rw [hmask]
  simp only [masked_suspend]
  exact if_pos hset

/-- SAVE_COMPLETE of a region whose engines stand at their points. -/
theorem saveComplete_go {s : State} {region : RegionNum} {n : NicheNum} {c : BitVec 4} (hholder : (s.region region).holder = some (n, c))
    (hpre : (s.region region).preempting = true) (hquiet : s.regionQuiet region = true) :
    let mine := (s.cores.filter (fun p => p.1 / 128 == region.toNat)).map (fun p => (BitVec.ofNat 13 p.1 : CoreNum))
    let s1 := mine.foldl (fun s i => s.cleanLines i .flush (fun _ => true)) s
    let s2 := (mine.foldl (fun s i => s.dropWaiters (some n) i (fun _ => true)) s1).mapCores region (fun _ k => k.unqueue)
    let busy := mine.filter (fun i => !(s2.core i).idle)
    let s3 := busy.foldl (fun s i => s.writeImage (s2.imageBase n c region + (indexOf i).toNat * 0x4_A000) i) s2
    let image : SavedCtx :=
      { niche := n, ctx := c, region := region, tick := s3.tl.now, cores := busy.map (fun i => ((indexOf i).toNat, s3.core i)) }
    exec (.saveComplete region) s = .next (if mine.any (fun i => !s1.cleaned i .flush (fun _ => true)) then s1
      else (((((({ s3 with saved := s3.saved ++ [image] } : State).vacate region).freeRegion region).setCtxState n c).serveNiche n)).friezeContext
        region n c false false (s.region region).moveStart) := by
  intro mine s1 s2 busy s3 image
  rw [exec_saveComplete, execSaveComplete]
  simp only [hholder, hpre, hquiet, Bool.not_true, Bool.or_self, Bool.false_eq_true, if_false]
  rfl

/-- Settles O49. -/
theorem contexts : Obligations.Contexts := by
  unfold Obligations.Contexts
  intro s region n c x
  refine ⟨fun hrun hholder hrest hgrant hniche hclear hnext hquiet =>
      ⟨fun himage => contextPlace_go hrun hholder hrest hgrant hniche hclear hnext himage hquiet,
        fun himage hgrantee => restore_go hrun hholder hrest hniche hclear hnext himage hquiet hgrantee⟩,
    ?_, fun hholder => ⟨fun hpre hrest hresume => ⟨fun hdue => ⟨fun hover hwait => ?_, fun hover hwait => ?_, fun hover => ?_⟩, fun h k hdue => ?_⟩,
      preempt_go hholder, ?_⟩, fun a => ⟨fun ha => ?_, fun ha hclear => ?_⟩⟩
  · intro y hinj hrest hsaved base
    exact ⟨fun w hbad => restoreComplete_poisoned hinj hrest hsaved hbad, fun hsound => restoreComplete_go hinj hrest hsaved hsound⟩
  · rw [sliceEnd_none hholder hpre hrest hresume hdue, hover, Bool.not_true, if_neg Bool.false_ne_true, if_neg (by simpa using hwait)]
  · rw [sliceEnd_none hholder hpre hrest hresume hdue, hover, Bool.not_true, if_neg Bool.false_ne_true, if_pos (by simpa using hwait)]
  · rw [sliceEnd_none hholder hpre hrest hresume hdue, hover, Bool.not_false, if_pos rfl]
  · exact sliceEnd_due hholder hpre hrest hresume hdue
  · intro hpre hquiet mine s1 open_ s2 busy s3 image
    rw [saveComplete_go hholder hpre hquiet]
    exact ⟨fun h => congrArg Host.Outcome.next (if_pos h), fun h => congrArg Host.Outcome.next (if_neg (by rw [Bool.not_eq_true]; exact h))⟩
  · rw [exec_suspend, execSuspend, ha, if_neg Bool.false_ne_true]
  · rw [exec_suspend, execSuspend, if_pos ha, suspend_go hclear]

end Sys2Proof.Proofs
end

section
/-! SUPPORT. Stores to registers, the error registers and the patrol scrub (18_errors.md R478, R482 to R487, 00_scope.md R9 to R13). -/

namespace Sys2Proof.Proofs

open Sys2Proof Sys2Proof.Machine

/-! ## Stores to registers -/

theorem csrShape_iff (off n : Nat) : csrShape off n = true ↔ (n = 4 ∨ n = 8) ∧ off % n = 0 := by
  simp only [csrShape, Bool.or_eq_true, Bool.and_eq_true, beq_iff_eq]
  constructor
  · rintro (⟨rfl, h⟩ | ⟨rfl, h⟩)
    · exact ⟨Or.inl rfl, h⟩
    · exact ⟨Or.inr rfl, h⟩
  · rintro ⟨rfl | rfl, h⟩
    · exact Or.inl ⟨rfl, h⟩
    · exact Or.inr ⟨rfl, h⟩

theorem csrWrite_whole {off : Nat} (h : off % 8 = 0) (s : State) (a : Actor) (v : W64) :
    s.csrWrite a off 8 v = s.writeReg a off (BitVec.allOnes 64) v := by
  have hshape : csrShape off 8 = true := (csrShape_iff off 8).mpr ⟨Or.inr rfl, h⟩
  rw [State.csrWrite, hshape, Bool.not_true, if_neg Bool.false_ne_true, if_pos rfl]

theorem csrWrite_low {off : Nat} (h : off % 8 = 0) (s : State) (a : Actor) (v : W64) :
    s.csrWrite a off 4 v = s.writeReg a off (mask 0 32) (BitVec.ofNat 64 (fld v 0 32)) := by
  have hshape : csrShape off 4 = true := (csrShape_iff off 4).mpr ⟨Or.inl rfl, by omega⟩
  rw [State.csrWrite, hshape, Bool.not_true, if_neg Bool.false_ne_true, if_neg (by decide), if_pos h]

theorem csrWrite_high {off : Nat} (h : off % 8 = 4) (s : State) (a : Actor) (v : W64) :
    s.csrWrite a off 4 v = s.writeReg a (off / 8 * 8) (mask 32 32) (BitVec.ofNat 64 (fld v 0 32 * 2 ^ 32)) := by
  have hshape : csrShape off 4 = true := (csrShape_iff off 4).mpr ⟨Or.inl rfl, by omega⟩
  rw [State.csrWrite, hshape, Bool.not_true, if_neg Bool.false_ne_true, if_neg (by decide), if_neg (by omega)]

theorem csrWrite_other {off n : Nat} (h : (n ≠ 4 ∧ n ≠ 8) ∨ off % n ≠ 0) (s : State) (a : Actor) (v : W64) : s.csrWrite a off n v = s := by
  have hshape : csrShape off n = false := by
    rw [← Bool.not_eq_true, csrShape_iff]
    tauto
  rw [State.csrWrite, hshape, Bool.not_false, if_pos rfl]

/-- A register of the blocks 4 to 8 takes no store of an actor that is neither firmware nor the supervisor. -/
theorem writeReg_noRight {a : Actor} (ha : isFwOrSup a = false) {off : Nat} (hlo : 4 ≤ off / 0x100_0000) (hhi : off / 0x100_0000 ≤ 8)
    (s : State) (m v : W64) : s.writeReg a off m v = s := by
  unfold State.writeReg
  dsimp only
  generalize off / 0x100_0000 = k at hlo hhi ⊢
  interval_cases k <;> simp only [ha, Bool.false_eq_true, if_false]

theorem csrWrite_noRight {a : Actor} (ha : isFwOrSup a = false) {off : Nat} (hlo : 4 ≤ off / 0x100_0000) (hhi : off / 0x100_0000 ≤ 8)
    (s : State) (n : Nat) (v : W64) : s.csrWrite a off n v = s := by
  have hhalf : off / 8 * 8 / 0x100_0000 = off / 0x100_0000 := by omega
  unfold State.csrWrite
  rw [writeReg_noRight ha hlo hhi, writeReg_noRight ha hlo hhi, writeReg_noRight ha (by rw [hhalf]; exact hlo) (by rw [hhalf]; exact hhi),
    ite_self, ite_self, ite_self]

/-! ## The patrol scrub -/

/-- A double error found by a scrub outside the drawers. -/
theorem poisonWord_memory {s : State} {a : Nat} (h : s.classOf a ≠ .drawer) (scrub inj : Bool) : s.poisonWord a scrub inj =
    State.memError { s with mem := s.mem.addPoison [a / 8 * 8] } (a / 8 * 8) true scrub inj := by
  have hclass : ¬ ({ s with mem := s.mem.addPoison [a / 8 * 8] } : State).classOf a = .drawer := h
  rw [State.poisonWord]
  dsimp only
  rw [if_neg hclass]

theorem correctWord_memory {s : State} {a : Nat} (h : s.classOf a ≠ .drawer) (scrub inj : Bool) :
    s.correctWord a scrub inj = s.memError (a / 8 * 8) false scrub inj := by
  rw [State.correctWord, if_neg h]

/-! ## ERR_INJECT -/

theorem writeInject_eq {s : State} {v : W64} (htype : v.toNat / 2 % 16 ≠ 15) :
    let w := masked (mask 1 29) s.err.inject v
    let put (w : W64) : State := { s with err := { s.err with inject := w } }
    s.writeInject (BitVec.allOnes 64) v = if bit v 0 && bit s.err.control 26 then (if s.injectionOk w then put (setBit w 0 true) else s)
      else if bit s.err.inject 0 then (if s.injectionOk w then put w else s) else put w := by
  intro w put
  have hkeep : fld (masked (mask 1 29) s.err.inject v) 1 4 ≠ 15 := by
    rw [fld_masked (by decide)]
    exact htype
  unfold State.writeInject
  dsimp only
  rw [BitVec.allOnes_and, BitVec.allOnes_and, if_neg hkeep]

/-- Settles O57. -/
theorem registerStoresAndScrub : Obligations.RegisterStoresAndScrub := by
  unfold Obligations.RegisterStoresAndScrub
  intro s
  refine ⟨fun a off bytes v => ⟨fun h => ?_, fun h => ?_, fun h => ?_, fun h => ?_, fun hlo hhi ha => ?_⟩, fun a v => ⟨?_, ?_, ?_⟩,
    fun pa hclass => ⟨fun hrec f => ?_, fun hrec => ⟨?_, ?_, ?_⟩⟩, fun a v => ⟨fun ha => ⟨?_, ?_⟩, fun ha => ⟨?_, ?_⟩⟩⟩
  · rw [exec_registerWrite, execRegisterWrite, csrWrite_whole h]
  · rw [exec_registerWrite, execRegisterWrite, csrWrite_low h, fld, pow_zero, Nat.div_one]
  · rw [exec_registerWrite, execRegisterWrite, csrWrite_high h, fld, pow_zero, Nat.div_one]
  · rw [exec_registerWrite, execRegisterWrite, csrWrite_other h]
  · rw [exec_registerWrite, execRegisterWrite, csrWrite_noRight ha hlo hhi]
  · rw [exec_registerWrite, execRegisterWrite, csrWrite_whole (by decide), exec_errRelease, execErrRelease]
    rfl
  · rw [exec_registerWrite, execRegisterWrite, csrWrite_whole (by decide), exec_errorInject, execErrorInject]
    rfl
  · rw [exec_registerWrite, execRegisterWrite, csrWrite_whole (by decide), exec_trIdWrite, execTrIdWrite]
    rfl
  · rw [exec_memoryPatrolScrub]
    exact congrArg Host.Outcome.next (if_neg (by rw [hrec]; simp))
  · rw [exec_memoryPatrolScrub, execMemoryPatrolScrub, if_pos ⟨hclass, hrec⟩]
  · rw [exec_memoryPatrolScrub, execMemoryPatrolScrub, if_pos ⟨hclass, hrec⟩]
    exact congrArg Host.Outcome.next (correctWord_memory (by rcases hclass with h | h | h <;> rw [h] <;> decide) true false)
  · rw [exec_memoryPatrolScrub, execMemoryPatrolScrub, if_pos ⟨hclass, hrec⟩]
    exact congrArg Host.Outcome.next (poisonWord_memory (by rcases hclass with h | h | h <;> rw [h] <;> decide) true false)
  · rw [exec_errRelease, execErrRelease, ha, if_neg Bool.false_ne_true]
  · rw [exec_errorInject, execErrorInject, ha, if_neg Bool.false_ne_true]
  · intro n c
    have hrelease : exec (.errRelease a v) s = .next (if bit v 10 && (s.ctx n c).state == 3 then s.updCtx n c (fun x => { x with state := 0 })
        else s) := by
      rw [exec_errRelease, execErrRelease, if_pos ha, State.writeErrRelease, BitVec.allOnes_and]
      simp only [fld, pow_zero, Nat.div_one]
      rfl
    rw [hrelease]
    refine ⟨fun hv hst => ?_, fun hno => ?_⟩
    · rw [if_pos (by rw [hv, hst]; rfl)]
    · rw [if_neg]
      rw [Bool.and_eq_true, beq_iff_eq]
      exact fun h => hno.elim (fun hv => absurd (hv.symm.trans h.1) (by decide)) (fun hst => hst h.2)
  · intro w htype
    rw [exec_errorInject, execErrorInject, if_pos ha, writeInject_eq htype]
    refine ⟨fun hv hen => ⟨fun hok => ?_, fun hbad => ?_⟩, fun hno hidle => ?_⟩
    · rw [hv, hen]
      exact congrArg Host.Outcome.next (if_pos hok)
    · rw [hv, hen]
      exact congrArg Host.Outcome.next ((if_pos rfl).trans (if_neg (by rw [Bool.not_eq_true]; exact hbad)))
    · rw [hidle, if_neg (by rcases hno with h | h <;> rw [h] <;> simp), if_neg Bool.false_ne_true]
      rfl

end Sys2Proof.Proofs
end

section
/-! SUPPORT. Identity, routes, shares of channels and dead devices (16_trestle.md R428, R434, R444 to R447). -/

namespace Sys2Proof.Proofs

open Sys2Proof Sys2Proof.Machine

theorem writeTrId_off {s : State} (h : s.portsOff = true) (v : W64) :
    s.writeTrId (BitVec.allOnes 64) v = s.setDevice (BitVec.ofNat 14 v.toNat) := by
  have hid : BitVec.ofNat 14 (fld v 0 14) = BitVec.ofNat 14 v.toNat := BitVec.eq_of_toNat_eq (by simp [fld])
  have hall : (fld (BitVec.allOnes 64) 0 14 != 0) = true := by decide
  rw [State.writeTrId, masked_all, hid, if_pos (by rw [h, hall]; rfl)]

theorem writeTrId_on {s : State} (h : s.portsOff = false) (m v : W64) : s.writeTrId m v = s := by
  rw [State.writeTrId, if_neg (by rw [h]; simp)]

theorem writeTrRoute_off {s : State} (h : s.portsOff = true) {v : W64} (hport : v.toNat / 2 % 64 < 36) (d : Nat) :
    s.writeTrRoute d (BitVec.allOnes 64) v =
      { s with tr := { s.tr with routes := Sparse.put s.tr.routes d (masked (mask 0 7) (Sparse.getD s.tr.routes d 0) v) } } := by
  have hfld : fld (masked (mask 0 7) (Sparse.getD s.tr.routes d 0) v) 1 6 = v.toNat / 2 % 64 := fld_masked (by decide) _ v
  unfold State.writeTrRoute
  dsimp only
  rw [BitVec.allOnes_and, hfld, if_neg (Nat.not_le.mpr hport), if_pos h]

theorem writeTrRoute_on {s : State} (h : s.portsOff = false) (d : Nat) (m v : W64) : s.writeTrRoute d m v = s := by
  unfold State.writeTrRoute
  dsimp only
  exact if_neg (by rw [h]; exact Bool.false_ne_true)

theorem writeTrTorus_on {s : State} (h : s.portsOff = false) (m v : W64) : s.writeTrTorus m v = s := by
  unfold State.writeTrTorus
  dsimp only
  exact if_neg (by rw [h]; exact Bool.false_ne_true)

theorem writeTrControl_eq (s : State) (v : W64) : s.writeTrControl (BitVec.allOnes 64) v =
    { s with tr := { s.tr with control := masked (if s.portsOff then 3 else 2) s.tr.control v } } := by
  rw [State.writeTrControl, BitVec.allOnes_and]

/-- An idle share of a channel, full and with nothing parked, is freed. -/
theorem channelReclaim_go {s : State} {p : PortNum} {n : NicheNum} {ch : Byte} (hshare : n.toNat * 256 + ch.toNat ∈ (s.port p).shares)
    (hfull : ∀ dl : Bool, Sparse.getD (s.port p).credits ((n.toNat * 256 + ch.toNat) * 4 + dl.toNat) 1952 = 1952)
    (hidle : ∀ q ∈ (s.port p).parked, q.2.sys = true ∨ q.2.niche ≠ n ∨ q.2.channel ≠ ch)
    (hlong : Sparse.getD (s.port p).shareUse (n.toNat * 256 + ch.toNat) 0 + 1000000 ≤ s.ns) :
    exec (.channelReclaim p n ch) s = .next ((s.updPort p (fun x =>
      { x with shares := x.shares.filter (· != n.toNat * 256 + ch.toNat), shareUse := Sparse.del x.shareUse (n.toNat * 256 + ch.toNat) })).pump
        p.toNat) := by
  have hkey (dl : Bool) : creditKey { Packet.empty with niche := n, channel := ch, dl := dl } = (n.toNat * 256 + ch.toNat) * 4 + dl.toNat := by
    simp only [creditKey, Packet.empty, Bool.toNat_false]
    omega
  have hwhole (dl : Bool) : (Sparse.getD (s.port p).credits (creditKey { Packet.empty with niche := n, channel := ch, dl := dl })
      (fullShare false) == fullShare false) = true := by
    rw [hkey, beq_iff_eq]
    exact hfull dl
  have hfree : (s.port p).parked.any (fun q => !q.2.sys && q.2.niche == n && q.2.channel == ch) = false := by
    rw [List.any_eq_false]
    intro q hq hbusy
    simp only [Bool.and_eq_true, Bool.not_eq_true', beq_iff_eq] at hbusy
    rcases hidle q hq with h | h | h
    · exact absurd (hbusy.1.1.symm.trans h) (by decide)
    · exact h hbusy.1.2
    · exact h hbusy.2
  have hin : (s.port p).shares.contains (n.toNat * 256 + ch.toNat) = true := by simpa using hshare
  rw [exec_channelReclaim, execChannelReclaim]
  refine congrArg Host.Outcome.next (if_pos ?_)
  simp only [Bool.and_eq_true, Bool.not_eq_true', decide_eq_true_eq]
  exact ⟨⟨⟨⟨hin, hwhole false⟩, hwhole true⟩, hfree⟩, hlong⟩

/-- A device not heard of for 50 µs, toward which an operation has waited so long. -/
theorem silentDevice_true {s : State} {d : BitVec 14} (hwait : ∃ o ∈ s.tr.ops, o.device = d ∧ o.since + 50000 ≤ s.ns)
    (hheard : ∀ n, Sparse.find s.tr.heard d.toNat = some n → n + 50000 ≤ s.ns) : s.silentDevice d = true := by
  obtain ⟨o, ho, hd, hsince⟩ := hwait
  rw [State.silentDevice, Bool.and_eq_true]
  refine ⟨List.any_eq_true.mpr ⟨o, ho, by simp [hd, hsince]⟩, ?_⟩
  cases hfind : Sparse.find s.tr.heard d.toNat with
  | none => rfl
  | some n => exact decide_eq_true (hheard n hfind)

/-- Settles O52. -/
theorem trestleRegisters : Obligations.TrestleRegisters := by
  unfold Obligations.TrestleRegisters
  intro s v
  refine ⟨fun a ha hoff => ⟨?_, fun d => ?_, fun d => ?_⟩, fun a ha hon => ⟨?_, fun d => ⟨?_, ?_, ?_⟩⟩, fun a ha => ⟨?_, fun w d => ?_⟩,
    fun p n ch => ?_, fun d halive hwait hheard hcut => ?_⟩
  · rw [exec_trIdWrite, execTrIdWrite, if_pos ha, writeTrId_off hoff]
  · intro old w hport
    rw [exec_routeConfigWrite, execRouteConfigWrite, ha, Bool.not_true, if_neg Bool.false_ne_true]
    exact congrArg Host.Outcome.next (writeTrRoute_off hoff hport d.toNat)
  · rw [exec_routeConfigWrite, execRouteConfigWrite, ha, Bool.not_true, if_neg Bool.false_ne_true]
    refine congrArg Host.Outcome.next ((writeTrControl_eq s v).trans ?_)
    rw [if_pos hoff]
    rfl
  · rw [exec_trIdWrite, execTrIdWrite, if_pos ha, writeTrId_on hon]
  · rw [exec_routeConfigWrite, execRouteConfigWrite, ha, Bool.not_true, if_neg Bool.false_ne_true]
    exact congrArg Host.Outcome.next (writeTrRoute_on hon d.toNat _ v)
  · rw [exec_routeConfigWrite, execRouteConfigWrite, ha, Bool.not_true, if_neg Bool.false_ne_true]
    exact congrArg Host.Outcome.next (writeTrTorus_on hon _ v)
  · rw [exec_routeConfigWrite, execRouteConfigWrite, ha, Bool.not_true, if_neg Bool.false_ne_true]
    refine congrArg Host.Outcome.next ((writeTrControl_eq s v).trans ?_)
    rw [hon, if_neg Bool.false_ne_true]
    rfl
  · rw [exec_trIdWrite, execTrIdWrite, ha, if_neg Bool.false_ne_true]
  · rw [exec_routeConfigWrite, execRouteConfigWrite, ha, Bool.not_false, if_pos rfl]
  · intro x c
    exact channelReclaim_go
  · rw [exec_deviceDead, execDeviceDead, halive, silentDevice_true hwait hheard, hcut]
    rfl

end Sys2Proof.Proofs
end

section
/-! SUPPORT. Link records and events of Trestle ports (16_trestle.md R418 to R427, R435, R441, R443). -/

namespace Sys2Proof.Proofs

open Sys2Proof Sys2Proof.Machine

/-! ## The log of a corrected error of no core -/

/-- A corrected error that concerns no core changes the log and the ledger, not what is armed. -/
theorem logError_corrected {s : State} {e : ErrInfo} (hcore : e.core = none) (hclass : errClass e.cause = 1) :
    ∃ E P, s.logError e = { s with err := E, pat := P } ∧ E.inject = s.err.inject := by
  have hrecord : ∃ E P, s.logRecord e = { s with err := E, pat := P } ∧ E.inject = s.err.inject := by
    unfold State.logRecord
    simp only [hcore, hclass]
    split
    · exact ⟨_, _, rfl, rfl⟩
    · exact ⟨_, _, rfl, rfl⟩
  unfold State.logError
  simp only [hcore, hclass]
  split
  · exact ⟨_, _, rfl, rfl⟩
  · exact hrecord

theorem armed_of_inject {s : State} (h : bit s.err.inject 0 = false) (n : Nat) : s.armed n = false := by
  rw [State.armed, h, Bool.false_and]

/-! ## Ports -/

theorem updPort_updPort (s : State) (p : PortNum) (f g : Port → Port) : (s.updPort p f).updPort p g = s.updPort p (fun x => g (f x)) := by
  simp [State.updPort, State.setPort, State.port, Sparse.put_put]

theorem updPort_congr {s : State} {p : PortNum} {f g : Port → Port} (h : f (s.port p) = g (s.port p)) : s.updPort p f = s.updPort p g := by
  rw [State.updPort, State.updPort, h]

/-! ## HELLO -/

theorem hello_eq {s : State} {p : PortNum} {h : HelloRec} (hstate : (s.port p).state = 1 ∨ (s.port p).state = 2)
    (hen : bit (s.port p).control 0 = true) :
    let x := s.port p
    let fromPeer := s.received p 1
    let ver := min h.maxVer.toNat (x.control.toNat / 2 % 4)
    let s1 := (fromPeer.revive h.device h.incarnation).updPort p (fun x =>
      { x with ver := BitVec.ofNat 2 ver, peerId := h.device, peerInc := h.incarnation, peerHops := h.hops })
    let s2 := if x.state = 1 then (s1.updPort p (fun x =>
      { x with state := 2, txNext := 0, rxNext := 0, tx := [], links := [], credits := [], shares := [], shareUse := [],
               peerBook := [] })).sendHello p else s1
    let s3 := if s2.tlSource = 2 ∧ fld s2.tl.control 2 6 = p.toNat then s2.hopsFrom h.hops.toNat else s2
    exec (.hello p h) s = .next (if ver < max 1 h.minVer.toNat then
        (fromPeer.portDown p).patinaEvent 0x01 (17 + p.toNat / 9) (1 + 256 * p.toNat)
          (1 + 256 * (x.control.toNat / 2 % 4)) (h.minVer.toNat + 256 * h.maxVer.toNat)
      else if !fromPeer.peerOk p h then (fromPeer.portDown p).patinaEvent 0x06 (17 + p.toNat / 9) p.toNat h.device.toNat 0
      else s3.donorSource.pumpAll) := by
  intro x fromPeer ver s1 s2 s3
  have hup : ¬ ((s.port p).state == 0 || !bit (s.port p).control 0) = true := by
    rw [hen]
    rcases hstate with h | h <;> rw [h] <;> decide
  have hs2 : s2 = if x.state == 1 then (s1.updPort p (fun x =>
      { x with state := 2, txNext := 0, rxNext := 0, tx := [], links := [], credits := [], shares := [], shareUse := [],
               peerBook := [] })).sendHello p else s1 := by
    simp only [s2, beq_iff_eq]
  have hs3 : s3 = if s2.tlSource == 2 && fld s2.tl.control 2 6 == p.toNat then s2.hopsFrom h.hops.toNat else s2 := by
    simp only [s3, Bool.and_eq_true, beq_iff_eq]
  rw [hs3, hs2, exec_hello, execHello]
  exact congrArg Host.Outcome.next (if_neg hup)

/-! ## Flits -/

theorem rejectFlit_eq (s : State) (p : PortNum) :
    let x := s.port p
    let fails := if x.rxReplay then x.rxFails + 1 else 0
    let t := s.setPort p { x with rejected := satAdd x.rejected 1, rxReplay := true, rxFails := fails }
    s.rejectFlit p false = if 8 ≤ fails then t.startRetrain p else t.sendLink p 2 [pack [(8, 10, x.rxNext.toNat)]] := by
  intro x fails t
  rw [State.rejectFlit]
  simp only [Bool.or_false]
  rfl

/-- What a corrected flit leaves before it is looked at. -/
def afterFec (s : State) (p : PortNum) (f : FlitIn) : State :=
  if f.corrected then (s.updPort p (fun x => { x with fecWords := x.fecWords + 1 })).logError { cause := 0x0B, loc := 17 + p.toNat / 9, aux := p.toNat }
  else s

theorem afterFec_armed {s : State} (h : bit s.err.inject 0 = false) (p : PortNum) (f : FlitIn) (n : Nat) : (afterFec s p f).armed n = false := by
  unfold afterFec
  split
  · obtain ⟨E, P, hlog, hinj⟩ := logError_corrected (s := s.updPort p (fun x => { x with fecWords := x.fecWords + 1 }))
      (e := { cause := 0x0B, loc := 17 + p.toNat / 9, aux := p.toNat }) rfl rfl
    refine armed_of_inject ?_ n
    rw [hlog]
    change bit E.inject 0 = false
    rw [hinj]
    exact h
  · exact armed_of_inject h n

/-! ## TIME and BOOK -/

/-- A port that is UP is open to records. -/
theorem up_open {s : State} {p : PortNum} (h : (s.port p).state = 2) : ¬ ((s.port p).state != 2) = true := by
  rw [h]
  decide

/-- A phase far off while the timeline is not locked steps it; a near one steers it. -/
theorem time_far {far : Bool} (h : far = true) (s : State) (v : W64) (e : Int) :
    (let s' := if far then s.takeTime v else s
     s'.measure e 64 (!far)) = (s.takeTime v).measure e 64 false := by
  rw [h]
  rfl

theorem time_near {far : Bool} (h : far = false) (s : State) (v : W64) (e : Int) :
    (let s' := if far then s.takeTime v else s
     s'.measure e 64 (!far)) = s.measure e 64 true := by
  rw [h]
  rfl

/-- The fields of a booking entry put together. -/
theorem book_entry (dir : Bool) (n : NicheNum) (ch : Byte) (valid : Bool) :
    BitVec.ofNat 32 (pack [(0, 1, valid.toNat), (2, 6, n.toNat), (8, 8, ch.toNat), (16, 1, dir.toNat)]).toNat =
      BitVec.ofNat 32 (valid.toNat + n.toNat * 2 ^ 2 + ch.toNat * 2 ^ 8 + dir.toNat * 2 ^ 16) := by
  have hn := n.isLt
  have hch := ch.isLt
  have hv := valid.toNat_lt
  have hd := dir.toNat_lt
  refine congrArg (BitVec.ofNat 32) ?_
  simp only [pack, List.foldl_cons, List.foldl_nil, BitVec.toNat_ofNat]
  omega

/-! ## PORT_ENABLE and PORT_RETRAIN -/

theorem writePortControl_enable {s : State} {p : PortNum} {v : W64} (hoff : bit (s.port p).control 0 = false) (hon : bit v 0 = true)
    (hretrain : bit v 3 = false) (hver : fld v 1 2 = 1 ∨ fld v 1 2 = 2) : s.writePortControl p (BitVec.allOnes 64) v =
      s.updPort p (fun x => { x with control := masked 7 (s.port p).control v, state := 1 }) := by
  have hfld : fld (masked 7 (s.port p).control v) 1 2 = fld v 1 2 := fld_masked (by decide) _ v
  have hbit : bit (masked 7 (s.port p).control v) 0 = true := by rw [bit_masked, show bit (7 : W64) 0 = true by decide, if_pos rfl, hon]
  have hlegal : ¬ (fld v 1 2 = 0 ∨ fld v 1 2 = 3) := by omega
  unfold State.writePortControl
  dsimp only
  rw [BitVec.allOnes_and, BitVec.allOnes_and, hfld, if_neg hlegal, hbit, hoff, Bool.not_false, Bool.and_self, if_pos rfl, hretrain,
    Bool.false_and, if_neg Bool.false_ne_true, updPort_updPort]

theorem writePortControl_retrain {s : State} {p : PortNum} (hup : (s.port p).state = 2)
    (hver : fld (s.port p).control 1 2 = 1 ∨ fld (s.port p).control 1 2 = 2) :
    s.writePortControl p 8 8 = (s.updPort p id).startRetrain p := by
  have hkeep : masked (8 &&& 7) (s.port p).control 8 = (s.port p).control := by
    rw [show (8 &&& 7 : W64) = 0#64 by decide, masked, BitVec.and_zero, BitVec.not_zero, BitVec.and_allOnes, BitVec.or_zero]
  have hsame : s.updPort p (fun x => { x with control := (s.port p).control }) = s.updPort p id := updPort_congr rfl
  have hlegal : ¬ (fld (s.port p).control 1 2 = 0 ∨ fld (s.port p).control 1 2 = 3) := by omega
  have hstate : ((s.updPort p id).port p).state = 2 := by rw [State.port_updPort_same]; exact hup
  unfold State.writePortControl
  dsimp only
  rw [hkeep, if_neg hlegal, hsame, Bool.and_not_self, if_neg Bool.false_ne_true, Bool.not_and_self, if_neg Bool.false_ne_true, hstate]
  rfl

/-- Settles O50. -/
theorem ports : Obligations.Ports := by
  unfold Obligations.Ports
  intro s p x fromPeer
  refine ⟨fun h hstate hen => ?_, fun hstate2 => ⟨?_, ?_, ?_, ?_, ?_, ?_⟩, ?_, ?_, fun a v ha => ⟨?_, ?_⟩, fun hdown => ⟨?_, ?_⟩⟩
  · intro ver
    have hexec := hello_eq (h := h) hstate hen
    refine ⟨fun hlt => hexec.trans (congrArg Host.Outcome.next (if_pos hlt)), fun hle => ⟨fun hbad => ?_, fun hok => ?_⟩⟩
    · refine hexec.trans (congrArg Host.Outcome.next ((if_neg (Nat.not_lt.mpr hle)).trans (if_pos ?_)))
      rw [show (s.received p 1).peerOk p h = false from hbad]
      rfl
    · refine hexec.trans (congrArg Host.Outcome.next ((if_neg (Nat.not_lt.mpr hle)).trans (if_neg ?_)))
      rw [show (s.received p 1).peerOk p h = true from hok]
      decide
  · intro n ch sys dl units key full
    rw [exec_credit, execCredit]
    exact congrArg Host.Outcome.next (if_neg (up_open hstate2))
  · intro seq n again t
    rw [exec_replay, execReplay]
    exact ⟨fun hle => congrArg Host.Outcome.next ((if_neg (up_open hstate2)).trans (if_neg (Nat.not_lt.mpr hle))),
      fun hlt => congrArg Host.Outcome.next ((if_neg (up_open hstate2)).trans (if_pos hlt))⟩
  · intro t1 t2 t3 t4 twice t
    rw [exec_time, execTime]
    refine ⟨fun hother => ?_, fun hsrc hport => ?_⟩
    · refine congrArg Host.Outcome.next ((if_neg (up_open hstate2)).trans (if_neg ?_))
      rw [Bool.and_eq_true, beq_iff_eq, beq_iff_eq, not_and_or]
      exact hother
    intro error
    refine ⟨fun hfar => ?_, fun hnear => ?_⟩
    · refine congrArg Host.Outcome.next ((if_neg (up_open hstate2)).trans (if_pos ?_) |>.trans (time_far ?_ _ _ _))
      · rw [Bool.and_eq_true, beq_iff_eq, beq_iff_eq]
        exact ⟨hsrc, hport⟩
      · simp only [Bool.and_eq_true, decide_eq_true_eq, beq_iff_eq, and_assoc]
        exact hfar
    · refine congrArg Host.Outcome.next ((if_neg (up_open hstate2)).trans (if_pos ?_) |>.trans (time_near ?_ _ _ _))
      · rw [Bool.and_eq_true, beq_iff_eq, beq_iff_eq]
        exact ⟨hsrc, hport⟩
      · rw [← Bool.not_eq_true]
        simp only [Bool.and_eq_true, decide_eq_true_eq, beq_iff_eq, and_assoc]
        exact hnear
  · intro idx dir n ch valid e t
    rw [exec_book, execBook]
    refine ⟨fun hdir => ?_, fun hdir => ?_⟩
    · refine congrArg Host.Outcome.next ((if_neg (up_open hstate2)).trans ((if_pos hdir).trans ?_))
      rw [book_entry]
    · refine congrArg Host.Outcome.next ((if_neg (up_open hstate2)).trans ((if_neg (by rw [hdir]; decide)).trans ?_))
      rw [book_entry]
  · intro fails t
    rw [exec_flitReject, execFlitReject, if_neg (up_open hstate2), rejectFlit_eq]
    exact ⟨fun hlt => congrArg Host.Outcome.next (if_neg (Nat.not_le.mpr hlt)), fun hle => congrArg Host.Outcome.next (if_pos hle)⟩
  · intro seq f err u
    rw [exec_flitAccept, execFlitAccept]
    refine ⟨fun hne hrep => ?_, fun hne hrep => ?_, fun heq hinj => ?_⟩
    · exact congrArg Host.Outcome.next ((if_neg (up_open hstate2)).trans ((if_pos (bne_iff_ne.mpr hne)).trans (if_pos hrep)))
    · exact congrArg Host.Outcome.next ((if_neg (up_open hstate2)).trans ((if_pos (bne_iff_ne.mpr hne)).trans
        (if_neg (by rw [show (s.port p).rxReplay = false from hrep]; decide))))
    · refine congrArg Host.Outcome.next ((if_neg (up_open hstate2)).trans ((if_neg ?_).trans (if_neg ?_)))
      · rw [bne_iff_ne, not_not]
        exact heq
      · have harm := afterFec_armed hinj p f 10
        unfold afterFec at harm
        rw [harm, Bool.false_and]
        decide
  · intro a v ha hoff hon hretrain hver w
    rw [exec_portEnable, execPortEnable, if_pos ha, writePortControl_enable hoff hon hretrain hver]
    rfl
  · intro a ha hup hver
    rw [exec_portRetrain, execPortRetrain, if_pos ha, writePortControl_retrain hup hver]
  · rw [exec_portEnable, execPortEnable, ha, if_neg Bool.false_ne_true]
  · rw [exec_portRetrain, execPortRetrain, ha, if_neg Bool.false_ne_true]
  · rw [exec_retrainDone, execRetrainDone, show (s.port p).state = 3 from hdown]
    rfl
  · rw [exec_retrainDone, execRetrainDone, show (s.port p).state = 3 from hdown]
    rfl

end Sys2Proof.Proofs
end

section
/-! SUPPORT. Packets of other devices (16_trestle.md, R433 to R440): how one is taken from its port, and how it is served at home. -/

namespace Sys2Proof.Proofs

open Sys2Proof Sys2Proof.Machine

/-! ## The port that a packet came by -/

/-- Units that go back to a sender touch the ports and the counters. -/
theorem sendLink_frame (s : State) (p : PortNum) (code : BitVec 4) (body : List W64) : s.sendLink p code body =
    { s with counters := (s.sendLink p code body).counters, tr := { s.tr with ports := (s.sendLink p code body).tr.ports } } := by
  unfold State.sendLink
  dsimp only
  split <;> rfl

theorem returnUnits_frame (s : State) (p : PortNum) (k : Packet) : s.returnUnits p k =
    { s with counters := (s.returnUnits p k).counters, tr := { s.tr with ports := (s.returnUnits p k).tr.ports } } := by
  unfold State.returnUnits
  split
  · rfl
  · exact sendLink_frame s p 1 _

/-- A packet whose units have gone back: what the serving rules see of the state. -/
def taken (s : State) (p : PortNum) (k : Packet) : State := (s.received p (packetUnits k)).returnUnits p k

theorem taken_err (s : State) (p : PortNum) (k : Packet) : (taken s p k).err = s.err := by
  rw [taken, returnUnits_frame]
  rfl

theorem taken_disc (s : State) (p : PortNum) (k : Packet) : (taken s p k).disc = s.disc := by
  rw [taken, returnUnits_frame]
  rfl

theorem taken_control (s : State) (p : PortNum) (k : Packet) : (taken s p k).tr.control = s.tr.control := by
  rw [taken, returnUnits_frame]
  rfl

/-- The units counted on arrival do not change which frames a donor would give. -/
theorem donorFrames_received (s : State) (p : PortNum) (units : Nat) (k : Packet) (n : Nat) :
    (s.received p units).donorFrames k n = s.donorFrames k n := by
  induction n generalizing s with
  | zero => rfl
  | succ n ih =>
    have hframe : (s.received p units).donorFrame k = s.donorFrame k := rfl
    rw [State.donorFrames, State.donorFrames, hframe]
    cases s.donorFrame k with
    | none => rfl
    | some b => exact congrArg (b :: ·) (ih { s with tr := { s.tr with leases := s.tr.leases ++ [{ device := k.src, niche := k.niche, base := b }] } })

theorem packetHeld_received (s : State) (p : PortNum) (units : Nat) (kind : BitVec 4) (k : Packet) :
    (s.received p units).packetHeld kind k = s.packetHeld kind k := by
  have hlease : (s.received p units).leaseLines k = s.leaseLines k := by
    rw [State.leaseLines, State.leaseLines, donorFrames_received]
    rfl
  rw [State.packetHeld, State.packetHeld, hlease]
  rfl

section
variable {s : State} {p : PortNum} {k : Packet} (hup : (s.port p).state = 2) (hrx : ∀ q ∈ (s.port p).rx, sameFlow q.2 k = false)
include hup hrx

/-- With no packet of its flow before it, a packet is tried at once. -/
theorem packetIn_tried {kind : BitVec 4} {u : State} (htry : (s.received p (packetUnits k)).tryPacket p kind k = (true, u)) :
    s.packetIn p kind k = u := by
  have hopen : ¬ ((s.port p).state != 2) = true := by rw [hup]; decide
  have hfirst : ¬ ((s.received p (packetUnits k)).port p).rx.any (fun q => sameFlow q.2 k) = true := by
    rw [List.any_eq_true]
    rintro ⟨q, hq, hsame⟩
    rw [hrx q hq] at hsame
    exact Bool.false_ne_true hsame
  rw [State.packetIn, if_neg hopen, State.takePacket, if_neg hfirst, htry]

theorem packetIn_forward (kind : BitVec 4) (hmine : s.mine k.dst = none) :
    s.packetIn p kind k = (taken s p k).forwardPacket kind k (some p.toNat) := by
  have htry : (s.received p (packetUnits k)).tryPacket p kind k = (true, (taken s p k).forwardPacket kind k (some p.toNat)) := by
    rw [State.tryPacket, show (s.received p (packetUnits k)).mine k.dst = none from hmine]
    rfl
  exact packetIn_tried hup hrx htry

theorem packetIn_serve {kind : BitVec 4} {prof : Option NicheNum} (hmine : s.mine k.dst = some prof) (hheld : s.packetHeld kind k = [])
    (hready : s.packetReady kind k = true) : s.packetIn p kind k = (taken s p k).servePacket prof kind k := by
  have htry : (s.received p (packetUnits k)).tryPacket p kind k = (true, (taken s p k).servePacket prof kind k) := by
    simp only [State.tryPacket, show (s.received p (packetUnits k)).mine k.dst = some prof from hmine, packetHeld_received, hheld,
      show (s.received p (packetUnits k)).packetReady kind k = true from hready, taken]
    rfl
  exact packetIn_tried hup hrx htry

end

/-! ## Serving at home -/

theorem pktLocal_eq (k : Packet) : pktLocal k = k.addr.toNat % 2 ^ 48 := by
  rw [pktLocal, fld, Nat.pow_zero, Nat.div_one]

theorem fld_zero {w : Nat} (x : BitVec w) (n : Nat) : fld x 0 n = x.toNat % 2 ^ n := by
  rw [fld, Nat.pow_zero, Nat.div_one]

section
variable {t : State} {prof : Option NicheNum} {k : Packet}

theorem serveRead_denied (h : t.admitted prof false k (pktLocal k) (pktBytes k) = false) : t.serveRead prof k = t.answer 3 k 1 [] := by
  rw [State.serveRead, h]
  rfl

theorem serveRead_memory (h : t.admitted prof false k (pktLocal k) (pktBytes k) = true) (hinj : bit t.err.inject 0 = false)
    (hmem : (t.classOf (pktLocal k)).isMemory = true) :
    let m := (t.traffic (pktLocal k) (pktBytes k) false).memRead (pktLocal k) (pktBytes k)
    t.serveRead prof k = m.2.answer 3 k (if (t.mem.firstPoison (pktLocal k) (pktBytes k)).isSome then 3 else 0) m.1 := by
  intro m
  have hread : t.homeRead (pktLocal k) (pktBytes k) = ((m.1, t.mem.firstPoison (pktLocal k) (pktBytes k)), m.2) := by
    simp only [State.homeRead, inject_unarmed hinj, State.devRead, hmem, if_true, m]
  rw [State.serveRead, h, hread]
  rfl

theorem serveWrite_denied (h : t.admitted prof true k (pktLocal k) (pktBytes k) = false) : t.serveWrite prof k = t.answer 4 k 1 [] := by
  rw [State.serveWrite, h]
  rfl

theorem serveWrite_eq (h : t.admitted prof true k (pktLocal k) (pktBytes k) = true) :
    let u := t.homeWrite (pktLocal k) (fitBytes (pktBytes k) k.data)
    t.serveWrite prof k =
      (if k.status = 3 then { u with mem := u.mem.addPoison (wordsOf (pktLocal k) (pktBytes k)) } else u : State).answer 4 k 0 [] := by
  intro u
  rw [State.serveWrite, h]
  rfl

theorem serveAtomic_denied (h : pktAtomicOk k = false ∨ t.admitted prof true k (pktLocal k) (pktWidth k) = false) :
    t.serveAtomic prof k = t.answer 3 k 1 [] := by
  have hbad : (!pktAtomicOk k || !t.admitted prof true k (pktLocal k) (pktWidth k)) = true := by
    rw [Bool.or_eq_true, Bool.not_eq_true', Bool.not_eq_true']
    exact h
  rw [State.serveAtomic, if_pos hbad]

theorem serveAtomic_eq (hok : pktAtomicOk k = true) (h : t.admitted prof true k (pktLocal k) (pktWidth k) = true)
    (hinj : bit t.err.inject 0 = false) : t.serveAtomic prof k = if t.mem.poisoned (pktLocal k) (pktWidth k) then t.answer 3 k 3 []
      else (t.atomAt (.dev (pktLocal k)) k.op.toNat (pktWidth k) (pktOperands k)).2.answer 3 k 0
        ((t.atomAt (.dev (pktLocal k)) k.op.toNat (pktWidth k) (pktOperands k)).1.1.flatMap (leBytes (pktWidth k))) := by
  rw [State.serveAtomic, hok, h, inject_unarmed hinj]
  rfl

/-- A partial of a reduction in flight: what the packet brings joins what came of its rank before. -/
theorem serveContrib_eq {l i : Nat} {u : State} {r : Reduction} (hlaunch : t.contribLaunch k (fld k.arg 0 16) = some l)
    (hred : t.redFor l (fld k.arg 0 16) = (some i, u)) (hr : u.fe.reds[i]? = some r) :
    let flat := (fld k.arg 30 14 * r.g + fld k.arg 44 6) * r.c + fld k.arg 50 7
    let vs := ((r.arriving.find? (fun a => a.1 == flat)).map (·.2)).getD [] ++ pktValues k r.x80
    let others := r.arriving.filter (fun a => a.1 != flat)
    t.serveContrib k =
      if !r.accepts r.x80 r.rows r.cols (fld k.arg 30 14) (fld k.arg 44 6) (fld k.arg 50 7) || pktBytes k % (if r.x80 then 16 else 8) != 0 ||
          decide (r.rows * r.cols < vs.length) then u.answer 4 k 1 []
      else if vs.length < r.rows * r.cols then (u.setRed { r with arriving := others ++ [(flat, vs)] }).answer 4 k 0 []
      else (u.accept i { r with arriving := others } flat vs).answer 4 k 0 [] := by
  intro flat vs others
  simp only [State.serveContrib, hlaunch, hred, hr]
  rfl

theorem serveFence_eq : t.serveFence k =
    if (List.range 64).any (fun e => fenceEntry k (t.export_ e)) && decide (k.addr.toNat / 64 % 2 ^ 56 < 1024) then
      (t.setFence (BitVec.ofNat 6 (k.addr.toNat % 64)) (k.addr.toNat / 64 % 1024) k.arg 4096).answer 4 { k with sys := true, channel := 2 } 0 []
    else t.answer 4 { k with sys := true, channel := 2 } 1 [] := by
  rw [State.serveFence, fld_zero]
  rfl

/-- A request for one frame where the donor has one. -/
theorem serveLease_grant {b : Nat} (hop : k.arg.toNat % 256 = 0) (hcount : k.arg.toNat / 256 = 1) (hframe : t.donorFrame k = some b) :
    t.serveLease k = ({ t with mem := t.mem.zero b 0x20_0000
                               tr := { t.tr with leases := t.tr.leases ++ [{ device := k.src, niche := k.niche, base := b }] } } : State).leaseReply k b 1 := by
  have hfn : fld k.arg 0 8 = 0 := (fld_zero k.arg 8).trans hop
  have hn : fld k.arg 8 56 = 1 := by
    rw [fld, show (2 : Nat) ^ 8 = 256 by decide, hcount]
    rfl
  simp only [State.serveLease, hfn, hn, hframe, State.grantFrames]
  rfl

/-- A frame given back. -/
theorem serveLease_back (hop : k.arg.toNat % 256 = 2) :
    let mine (l : Lease) : Bool := l.device == k.src && l.niche == k.niche && l.base == pktLocal k
    t.serveLease k = if t.tr.leases.any mine then (t.takeBack mine).answer 4 k 0 [] else t.answer 4 k 1 [] := by
  intro mine
  have hfn : fld k.arg 0 8 = 2 := (fld_zero k.arg 8).trans hop
  simp only [State.serveLease, hfn]
  rfl

end

/-- The state behind an operation that its answer ends. -/
def answered (t : State) (k : Packet) (o : RemoteOp) : State :=
  { t with tr := { t.tr with ops := t.tr.ops.filter (fun x => x.tag != o.tag), unreachable := t.tr.unreachable.filter (· != k.src.toNat)
                             heard := Sparse.put t.tr.heard k.src.toNat t.ns } }

section
variable {t : State} {k : Packet} {o : RemoteOp} {isResp : Bool} (hop : t.opOf isResp k = some o)
include hop

theorem serveAnswer_ok (hs : k.status = 0) : t.serveAnswer isResp k = (answered t k o).finishOp o (.ok k.data) := by
  simp only [State.serveAnswer, hop, hs]
  rfl

theorem serveAnswer_denied (hs : k.status = 1) : t.serveAnswer isResp k = (answered t k o).finishOp o .denied := by
  simp only [State.serveAnswer, hop, hs]
  rfl

theorem serveAnswer_poisoned (hs : k.status = 3) : t.serveAnswer isResp k = (answered t k o).finishOp o (.poisoned k.data) := by
  simp only [State.serveAnswer, hop, hs]
  rfl

end

/-! ## The obligation -/

theorem execAssign_eq {s : State} {p : PortNum} {k : Packet} (hup : (s.port p).state = 2) : execAssign p k s =
    .next (if s.disc.idValid = false ∧ bit s.tr.control 1 = true then (taken s p k).setDevice k.dst else taken s p k) := by
  have hopen : ¬ ((s.port p).state != 2) = true := by rw [hup]; decide
  have hcond : (!(taken s p k).disc.idValid && bit (taken s p k).tr.control 1) = true ↔ s.disc.idValid = false ∧ bit s.tr.control 1 = true := by
    rw [taken_disc, taken_control, Bool.and_eq_true, Bool.not_eq_true']
  exact congrArg Host.Outcome.next ((if_neg hopen).trans (if_congr hcond rfl rfl))

/-- Settles O51. -/
theorem packets : Obligations.Packets := by
  unfold Obligations.Packets
  intro s p k hup hrx t a len w
  have ha : a = pktLocal k := (pktLocal_eq k).symm
  have hserve {kind : BitVec 4} {prof : Option NicheNum} (hmine : s.mine k.dst = some prof) (hheld : s.packetHeld kind k = [])
      (hready : s.packetReady kind k = true) : s.packetIn p kind k = t.servePacket prof kind k := packetIn_serve hup hrx hmine hheld hready
  have hinj (h : bit s.err.inject 0 = false) : bit t.err.inject 0 = false := by
    rw [show t.err = s.err from taken_err s p k]
    exact h
  have hforward (kind : BitVec 4) (hmine : s.mine k.dst = none) : s.packetIn p kind k = t.forwardPacket kind k (some p.toNat) :=
    packetIn_forward hup hrx kind hmine
  have hassign : execAssign p k s = .next (if s.disc.idValid = false ∧ bit s.tr.control 1 = true then t.setDevice k.dst else t) :=
    execAssign_eq hup
  clear_value a t
  subst ha
  refine ⟨fun hmine => ⟨?_, ?_, ?_⟩, fun prof hmine => ⟨?_, ?_, ?_, ⟨?_, ?_⟩, ?_, ?_, fun o => ?_⟩, ?_⟩
  · exact congrArg Host.Outcome.next (hforward 0 hmine)
  · exact congrArg Host.Outcome.next (hforward 1 hmine)
  · exact congrArg Host.Outcome.next (hforward 3 hmine)
  · intro hheld hready
    have hread := hserve hmine hheld hready
    exact ⟨fun hno => congrArg Host.Outcome.next (hread.trans (serveRead_denied hno)),
      fun hyes hi hmem => congrArg Host.Outcome.next (hread.trans (serveRead_memory hyes (hinj hi) hmem))⟩
  · intro hheld hready
    have hwrite := hserve hmine hheld hready
    refine ⟨fun hno => congrArg Host.Outcome.next (hwrite.trans (serveWrite_denied hno)), fun hyes => ⟨fun hs => ?_, fun hs => ?_⟩⟩
    · exact congrArg Host.Outcome.next (hwrite.trans ((serveWrite_eq hyes).trans (congrArg (State.answer · 4 k 0 []) (if_neg hs))))
    · exact congrArg Host.Outcome.next (hwrite.trans ((serveWrite_eq hyes).trans (congrArg (State.answer · 4 k 0 []) (if_pos hs))))
  · intro hheld hready
    have hatomic := hserve hmine hheld hready
    refine ⟨fun hno => congrArg Host.Outcome.next (hatomic.trans (serveAtomic_denied hno)), fun hok hyes hi => ⟨fun hp => ?_, ?_⟩⟩
    · exact congrArg Host.Outcome.next (hatomic.trans ((serveAtomic_eq hok hyes (hinj hi)).trans (if_pos hp)))
    · intro olds f u hp hat
      refine congrArg Host.Outcome.next (hatomic.trans ((serveAtomic_eq hok hyes (hinj hi)).trans ((if_neg ?_).trans ?_)))
      · rw [Bool.not_eq_true]
        exact hp
      · rw [show t.atomAt (.dev (pktLocal k)) k.op.toNat (pktWidth k) (pktOperands k) = ((olds, f), u) from hat]
        rfl
  · intro l i u r idx f g c flat vs others bad hlaunch hred hr
    have hidx : idx = fld k.arg 0 16 := (fld_zero k.arg 16).symm
    have hcontrib := (hserve (kind := 5) hmine rfl rfl).trans (serveContrib_eq (hidx ▸ hlaunch) (hidx ▸ hred) hr)
    refine ⟨fun hbad => ?_, fun hgood hpart => ?_, fun hgood hwhole => ?_⟩
    · exact congrArg Host.Outcome.next (hcontrib.trans (if_pos hbad))
    · exact congrArg Host.Outcome.next (hcontrib.trans ((if_neg (Bool.not_eq_true _ ▸ hgood)).trans (if_pos hpart)))
    · exact congrArg Host.Outcome.next (hcontrib.trans ((if_neg (Bool.not_eq_true _ ▸ hgood)).trans (if_neg (Nat.not_lt.mpr hwhole.ge))))
  · intro back ok
    have hfence := (hserve (kind := 6) hmine rfl rfl).trans serveFence_eq
    exact ⟨fun hok => congrArg Host.Outcome.next (hfence.trans (if_pos hok)),
      fun hno => congrArg Host.Outcome.next (hfence.trans (if_neg (Bool.not_eq_true _ ▸ hno)))⟩
  · intro hop hcount hheld b hframe tr
    exact congrArg Host.Outcome.next ((hserve hmine hheld rfl).trans (serveLease_grant hop hcount hframe))
  · intro hop hheld mine
    have hback := (hserve hmine hheld rfl).trans (serveLease_back hop)
    exact ⟨fun hany => congrArg Host.Outcome.next (hback.trans (if_pos hany)),
      fun hnone => congrArg Host.Outcome.next (hback.trans (if_neg (Bool.not_eq_true _ ▸ hnone)))⟩
  · intro tr u
    refine ⟨fun hopOf hheld hready => ?_, fun hopOf => ?_⟩
    · have hresp := hserve hmine hheld hready
      exact ⟨fun hs => congrArg Host.Outcome.next (hresp.trans (serveAnswer_ok hopOf hs)),
        fun hs => congrArg Host.Outcome.next (hresp.trans (serveAnswer_denied hopOf hs)),
        fun hs => congrArg Host.Outcome.next (hresp.trans (serveAnswer_poisoned hopOf hs))⟩
    · have hack := hserve (kind := 4) hmine rfl rfl
      exact ⟨fun hs => congrArg Host.Outcome.next (hack.trans (serveAnswer_ok hopOf hs)),
        fun hs => congrArg Host.Outcome.next (hack.trans (serveAnswer_denied hopOf hs))⟩
  · exact hassign

end Sys2Proof.Proofs
end

section
/-! SUPPORT. The host link (17_host_link.md, R450 to R469): training, host accesses, window lines, messages, SPDM. -/

namespace Sys2Proof.Proofs

open Sys2Proof Sys2Proof.Machine

/-! ## The port -/

/-- The versions that MAX_VER admits, by its value. -/
theorem qclVersions_eq (m : Nat) :
    qclVersions m = if m = 0 then [0x10] else if m = 1 then [0x11, 0x10] else [0x20, 0x11, 0x10] := by
  match m with
  | 0 => rfl
  | 1 => rfl
  | m + 2 => rfl

theorem execQclTraining_up {s : State} {lo hi : Byte} {v : Nat} (hst : s.qcl.state = 1)
    (hv : (qclVersions (fld s.qcl.control 1 2)).find? (fun v => decide (lo.toNat ≤ v) && decide (v ≤ hi.toNat)) = some v) :
    execQclTraining lo hi s = .next { s with qcl := { s.qcl with peerMin := lo, peerMax := hi, state := 2, ver := BitVec.ofNat 8 v } } := by
  simp only [execQclTraining, State.trainQcl, hst, hv]
  rfl

theorem execQclTraining_down {s : State} {lo hi : Byte} (hst : s.qcl.state = 1)
    (hv : (qclVersions (fld s.qcl.control 1 2)).find? (fun v => decide (lo.toNat ≤ v) && decide (v ≤ hi.toNat)) = none) :
    execQclTraining lo hi s = .next (State.patinaEvent
      { s with qcl := { s.qcl with peerMin := lo, peerMax := hi, state := 0, ver := 0 } } 0x01 0 0
      (0x10 + 256 * (qclVersions (fld s.qcl.control 1 2)).headD 0) (lo.toNat + 256 * hi.toNat)) := by
  simp only [execQclTraining, State.trainQcl, hst, hv]
  rfl

/-- A retrain is open to a port in one, and to a port that is up where the host asks. -/
theorem retrain_open {s : State} {asked : Bool} (h : s.qcl.state = 3 ∨ (asked = true ∧ s.qcl.state = 2)) :
    ¬ (s.qcl.state != 3 && !(asked && s.qcl.state == 2)) = true := by
  rcases h with h | ⟨hasked, h⟩
  · rw [h]
    exact Bool.false_ne_true
  · rw [h, hasked]
    decide

/-! ## Host accesses -/

theorem hostUp_of {s : State} (h : s.qcl.state = 2 ∨ s.qcl.state = 3) : s.hostUp = true := by
  rw [State.hostUp, Bool.or_eq_true, beq_iff_eq, beq_iff_eq]
  exact h

/-- An access of a function with none before it, to a home that answers, is performed at once. -/
theorem hostAccess_serve {s : State} (hup : s.hostUp = true) {f : BitVec 7} {ap : Bool} {off : BitVec 48} {bytes : Nat} {wr : Option W64}
    (hfirst : ∀ y ∈ s.qcl.hostWait, y.func ≠ f)
    (hawake : s.hostAwake { func := f, aperture := ap, off := off.toNat, bytes := bytes, wr := wr } = true) :
    execHostAccess f ap off bytes wr s = .next (s.hostServe { func := f, aperture := ap, off := off.toNat, bytes := bytes, wr := wr }) := by
  have hnone : s.qcl.hostWait.any (fun y => y.func == f) = false := by
    rw [List.any_eq_false]
    intro y hy
    rw [beq_iff_eq]
    exact hfirst y hy
  have hgo : ¬ (s.qcl.hostWait.any (fun y => y.func == f) ||
      !s.hostAwake { func := f, aperture := ap, off := off.toNat, bytes := bytes, wr := wr }) = true := by
    rw [hnone, hawake]
    decide
  exact congrArg Host.Outcome.next ((if_pos hup).trans (if_neg hgo))

/-- One behind another of its function, or to a home that sleeps, waits. -/
theorem hostAccess_wait {s : State} (hup : s.hostUp = true) {f : BitVec 7} {ap : Bool} {off : BitVec 48} {bytes : Nat} {wr : Option W64}
    (h : (∃ y ∈ s.qcl.hostWait, y.func = f) ∨
      s.hostAwake { func := f, aperture := ap, off := off.toNat, bytes := bytes, wr := wr } = false) :
    execHostAccess f ap off bytes wr s = .next { s with qcl := { s.qcl with
      hostWait := s.qcl.hostWait ++ [{ func := f, aperture := ap, off := off.toNat, bytes := bytes, wr := wr }] } } := by
  have hwait : (s.qcl.hostWait.any (fun y => y.func == f) ||
      !s.hostAwake { func := f, aperture := ap, off := off.toNat, bytes := bytes, wr := wr }) = true := by
    rw [Bool.or_eq_true, List.any_eq_true, Bool.not_eq_true']
    simpa only [beq_iff_eq] using h
  exact congrArg Host.Outcome.next ((if_pos hup).trans (if_pos hwait))

/-! ### Function 0 -/

theorem hostServe_fn0 (s : State) (ap : Bool) (off bytes : Nat) (wr : Option W64) (h : ap = true ∨ off < 2 ^ 32) :
    s.hostServe { func := 0, aperture := ap, off := off, bytes := bytes, wr := wr } = s.hostFn0 ap off bytes wr := by
  have hin : ¬ (!ap && decide (2 ^ 32 ≤ off)) = true := by
    rcases h with h | h
    · rw [h]
      exact Bool.false_ne_true
    · rw [decide_eq_false (Nat.not_le.mpr h), Bool.and_false]
      exact Bool.false_ne_true
  rw [State.hostServe]
  exact (if_pos rfl).trans (if_neg hin)

theorem hostFn0_csr_write (s : State) (off bytes : Nat) (v : W64) : s.hostFn0 false off bytes (some v) =
    (s.count 113 bytes).csrStore .supervisor (0x3000_0000_0000 + off) (leBytes bytes v.toNat) := by
  simp only [State.hostFn0, Bool.not_false, Bool.true_or, if_true, Bool.false_eq_true, if_false]

theorem hostFn0_csr_read (s : State) (off bytes : Nat) :
    let t := s.count 112 bytes
    s.hostFn0 false off bytes none = { t with qcl := { t.qcl with
      lastRead := BitVec.ofNat 64 (leNat (t.csrLoad .supervisor none (0x3000_0000_0000 + off) bytes)) } } := by
  simp only [State.hostFn0, Bool.not_false, Bool.true_or, if_true, Bool.false_eq_true, if_false]

theorem hostFn0_home_write {s : State} {off : Nat} (hclass : s.classOf off ≠ .csr) (bytes : Nat) (v : W64) :
    s.hostFn0 true off bytes (some v) = (s.count 113 bytes).homeWrite off (leBytes bytes v.toNat) := by
  simp only [State.hostFn0, if_true, Bool.not_true, Bool.false_or, decide_eq_false hclass, Bool.false_eq_true, if_false]

theorem hostFn0_home_read {s : State} {off : Nat} (hclass : s.classOf off ≠ .csr) {bytes : Nat} {bs : List Byte} {p : Option Nat} {u : State}
    (hread : (s.count 112 bytes).homeRead off bytes = ((bs, p), u)) :
    s.hostFn0 true off bytes none = { u with qcl := { u.qcl with lastRead := BitVec.ofNat 64 (leNat bs) } } := by
  simp only [State.hostFn0, if_true, Bool.not_true, Bool.false_or, decide_eq_false hclass, Bool.false_eq_true, if_false, hread]

/-! ### Profile functions -/

section
variable {s : State} {f : BitVec 7} (hlo : 1 ≤ f.toNat) (hhi : f.toNat ≤ 64)
  (hprof : bit (s.niche (BitVec.ofNat 6 (f.toNat - 1))).control 1 = true)
include hlo hhi hprof

theorem hostServe_profile (ap : Bool) (off bytes : Nat) (wr : Option W64) :
    s.hostServe { func := f, aperture := ap, off := off, bytes := bytes, wr := wr } =
      if ap then s.profileAccess (BitVec.ofNat 6 (f.toNat - 1)) off bytes wr
      else (wr.elim { s.count 112 bytes with qcl := { s.qcl with lastRead := 0 } }
        (fun v => (s.count 113 bytes).profileBell (BitVec.ofNat 6 (f.toNat - 1)) off bytes v)) := by
  have hf : ¬ f = 0 := by
    rintro rfl
    exact absurd hlo (by decide)
  have hno : ¬ (64 < f.toNat ∨ bit (s.niche (BitVec.ofNat 6 (f.toNat - 1))).control 1 = false) := by
    rintro (h | h)
    · omega
    · exact Bool.false_ne_true (h.symm.trans hprof)
  rw [State.hostServe]
  refine (if_neg hf).trans ((if_neg hno).trans ?_)
  cases wr <;> rfl

theorem hostAwake_profile (off bytes : Nat) (wr : Option W64)
    (h : s.inProfile (BitVec.ofNat 6 (f.toNat - 1)) (Config.jexlorPlace (s.profileRanges (BitVec.ofNat 6 (f.toNat - 1))) off) bytes = true →
      s.awake none (Config.jexlorPlace (s.profileRanges (BitVec.ofNat 6 (f.toNat - 1))) off) = true) :
    s.hostAwake { func := f, aperture := true, off := off, bytes := bytes, wr := wr } = true := by
  have hf : ¬ f = 0 := by
    rintro rfl
    exact absurd hlo (by decide)
  refine (if_neg hf).trans ?_
  rw [Bool.or_eq_true, Bool.not_eq_true']
  cases hin : s.inProfile (BitVec.ofNat 6 (f.toNat - 1)) (Config.jexlorPlace (s.profileRanges (BitVec.ofNat 6 (f.toNat - 1))) off) bytes with
  | false => exact .inl rfl
  | true => exact .inr (h hin)

end

/-- A read through aperture 1 of a profile function. -/
theorem profileAccess_read {s : State} {n : NicheNum} {off bytes : Nat} {bs : List Byte} {p : Option Nat} {u : State}
    (hread : (s.count 112 bytes).homeRead (Config.jexlorPlace (s.profileRanges n) off) bytes = ((bs, p), u)) :
    let there := s.inProfile n (Config.jexlorPlace (s.profileRanges n) off) bytes
    let x := if there then u else (s.count 112 bytes).hole (Config.jexlorPlace (s.profileRanges n) off) false
    s.profileAccess n off bytes none =
      { x with qcl := { x.qcl with lastRead := BitVec.ofNat 64 (leNat (if there then bs else [])) } } := by
  intro there
  simp only [State.profileAccess, hread, there]
  split <;> rfl

/-! ## Window lines -/

section
variable {s : State} {line : BitVec 48} {excl : Bool} (hup : s.hostUp = true) (hwin : s.inWindow line.toNat = true)
include hup hwin

theorem lineRequest_wait (hrec : line.toNat ∈ s.qcl.recalling) : execHostLineRequest line excl s =
    .next { s with qcl := { s.qcl with lineWait := s.qcl.lineWait ++ [(line.toNat, excl)] } } := by
  simp only [execHostLineRequest, hup, State.takeLine, hwin, List.contains_iff_mem.mpr hrec]
  rfl

theorem lineRequest_eq (hrec : line.toNat ∉ s.qcl.recalling) : execHostLineRequest line excl s = .next
    (if decide (2 ^ 20 ≤ s.qcl.dir.length) && !s.qcl.dir.any (fun d => d.1 == line.toNat) then
      let t := s.recall ((s.qcl.dir.head?.map (·.1)).toList)
      { t with qcl := { t.qcl with lineWait := t.qcl.lineWait ++ [(line.toNat, excl)] } }
    else
      let u := (s.homeRead line.toNat 64).2
      { u.count 112 64 with qcl := { u.qcl with dir := u.qcl.dir.filter (fun d => d.1 != line.toNat) ++ [(line.toNat, excl)] } }) := by
  have hno : s.qcl.recalling.contains line.toNat = false := by
    rw [← Bool.not_eq_true, List.contains_iff_mem]
    exact hrec
  simp only [execHostLineRequest, hup, State.takeLine, hwin, hno]
  rfl

end

theorem writeback_held {s : State} {line : BitVec 48} (h : (line.toNat, true) ∈ s.qcl.dir) (data : List Byte) :
    execHostWriteback line data s = .next (((s.count 113 64).homeWrite line.toNat data).dropLine line.toNat) :=
  congrArg Host.Outcome.next (if_pos (List.contains_iff_mem.mpr h))

theorem recallAnswer_held {s : State} {line : BitVec 48} (h : (line.toNat, false) ∈ s.qcl.dir) (hrec : line.toNat ∈ s.qcl.recalling) :
    execHostRecallAnswer line s = .next (s.dropLine line.toNat) := by
  refine congrArg Host.Outcome.next (if_pos ?_)
  rw [List.contains_iff_mem.mpr h, List.contains_iff_mem.mpr hrec]
  rfl

/-! ## Windows and messages -/

theorem writeMsg_word1 (s : State) (k : Nat) (v : W64) :
    let e := Sparse.getD s.qcl.msgs k {}
    let e1 : Msg := { e with data := BitVec.ofNat 32 v.toNat, mask := bit v 32, func := if 65 ≤ fld v 34 7 then e.func else BitVec.ofNat 7 (fld v 34 7) }
    s.writeMsg k 1 (BitVec.allOnes 64) v =
      if e.pending && !bit v 32 then
        State.trigger { s with qcl := { s.qcl with msgs := Sparse.put s.qcl.msgs k { e1 with pending := false } } } k
      else { s with qcl := { s.qcl with msgs := Sparse.put s.qcl.msgs k e1 } } := by
  intro e e1
  have hdata : BitVec.ofNat 32 (fld v 0 32) = BitVec.ofNat 32 v.toNat := by
    rw [fld_zero]
    exact BitVec.eq_of_toNat_eq (by simp only [BitVec.toNat_ofNat, Nat.mod_mod])
  have hbit : bit (BitVec.allOnes 64) 32 = true := by decide
  simp only [State.writeMsg, Nat.one_ne_zero, if_false, masked_all, hdata, hbit, if_true, e, e1]

/-! ## SPDM -/

/-- The request that waits is answered by the command of its code, and by no other. -/
theorem spdm_answers {s : State} (hgo : bit s.qcl.spdmCtrl 26 = true) (hfw : s.disc.fwReady = true) {code : Nat} (hcode : s.qcl.spdmCode = code) :
    s.spdm code = s.serveSpdm := by
  have hwaits : (bit s.qcl.spdmCtrl 26 && s.qcl.spdmCode == code && s.disc.fwReady) = true := by
    rw [hgo, hfw, beq_iff_eq.mpr hcode]
    rfl
  exact if_pos hwaits

theorem serveSpdm_eq (s : State) :
    let q := s.qcl
    let rsp := (Config.spdmResponse q.spdmCode q.request q.spdmLog s.boot.measured).take 4096
    let ctrl := setBit (setBit (setFld q.spdmCtrl 13 13 rsp.length) 26 false) 27 true
    s.serveSpdm = State.trigger { s with qcl := { q with
        spdmCtrl := ctrl, spdmRsp := (rsp.mapIdx (fun i b => (i, b))), spdmLog := q.spdmLog ++ [q.request] } } (fld ctrl 28 12) := by
  intro q rsp ctrl
  rw [State.serveSpdm]

/-- Settles O53. -/
theorem hostLink : Obligations.HostLink := by
  unfold Obligations.HostLink
  intro s q vs
  have hvs : vs = qclVersions (fld q.control 1 2) := (qclVersions_eq _).symm
  refine ⟨fun lo hi hst => ?_, fun hst => ?_, fun asked hst => ?_, fun hst => ?_, fun line => ?_, fun a v w => ?_, fun a v m => ?_, fun hgo hfw => ?_⟩
  · rw [hvs]
    exact ⟨fun v hv => execQclTraining_up hst hv, fun hv => execQclTraining_down hst hv⟩
  · intro n t
    have hup : (s.qcl.state == 2) = true := beq_iff_eq.mpr hst
    exact ⟨fun hlt => congrArg Host.Outcome.next ((if_pos hup).trans (if_neg (Nat.not_le.mpr hlt))),
      fun hle => congrArg Host.Outcome.next ((if_pos hup).trans (if_pos hle))⟩
  · intro b down
    refine ⟨congrArg Host.Outcome.next ((if_neg (retrain_open hst)).trans (if_pos rfl)), fun hmode => ?_, fun hmode => ?_⟩
    · exact congrArg Host.Outcome.next ((if_neg (retrain_open hst)).trans ((if_neg Bool.false_ne_true).trans (if_pos (beq_iff_eq.mpr hmode))))
    · refine congrArg Host.Outcome.next ((if_neg (retrain_open hst)).trans ((if_neg Bool.false_ne_true).trans (if_neg ?_)))
      rw [beq_iff_eq]
      exact hmode
  · have hup : s.hostUp = true := hostUp_of hst
    refine ⟨fun off bytes v hoff hfirst => ?_, fun off bytes hclass hfirst hawake => ⟨fun v => ?_, fun bs p u hread => ?_⟩,
      fun f off bytes v hlo hhi => ?_, fun f ap off bytes wr => ?_, fun line excl => ?_, fun line excl => ?_⟩
    · have hserve (wr : Option W64) := (hostAccess_serve hup (ap := false) (off := off) (bytes := bytes) (wr := wr) hfirst rfl).trans
        (congrArg Host.Outcome.next (hostServe_fn0 s false off.toNat bytes wr (.inr hoff)))
      exact ⟨(hserve (some v)).trans (congrArg Host.Outcome.next (hostFn0_csr_write s off.toNat bytes v)),
        (hserve none).trans (congrArg Host.Outcome.next (hostFn0_csr_read s off.toNat bytes))⟩
    · exact (hostAccess_serve hup (ap := true) hfirst hawake).trans (congrArg Host.Outcome.next
        ((hostServe_fn0 s true off.toNat bytes (some v) (.inl rfl)).trans (hostFn0_home_write hclass bytes v)))
    · exact (hostAccess_serve hup (ap := true) hfirst hawake).trans (congrArg Host.Outcome.next
        ((hostServe_fn0 s true off.toNat bytes none (.inl rfl)).trans (hostFn0_home_read hclass hread)))
    · intro n hprof hfirst
      refine ⟨?_, ?_⟩
      · exact (hostAccess_serve hup (ap := false) hfirst rfl).trans (congrArg Host.Outcome.next
          (hostServe_profile hlo hhi hprof false off.toNat bytes (some v)))
      intro a there hawake
      refine ⟨?_, fun bs p u hread => ?_⟩
      · exact (hostAccess_serve hup hfirst (hostAwake_profile hlo hhi hprof off.toNat bytes (some v) hawake)).trans (congrArg Host.Outcome.next
          (hostServe_profile hlo hhi hprof true off.toNat bytes (some v)))
      · exact (hostAccess_serve hup hfirst (hostAwake_profile hlo hhi hprof off.toNat bytes none hawake)).trans (congrArg Host.Outcome.next
          ((hostServe_profile hlo hhi hprof true off.toNat bytes none).trans (profileAccess_read hread)))
    · intro x hwait
      exact hostAccess_wait hup hwait
    · intro l hwin hrec
      exact lineRequest_wait hup hwin hrec
    · intro l hwin hrec
      have hline := lineRequest_eq (excl := excl) hup hwin hrec
      refine ⟨fun hroom bs p u hread => ?_, fun d ds hnone hfull hdir => ?_⟩
      · refine hline.trans (congrArg Host.Outcome.next ((if_neg ?_).trans ?_))
        · rw [Bool.and_eq_true, decide_eq_true_eq, Bool.not_eq_true', List.any_eq_false]
          rintro ⟨hfull, hnone⟩
          rcases hroom with ⟨d, hd, hl⟩ | hroom
          · exact hnone d hd (beq_iff_eq.mpr hl)
          · exact absurd hroom (Nat.not_lt.mpr hfull)
        · rw [show s.homeRead line.toNat 64 = ((bs, p), u) from hread]
      · refine hline.trans (congrArg Host.Outcome.next ((if_pos ?_).trans ?_))
        · rw [Bool.and_eq_true, decide_eq_true_eq, Bool.not_eq_true', List.any_eq_false]
          exact ⟨hfull, fun d hd => by rw [beq_iff_eq]; exact hnone d hd⟩
        · rw [show s.qcl.dir = d :: ds from hdir]
          rfl
  · intro l
    refine ⟨fun data hheld => writeback_held hheld data, fun hheld hrec => recallAnswer_held hheld hrec, fun hrec hlate => ?_⟩
    refine congrArg Host.Outcome.next (if_pos ?_)
    rw [List.contains_iff_mem.mpr hrec, decide_eq_true hlate]
    rfl
  · intro old new
    refine ⟨fun ha hfree hfw => ?_, fun ha => congrArg Host.Outcome.next (if_neg (by rw [ha]; exact Bool.false_ne_true))⟩
    refine congrArg Host.Outcome.next ((if_pos ha).trans ((if_neg ?_).trans ((if_neg ?_).trans ?_)))
    · rw [Bool.and_eq_true, List.any_eq_true]
      rintro ⟨hon, d, hd, hover⟩
      rcases hfree with hoff | hnone
      · exact Bool.false_ne_true (hoff.symm.trans hon)
      · exact Bool.false_ne_true ((hnone d hd).symm.trans hover)
    · rw [BitVec.allOnes_and]
      exact Bool.not_eq_true _ ▸ hfw
    · rw [BitVec.allOnes_and]
      rfl
  · intro e f e1
    refine ⟨fun ha => ?_, fun ha => congrArg Host.Outcome.next (if_neg (by rw [ha]; exact Bool.false_ne_true))⟩
    have hmsg : (if isFwOrSup a then s.writeMsg m.toNat 1 (BitVec.allOnes 64) v else s) = _ := (if_pos ha).trans (writeMsg_word1 s m.toNat v)
    refine ⟨fun hquiet => congrArg Host.Outcome.next (hmsg.trans (if_neg ?_)), fun hpend hunmask => congrArg Host.Outcome.next (hmsg.trans (if_pos ?_))⟩
    · rw [Bool.and_eq_true, Bool.not_eq_true']
      rintro ⟨hp, hm⟩
      rcases hquiet with h | h
      · exact Bool.false_ne_true (h.symm.trans hp)
      · exact Bool.false_ne_true (hm.symm.trans h)
    · rw [show (Sparse.getD s.qcl.msgs m.toNat {}).pending = true from hpend, hunmask]
      rfl
  · intro rsp ctrl t u
    have hserve {code : Nat} (hcode : s.qcl.spdmCode = code) : (.next (s.spdm code) : Host.Outcome State Fault Refusal) = .next u :=
      congrArg Host.Outcome.next ((spdm_answers hgo hfw hcode).trans (serveSpdm_eq s))
    exact ⟨hserve, hserve, hserve, hserve, hserve, hserve, hserve⟩

end Sys2Proof.Proofs
end

section
/-! SUPPORT. Errors, power and heat (18_errors.md, R477 to R482; 22_electrical.md, R558 to R560): what a device-fatal error leaves. -/

namespace Sys2Proof.Proofs

open Sys2Proof Sys2Proof.Machine

/-! ## What a change of a region's clock leaves of the rest -/

/-- Only memory, cores, regions, counters and the stream of free choices differ. -/
def ClockOnly (s t : State) : Prop :=
  t = { s with mem := t.mem, fresh := t.fresh, cores := t.cores, regions := t.regions, counters := t.counters }

theorem ClockOnly.refl (s : State) : ClockOnly s s := rfl

theorem ClockOnly.trans {s t u : State} (h : ClockOnly s t) (k : ClockOnly t u) : ClockOnly s u := by
  unfold ClockOnly at h k ⊢
  rw [k, h]

theorem ClockOnly.foldl {α : Type} {f : State → α → State} (hf : ∀ t x, ClockOnly t (f t x)) (l : List α) (s : State) :
    ClockOnly s (l.foldl f s) := by
  induction l generalizing s with
  | nil => exact ClockOnly.refl s
  | cons x l ih => exact (hf s x).trans (ih (f s x))

theorem ClockOnly.err {s t : State} (h : ClockOnly s t) : t.err = s.err := by
  rw [h]

theorem ClockOnly.pat {s t : State} (h : ClockOnly s t) : t.pat = s.pat := by
  rw [h]

theorem ClockOnly.disc {s t : State} (h : ClockOnly s t) : t.disc = s.disc := by
  rw [h]

theorem ClockOnly.of_frz {s t : State} (h : FrzOnly s t) : ClockOnly s t := by
  unfold ClockOnly
  exact h.1.trans (by rw [h.1])

theorem leaveStage_only (s : State) (r : RegionNum) (new : W64) : ClockOnly s (leaveStage s r new) := by
  unfold leaveStage
  dsimp only
  split <;> split <;> rfl

theorem offStage_only (s : State) (r : RegionNum) (new : W64) : ClockOnly s (offStage s r new) := by
  unfold offStage
  split
  · exact (leaveStage_only s r new).trans rfl
  · exact leaveStage_only s r new

theorem setClock_stages (s : State) (r : RegionNum) (new : W64) :
    ∃ f, s.setClock r new = (if fld new 0 3 == 0 then offStage s r new else (offStage s r new).mapCores r f).clockRecords r
      (s.region r).state (fld new 0 3) (fld new 3 3) := ⟨_, rfl⟩

theorem setClock_only (s : State) (r : RegionNum) (new : W64) : ClockOnly s (s.setClock r new) := by
  obtain ⟨f, hset⟩ := setClock_stages s r new
  have hrest : ClockOnly s (if fld new 0 3 == 0 then offStage s r new else (offStage s r new).mapCores r f) := by
    split
    · exact offStage_only s r new
    · exact (offStage_only s r new).trans rfl
  rw [hset]
  exact hrest.trans (ClockOnly.of_frz (clockRecords_only _ r _ _ _))

/-! ## What it leaves of the other regions -/

theorem regionOff_other (s : State) {r q : RegionNum} (h : q ≠ r) : (s.regionOff r).region q = s.region q := by
  unfold State.regionOff
  have hregion (t : State) (a n : Nat) : (t.scramble a n).region q = t.region q := rfl
  dsimp only
  rw [hregion, State.region_updRegion_other _ h]
  rfl

theorem offStage_other (s : State) {r q : RegionNum} (h : q ≠ r) (new : W64) : (offStage s r new).region q = s.region q := by
  have hleave : (leaveStage s r new).region q = s.region q := by
    have hfirst : (s.updRegion r (fun x => { x.boundary with clock := new })).region q = s.region q := State.region_updRegion_other s h _
    unfold leaveStage
    dsimp only
    generalize s.updRegion r (fun x => { x.boundary with clock := new }) = u at hfirst ⊢
    have hmap : (if (s.region r).state == 3 && fld new 0 3 != 3 then u.mapCores r Core.regionReset else u).region q = u.region q := by
      split <;> rfl
    generalize (if (s.region r).state == 3 && fld new 0 3 != 3 then u.mapCores r Core.regionReset else u) = v at hmap ⊢
    split
    · exact (State.region_updRegion_other _ h _).trans (hmap.trans hfirst)
    · exact hmap.trans hfirst
  unfold offStage
  split
  · exact (regionOff_other _ h).trans hleave
  · exact hleave

/-- The clock state of every region behind a change of one. -/
theorem setClock_state (s : State) (r q : RegionNum) (new : W64) :
    ((s.setClock r new).region q).state = if q = r then fld new 0 3 else (s.region q).state := by
  split
  next h =>
    subst h
    rw [Region.state, (setClock_region s q new).1]
  next h =>
    obtain ⟨f, hset⟩ := setClock_stages s r new
    have hrest : (if fld new 0 3 == 0 then offStage s r new else (offStage s r new).mapCores r f).region q = (offStage s r new).region q := by
      split <;> rfl
    rw [hset, (clockRecords_only _ r _ _ _).region q, hrest, offStage_other s h]
    rfl

/-! ## A change of every region -/

/-- Steps that each put one region's clock state through h put every region's through it. -/
theorem foldl_state {f : State → Nat → State} {h : Nat → Nat} (hidem : ∀ x, h (h x) = h x)
    (hf : ∀ t i q, ((f t i).region q).state = if q = BitVec.ofNat 6 i then h (t.region q).state else (t.region q).state) (l : List Nat) (s : State)
    (q : RegionNum) : ((l.foldl f s).region q).state =
      if ∃ i ∈ l, q = BitVec.ofNat 6 i then h (s.region q).state else (s.region q).state := by
  induction l generalizing s with
  | nil => simp
  | cons i l ih =>
    rw [List.foldl_cons, ih, hf]
    by_cases hq : q = BitVec.ofNat 6 i
    · simp [hq, hidem]
    · simp [hq]

theorem foldl_state_all {f : State → Nat → State} {h : Nat → Nat} (hidem : ∀ x, h (h x) = h x)
    (hf : ∀ t i q, ((f t i).region q).state = if q = BitVec.ofNat 6 i then h (t.region q).state else (t.region q).state) (s : State) (q : RegionNum) :
    (((List.range 64).foldl f s).region q).state = h (s.region q).state := by
  rw [foldl_state hidem hf, if_pos]
  exact ⟨q.toNat, List.mem_range.mpr q.isLt, (BitVec.ofNat_toNat 6 q).symm⟩

theorem fld_setFld_state (w : W64) (v : Nat) (hv : v < 8) : fld (setFld w 0 3 v) 0 3 = v := by
  have hw := w.isLt
  simp only [fld, setFld, putN, BitVec.toNat_ofNat]
  omega

/-- A region halts, but for one that is OFF. -/
def haltState (x : Nat) : Nat := if x = 3 then 3 else 2

theorem haltState_idem (x : Nat) : haltState (haltState x) = haltState x := by
  unfold haltState
  split <;> rfl

theorem haltAll_state (s : State) (q : RegionNum) : (s.haltAll.region q).state = haltState (s.region q).state := by
  refine foldl_state_all haltState_idem (fun t i q => ?_) s q
  by_cases h3 : (t.region (BitVec.ofNat 6 i)).state = 3
  · rw [if_pos h3, State.region_updRegion]
    split
    next hq =>
      rw [hq, haltState, h3]
      exact h3
    next => rfl
  · rw [if_neg h3, setClock_state, State.region_updRegion, fld_setFld_state _ _ (by decide)]
    split
    next hq => rw [hq, haltState, if_neg h3]
    next => rfl

theorem haltAll_only (s : State) : ClockOnly s s.haltAll := by
  refine ClockOnly.foldl (fun t i => ?_) _ s
  dsimp only
  split
  · rfl
  · have hupd : ClockOnly t (t.updRegion (BitVec.ofNat 6 i) (fun x => { x with targets := [] })) := rfl
    exact hupd.trans (setClock_only _ _ _)

/-- A probe that is dropped leaves every clock. -/
theorem dropProbe_state (s : State) (r q : RegionNum) : ((s.dropProbe r).region q).state = (s.region q).state := by
  unfold State.dropProbe
  split
  · rw [State.region_updRegion]
    split
    next hq =>
      rw [hq]
      rfl
    next => rfl
  · rfl

theorem dropProbe_only (s : State) (r : RegionNum) : ClockOnly s (s.dropProbe r) := by
  unfold State.dropProbe
  split <;> rfl

/-- The state in which every region stands halted and no probe runs on. -/
def stopped (s : State) : State := (List.range 64).foldl (fun s i => s.dropProbe (BitVec.ofNat 6 i)) s.haltAll

theorem stopped_only (s : State) : ClockOnly s (stopped s) :=
  (haltAll_only s).trans (ClockOnly.foldl (fun t _ => dropProbe_only t _) _ _)

theorem stopped_state (s : State) (q : RegionNum) : ((stopped s).region q).state = haltState (s.region q).state :=
  (foldl_state_all (h := id) (fun _ => rfl) (fun t _ q => (dropProbe_state t _ q).trans (ite_self _).symm) _ q).trans (haltAll_state s q)

/-! ## What a record of an error leaves -/

/-- The lists of device-fatal errors stand, and so does the clock of power-on seconds. -/
def Recorded (s t : State) : Prop :=
  t = { s with err := t.err, pat := t.pat, qcl := t.qcl, hostMem := t.hostMem, counters := t.counters } ∧
    t.err.fatalCount = s.err.fatalCount ∧ t.err.fatals = s.err.fatals ∧ t.err.held = s.err.held ∧ t.pat.powerOnS = s.pat.powerOnS

theorem Recorded.trans {s t u : State} (h : Recorded s t) (k : Recorded t u) : Recorded s u := by
  obtain ⟨h1, h2, h3, h4, h5⟩ := h
  obtain ⟨k1, k2, k3, k4, k5⟩ := k
  exact ⟨by rw [k1, h1], k2.trans h2, k3.trans h3, k4.trans h4, k5.trans h5⟩

theorem Recorded.region {s t : State} (h : Recorded s t) (r : RegionNum) : t.region r = s.region r := by
  rw [h.1]
  rfl

theorem Recorded.tr {s t : State} (h : Recorded s t) : t.tr = s.tr := by
  rw [h.1]

theorem Recorded.refl (s : State) : Recorded s s := ⟨rfl, rfl, rfl, rfl, rfl⟩

theorem trigger_recorded (s : State) (m : Nat) : Recorded s (s.trigger m) := by
  unfold State.trigger
  dsimp only
  split <;> exact ⟨rfl, rfl, rfl, rfl, rfl⟩

theorem logRecord_recorded {e : ErrInfo} (hcore : e.core = none) (s : State) : Recorded s (s.logRecord e) := by
  unfold State.logRecord
  simp only [hcore]
  split
  · split <;> exact ⟨rfl, rfl, rfl, rfl, rfl⟩
  · split
    · exact Recorded.trans ⟨rfl, rfl, rfl, rfl, rfl⟩ (trigger_recorded _ _)
    · exact ⟨rfl, rfl, rfl, rfl, rfl⟩

theorem logError_recorded {e : ErrInfo} (hcore : e.core = none) (s : State) : Recorded s (s.logError e) := by
  unfold State.logError
  simp only [hcore]
  split
  · exact ⟨rfl, rfl, rfl, rfl, rfl⟩
  · exact logRecord_recorded hcore s

/-! ## A device-fatal error -/

/-- The ports of a device that has stopped. -/
def portsStopped (s : State) : State := s.mapPorts (fun _ x => { x with state := 0 })

theorem portsStopped_region (s : State) (r : RegionNum) : (portsStopped s).region r = s.region r := rfl
theorem portsStopped_err (s : State) : (portsStopped s).err = s.err := rfl
theorem portsStopped_pat (s : State) : (portsStopped s).pat = s.pat := rfl
theorem portsStopped_ports (s : State) : (portsStopped s).tr.ports = s.tr.ports.mapVals (fun _ x => { x with state := 0 }) := rfl

/-- The fatal error is told to the host. -/
def fatalTold (s : State) : State :=
  if s.qcl.state == 2 && bit s.err.control 12 then s.trigger (fld s.err.control 0 12) else s

/-- The state in which the fatal error stands recorded. -/
def fatalRecorded (s : State) (e : ErrInfo) : State := (fatalTold (portsStopped (stopped s))).logError e

/-- The device behind a recorded fatal error: counted, in mode 3, its firmware not ready. -/
def fatalEnd (s : State) (cause : Nat) : State :=
  let t := s.pat.powerOnS.toNat
  let fatals := (t :: s.err.fatals).filter (fun x => decide (t < x + 3600))
  { s with
    err := { s.err with fatalCount := satAdd s.err.fatalCount 1, lastCause := BitVec.ofNat 8 cause, recovering := true,
                        fatals := fatals, held := s.err.held || decide (3 ≤ fatals.length) }
    disc := { s.disc with mode := 3, fwReady := false } }

theorem fatal_eq (s : State) (e : ErrInfo) : s.fatal e = fatalEnd (fatalRecorded s e) e.cause := by
  unfold State.fatal fatalRecorded fatalTold portsStopped stopped fatalEnd
  rfl

/-- The error at hand counts toward the three of R481. -/
theorem fatalEnd_held (s : State) (cause : Nat) : (fatalEnd s cause).err.held =
    (s.err.held || decide (2 ≤ (s.err.fatals.filter (fun x => decide (s.pat.powerOnS.toNat < x + 3600))).length)) := by
  have hself : decide (s.pat.powerOnS.toNat < s.pat.powerOnS.toNat + 3600) = true := decide_eq_true (by omega)
  simp only [fatalEnd, List.filter_cons, hself, if_true, List.length_cons, Nat.succ_le_succ_iff]

theorem fatalRecorded_recorded {e : ErrInfo} (hcore : e.core = none) (s : State) :
    Recorded (portsStopped (stopped s)) (fatalRecorded s e) := by
  refine Recorded.trans ?_ (logError_recorded hcore _)
  unfold fatalTold
  split
  · exact trigger_recorded _ _
  · exact Recorded.refl _

section
variable {e : ErrInfo} (hcore : e.core = none) (s : State)
include hcore

theorem fatal_state (r : RegionNum) : ((s.fatal e).region r).state = haltState (s.region r).state := by
  have hregion : (fatalRecorded s e).region r = (stopped s).region r :=
    ((fatalRecorded_recorded hcore s).region r).trans (portsStopped_region _ r)
  rw [fatal_eq]
  exact (congrArg Region.state hregion).trans (stopped_state s r)

theorem fatal_ports : ∀ p ∈ (s.fatal e).tr.ports, p.2.state = 0 := by
  have hports : (fatalRecorded s e).tr.ports = (stopped s).tr.ports.mapVals (fun _ x => { x with state := 0 }) :=
    (congrArg Trestle.ports (fatalRecorded_recorded hcore s).tr).trans (portsStopped_ports _)
  rw [fatal_eq, show (fatalEnd (fatalRecorded s e) e.cause).tr.ports = _ from hports, Sparse.mapVals]
  intro p hp
  obtain ⟨q, _, rfl⟩ := List.mem_map.mp hp
  rfl

/-- What a record of an error leaves of the counts that a fatal error changes. -/
theorem fatalRecorded_err : (fatalRecorded s e).err.fatalCount = s.err.fatalCount ∧ (fatalRecorded s e).err.held = s.err.held ∧
    (fatalRecorded s e).err.fatals = s.err.fatals ∧ (fatalRecorded s e).pat.powerOnS = s.pat.powerOnS := by
  obtain ⟨_, hcount, hfatals, hheld, hpower⟩ := fatalRecorded_recorded hcore s
  have herr : (portsStopped (stopped s)).err = s.err := (portsStopped_err _).trans (stopped_only s).err
  have hpat : (portsStopped (stopped s)).pat = s.pat := (portsStopped_pat _).trans (stopped_only s).pat
  rw [herr] at hcount hfatals hheld
  rw [hpat] at hpower
  exact ⟨hcount, hheld, hfatals, hpower⟩

end

/-! ## The recovery -/

theorem journal_pat (s : State) (r : PatRec) : s.journal r = { s with pat := (s.journal r).pat } := by
  unfold State.journal
  split
  · rfl
  · split <;> rfl

theorem signJournal_pat (s : State) (type loc : Nat) (body : List Byte) :
    s.signJournal type loc body = { s with pat := (s.signJournal type loc body).pat } := by
  unfold State.signJournal
  dsimp only
  rw [journal_pat]
  rfl

/-- Steps that touch nothing but Patina's state. -/
theorem foldl_pat {α : Type} {f : State → α → State} (hf : ∀ t x, f t x = { t with pat := (f t x).pat }) (l : List α) (s : State) :
    l.foldl f s = { s with pat := (l.foldl f s).pat } := by
  induction l generalizing s with
  | nil => rfl
  | cons x l ih =>
    rw [List.foldl_cons, ih, hf]

theorem journalWaiting_pat (s : State) (all : Bool) : s.journalWaiting all = { s with pat := (s.journalWaiting all).pat } := by
  have herrors (t : State) (rs : List ErrRec) : t.journalErrors rs = { t with pat := (t.journalErrors rs).pat } :=
    foldl_pat (fun t i => signJournal_pat t _ _ _) _ t
  unfold State.journalWaiting
  dsimp only
  rw [foldl_pat (fun t x => signJournal_pat t _ _ _), herrors]

/-- What follows the journal of a recovery that goes on to the reset. -/
def recoverySteps (s : State) (dimms : List Nat) : State :=
  let p := s.journalWaiting false
  let b : State := { p with pat := { p.pat with fatalRecoveries := satAdd p.pat.fatalRecoveries 1 } }
  if s.err.lastCause = 0x42 ∨ s.err.lastCause = 0x46 then
    let v := b.verifyJournal
    State.recoveryReset { v with pat := { v.pat.resume with resumed := true, lastRead := b.pat.lastRead } } dimms
  else b.recoveryReset dimms

theorem recover_held {s : State} (h : s.err.held = true ∨ s.pins.thermTrip = true) (dimms : List Nat) : s.recover dimms = s.journalWaiting false := by
  refine if_pos ?_
  rw [journalWaiting_pat, Bool.or_eq_true]
  exact h

theorem recover_go {s : State} (hheld : s.err.held = false) (htrip : s.pins.thermTrip = false) (dimms : List Nat) :
    s.recover dimms = recoverySteps s dimms := by
  have hkeep : (s.journalWaiting false).err = s.err ∧ (s.journalWaiting false).pins = s.pins := by
    rw [journalWaiting_pat]
    exact ⟨rfl, rfl⟩
  obtain ⟨herr, hpins⟩ := hkeep
  have hgo : ¬ ((s.journalWaiting false).err.held || (s.journalWaiting false).pins.thermTrip) = true := by
    rw [herr, hpins, hheld, htrip]
    exact Bool.false_ne_true
  refine (if_neg hgo).trans ?_
  unfold recoverySteps
  dsimp only
  simp only [Bool.or_eq_true, beq_iff_eq, herr]
  split <;> rfl

/-! ## The trip -/

/-- Every region in OFF. -/
def allOff (s : State) : State :=
  (List.range 64).foldl (fun s i =>
    let r : RegionNum := BitVec.ofNat 6 i
    s.setClock r (setFld (s.region r).clock 0 3 3)) s

theorem allOff_state (s : State) (q : RegionNum) : ((allOff s).region q).state = 3 := by
  refine foldl_state_all (h := fun _ => 3) (fun _ => rfl) (fun t i q => ?_) s q
  rw [setClock_state, fld_setFld_state _ _ (by decide)]

theorem allOff_only (s : State) : ClockOnly s (allOff s) := ClockOnly.foldl (fun _ _ => setClock_only _ _ _) _ s

/-- The error of a trip, at a free location. -/
def tripError (s : State) : ErrInfo := { cause := 0x45, loc := allLocs.getD (Config.freeNat s.fresh % 37) 0 }

theorem thermalTrip_eq (s : State) : s.thermalTrip =
    let u := allOff ((({ s with fresh := s.fresh + 1 } : State).fatal (tripError s)).journalWaiting false)
    { u with pins := { u.pins with thermTrip := true } } := by
  unfold State.thermalTrip allOff tripError
  rfl

theorem thermalTrip_facts (s : State) : s.thermalTrip.pins.thermTrip = true ∧ s.thermalTrip.disc.mode = 3 ∧
    s.thermalTrip.err.recovering = true ∧ s.thermalTrip.err.lastCause = 0x45 ∧ ∀ r, (s.thermalTrip.region r).state = 3 := by
  have hend := fatal_eq { s with fresh := s.fresh + 1 } (tripError s)
  have hjournal := journalWaiting_pat (({ s with fresh := s.fresh + 1 } : State).fatal (tripError s)) false
  have hoff := allOff_only ((({ s with fresh := s.fresh + 1 } : State).fatal (tripError s)).journalWaiting false)
  have herr := hoff.err.trans (congrArg State.err hjournal)
  have hdisc := hoff.disc.trans (congrArg State.disc hjournal)
  rw [hend] at herr hdisc
  rw [thermalTrip_eq, hend]
  exact ⟨rfl, congrArg Disc.mode hdisc, congrArg Errors.recovering herr, congrArg Errors.lastCause herr, allOff_state _⟩

/-! ## The obligation -/

/-- What a device-fatal error with no owner leaves. -/
theorem fatal_facts {e : ErrInfo} (hcore : e.core = none) (s : State) :
    (∀ r, (s.region r).state ≠ 3 → ((s.fatal e).region r).state = 2) ∧ (∀ r, (s.region r).state = 3 → ((s.fatal e).region r).state = 3) ∧
    (∀ p ∈ (s.fatal e).tr.ports, p.2.state = 0) ∧ (s.fatal e).disc.mode = 3 ∧ (s.fatal e).disc.fwReady = false ∧
    (s.fatal e).err.recovering = true ∧ (s.fatal e).err.lastCause = BitVec.ofNat 8 e.cause ∧
    (s.fatal e).err.fatalCount = satAdd s.err.fatalCount 1 ∧ (s.fatal e).err.held =
      (s.err.held || decide (2 ≤ (s.err.fatals.filter (fun x => decide (s.pat.powerOnS.toNat < x + 3600))).length)) := by
  obtain ⟨hcount, hheld, hfatals, hpower⟩ := fatalRecorded_err hcore s
  refine ⟨fun r h => ?_, fun r h => ?_, fatal_ports hcore s, ?_⟩
  · rw [fatal_state hcore, haltState, if_neg h]
  · rw [fatal_state hcore, haltState, if_pos h]
  · rw [fatal_eq, fatalEnd_held, hheld, hfatals, hpower, ← hcount]
    exact ⟨rfl, rfl, rfl, rfl, rfl, rfl⟩

/-- A cause that begins the sequence, in a device in which none has begun. -/
theorem execDeviceFatalRecovery_begins {s : State} {cause : Byte} (hfw : s.fwRuns = true) (hrec : s.err.recovering = false)
    (hlo : 0x40 ≤ cause.toNat) (hhi : cause.toNat ≤ 0x46) (htrip : cause ≠ 0x45) (dimms : List Nat) :
    execDeviceFatalRecovery cause dimms s = .next ((s.fatal { cause := cause.toNat }).recover dimms) := by
  have hruns : ¬ (!s.fwRuns) = true := by
    rw [hfw]
    exact Bool.false_ne_true
  exact congrArg Host.Outcome.next ((if_neg hruns).trans ((if_neg (Bool.not_eq_true _ ▸ hrec)).trans
    ((if_neg htrip).trans (if_pos ⟨hlo, hhi⟩))))

/-- Settles O56. -/
theorem errorsAndPower : Obligations.ErrorsAndPower := by
  unfold Obligations.ErrorsAndPower
  intro s
  refine ⟨fun e hcore => fatal_facts hcore s, fun hfw => ?_, fun r => ?_⟩
  · have hruns : ¬ (!s.fwRuns) = true := by
      rw [hfw]
      exact Bool.false_ne_true
    refine ⟨congrArg Host.Outcome.next (if_pos hfw), fun r => congrArg Host.Outcome.next (if_pos hfw), fun cause dimms => ?_,
      fun link again => ?_, congrArg Host.Outcome.next (if_pos hfw), thermalTrip_facts s, fun r temp => ?_, fun watts => ?_⟩
    · refine ⟨fun hrec => ?_, fun hrec hlo hhi htrip => ?_, fun hrec htrip => ?_⟩
      · have hgo : execDeviceFatalRecovery cause dimms s = .next (s.recover dimms) :=
          congrArg Host.Outcome.next ((if_neg hruns).trans (if_pos hrec))
        exact ⟨fun h => hgo.trans (congrArg Host.Outcome.next (recover_held h dimms)),
          fun hheld hpin => hgo.trans (congrArg Host.Outcome.next (recover_go hheld hpin dimms))⟩
      · have hgo := execDeviceFatalRecovery_begins hfw hrec hlo hhi htrip dimms
        exact ⟨fun h => hgo.trans (congrArg Host.Outcome.next (recover_held h dimms)),
          fun hheld hpin => hgo.trans (congrArg Host.Outcome.next (recover_go hheld hpin dimms))⟩
      · exact congrArg Host.Outcome.next ((if_neg hruns).trans ((if_neg (Bool.not_eq_true _ ▸ hrec)).trans (if_pos htrip)))
    · intro n t
      exact ⟨fun hlt => congrArg Host.Outcome.next ((if_neg hruns).trans (if_neg (Nat.not_le.mpr hlt))),
        fun hle => congrArg Host.Outcome.next ((if_neg hruns).trans (if_pos hle))⟩
    · intro x y
      exact congrArg Host.Outcome.next (if_neg hruns)
    · intro b
      refine ⟨fun hover => congrArg Host.Outcome.next ((if_neg hruns).trans (if_pos hover)), fun hunder hten => ?_, fun hunder hfew => ?_,
        fun hin hnear => congrArg Host.Outcome.next ((if_neg hruns).trans ((if_neg (Nat.not_lt.mpr hin)).trans (if_pos hnear)))⟩
      · have hcap : ¬ s.boot.capWatts < watts := by omega
        exact congrArg Host.Outcome.next ((if_neg hruns).trans ((if_neg hcap).trans ((if_neg (Nat.not_le.mpr hunder)).trans
          (if_neg (Nat.not_lt.mpr hten)))))
      · have hcap : ¬ s.boot.capWatts < watts := by omega
        exact congrArg Host.Outcome.next ((if_neg hruns).trans ((if_neg hcap).trans ((if_neg (Nat.not_le.mpr hunder)).trans (if_pos hfew))))
  · intro x k
    exact ⟨fun hst => if_pos hst, fun hst => if_neg (Nat.not_le.mpr hst)⟩

end Sys2Proof.Proofs
end

section
/-! SUPPORT. Patina (19_patina.md, R488 to R507): seconds, margin probes, records, readout. -/

namespace Sys2Proof.Proofs

open Sys2Proof Sys2Proof.Machine

/-! ## PATINA_SECOND -/

/-- Writes to regions leave Patina's state. -/
theorem foldl_updRegion_pat {α : Type} (r : α → RegionNum) (f : α → Region → Region) (l : List α) (s : State) :
    (l.foldl (fun s a => s.updRegion (r a) (f a)) s).pat = s.pat := by
  induction l generalizing s with
  | nil => rfl
  | cons a l ih => exact (ih _).trans (State.updRegion_pat s (r a) (f a))

/-! ## Readout -/

theorem patRead_reg {s : State} {mode : Nat} (hfw : s.fwRuns = true) (hgo : bit s.pat.readCtrl 8 = true)
    (hmode : fld s.pat.readCtrl 6 2 = mode) {r : Option PatRec} {t : State}
    (hsel : s.selectRecord (fld s.pat.readCtrl 0 6) mode s.pat.readSeq.toNat = (r, t)) :
    let bs := (r.map (·.bytes)).getD []
    let ctrl := setFld (setBit (setBit (setBit s.pat.readCtrl 8 false) 9 true) 10 r.isNone) 16 15 bs.length
    s.patRead false mode = { t with pat := { t.pat with readCtrl := ctrl, readBuf := bs } } := by
  intro bs ctrl
  have hopen : ¬ (!bit s.pat.readCtrl 8 || fld s.pat.readCtrl 6 2 != mode) = true := by
    rw [hgo, hmode, bne_self_eq_false]
    decide
  have hruns : ¬ (!s.fwRuns) = true := by
    rw [hfw]
    decide
  rw [State.patRead, if_neg hruns, if_neg Bool.false_ne_true]
  dsimp only
  rw [if_neg hopen, hsel]

theorem patRead_smb {s : State} {mode : Nat} (hfw : s.fwRuns = true) (hgo : s.pat.smbGo = true) (hmode : fld s.pat.smbSel 6 2 = mode)
    {r : Option PatRec} {t : State} (hsel : s.selectRecord (fld s.pat.smbSel 0 6) mode s.pat.smbSeq.toNat = (r, t)) :
    let pat : Patina := { t.pat with smbGo := false, smbDone := true, smbNotFound := r.isNone, smbBuf := (r.map (·.bytes)).getD [] }
    s.patRead true mode = { t with pat := pat, pins := { t.pins with smbAlert := true } } := by
  intro pat
  have hopen : ¬ (!s.pat.smbGo || fld s.pat.smbSel 6 2 != mode) = true := by
    rw [hgo, hmode, bne_self_eq_false]
    decide
  have hruns : ¬ (!s.fwRuns) = true := by
    rw [hfw]
    decide
  rw [State.patRead, if_neg hruns, if_pos rfl, if_neg hopen, hsel]

/-- Each read command reads in its mode. -/
theorem exec_patinaRead {smb : Bool} {mode : Nat} {c : Instr}
    (h : (mode, c) ∈ [(0, Instr.patinaReadLatest smb), (1, .patinaReadBySeq smb), (2, .patinaReadLive smb)]) (s : State) :
    exec c s = .next (s.patRead smb mode) := by
  simp only [List.mem_cons, Prod.mk.injEq, List.not_mem_nil, or_false] at h
  rcases h with ⟨rfl, rfl⟩ | ⟨rfl, rfl⟩ | ⟨rfl, rfl⟩
  · rfl
  · rfl
  · rfl

/-! ## Margin probes -/

/-- Word 1 of a MARGIN entry: the margin, the operating point, the temperature, the flags. -/
def marginWord (d : ProbeRun) (vop mv flag : Nat) : W64 := pack [(0, 16, mv), (16, 16, vop), (32, 8, wrapN 8 d.temp), (40, 3, flag)]

/-- A probe that ends undisturbed: its entry, and an event when the margin is low. -/
def probeEnded (s : State) (r : RegionNum) (d : ProbeRun) (tick : W64) (vop mv flag : Nat) : State :=
  let u := s.endProbe r { time := tick, word1 := marginWord d vop mv flag }
  if mv ≤ fld u.pat.control 9 8 then u.patinaEvent 0x08 (dieLoc r) r.toNat mv 0 else u

section
variable {s : State} {r : RegionNum} {d : ProbeRun} (hfw : s.fwRuns = true)
include hfw

theorem marginProbe_disturbed {tick : W64} {vop : Nat} {gone : Bool} (hp : (s.region r).probe = some (tick, vop, gone)) (h : (gone || d.disturbed) = true) :
    execMarginProbe r d s = .next (s.endProbe r { time := tick, word1 := marginWord d vop 0xFFFF 2 }) := by
  simp only [execMarginProbe, hfw, hp, h]
  rfl

theorem marginProbe_warned {tick : W64} {vop : Nat} {gone : Bool} (hp : (s.region r).probe = some (tick, vop, gone)) (h : (gone || d.disturbed) = false)
    {k : Nat} (hwarn : d.firstWarn = some k) (hlo : 1 ≤ k) (hhi : k ≤ 30) :
    execMarginProbe r d s = .next (probeEnded s r d tick vop (5 * (k - 1)) 0) := by
  have hk : 1 ≤ k ∧ k ≤ 30 := ⟨hlo, hhi⟩
  simp only [execMarginProbe, hfw, hp, h, hwarn, if_pos hk]
  rfl

theorem marginProbe_quiet {tick : W64} {vop : Nat} {gone : Bool} (hp : (s.region r).probe = some (tick, vop, gone)) (h : (gone || d.disturbed) = false)
    (hwarn : d.firstWarn = none) : execMarginProbe r d s = .next (probeEnded s r d tick vop 150 1) := by
  simp only [execMarginProbe, hfw, hp, h, hwarn]
  rfl

variable (hp : (s.region r).probe = none) (hdue : s.probeDue r = true)
include hp hdue

theorem marginProbe_books (hbook : (s.region r).probeBook = none) : execMarginProbe r d s =
    .next (((State.bookProbe { s with fresh := s.fresh + 1 } r (Config.freeNat s.fresh % 961) true).updRegion r
      (fun x => { x with probeBook := some (Config.freeNat s.fresh % 961, frameOf s.tl.now) })).donorClock r true) := by
  simp only [execMarginProbe, hfw, hp, hdue, hbook]
  rfl

/-- The region whose probe has its slot. -/
def inSlot (s : State) (r : RegionNum) : State := s.updRegion r (fun x => { x with probeFrame := some (frameOf s.tl.now) })

variable (hbook : (s.region r).probeBook ≠ none) (hslot : s.probeSlot r = true)
include hbook hslot

theorem marginProbe_slot : execMarginProbe r d s = .next
    (if (s.region r).state == 0 && s.regionIdle r && decide (d.temp < 85) then
      let pat := (d.aging.take 4).zipIdx.foldl (fun (p : Patina) a => p.measure (dieLoc r * 16 + 4 * diePos r + a.2) a.1 s.tl.now) s.pat
      ({ inSlot s r with pat := pat } : State).updRegion r (fun x => { x with probe := some (s.tl.now, d.vop, false), probeSkips := 0 })
    else if (s.region r).probeSkips + 1 < 16 then (inSlot s r).updRegion r (fun x => { x with probeSkips := x.probeSkips + 1 })
    else (inSlot s r).endProbe r { time := s.tl.now, word1 := marginWord d d.vop 0xFFFF 4 }) := by
  have hsome : (s.region r).probeBook.isNone = false := by
    rw [Option.isNone_eq_false_iff, Option.isSome_iff_ne_none]
    exact hbook
  simp only [execMarginProbe, hfw, hp, hdue, hsome, hslot]
  rfl

end

/-! ## The obligation -/

theorem smbusUp_of {s : State} (hfw : s.fwRuns = true) (hrec : s.err.recovering = false) : s.smbusUp = true := by
  rw [State.smbusUp, hfw, hrec]
  rfl

/-- Settles O55. -/
theorem patinaRecords : Obligations.PatinaRecords := by
  unfold Obligations.PatinaRecords
  intro s
  refine ⟨fun hfw => ⟨fun d => ?_, fun hopen hset => ?_, fun mode c hc hgo hmode r t hsel => ?_, fun mode c hc hgo hmode r t hsel => ?_,
    fun hrec => ⟨fun d seq hgo hmode => ?_, ?_, fun off => ?_, ?_⟩⟩, fun r d => ?_, fun a => ⟨fun ha => ?_, fun ha hopen => ?_⟩,
    fun status => rfl, fun hfault => ?_, fun stack row => rfl⟩
  · have hruns : ¬ (!s.fwRuns) = true := by
      rw [hfw]
      decide
    exact ⟨_, congrArg Host.Outcome.next (if_neg hruns), foldl_updRegion_pat Prod.fst _ d.volts _⟩
  · refine congrArg Host.Outcome.next (if_pos ?_)
    rw [hfw, hopen, decide_eq_true hset]
    rfl
  · intro bs ctrl
    rw [exec_patinaRead hc]
    rw [← fld_zero] at hsel
    exact congrArg Host.Outcome.next (patRead_reg hfw hgo hmode hsel)
  · intro pat
    rw [exec_patinaRead hc]
    rw [← fld_zero] at hsel
    exact congrArg Host.Outcome.next (patRead_smb hfw hgo hmode hsel)
  · refine congrArg Host.Outcome.next (if_pos ?_)
    rw [smbusUp_of hfw hrec, hgo, Bool.and_eq_true, bne_iff_ne]
    exact ⟨rfl, hmode⟩
  · exact congrArg Host.Outcome.next (if_pos (smbusUp_of hfw hrec))
  · exact congrArg Host.Outcome.next (if_pos (smbusUp_of hfw hrec))
  · exact congrArg Host.Outcome.next (if_pos (smbusUp_of hfw hrec))
  · intro x word hfw
    refine ⟨fun tick vop gone hp => ⟨fun h => marginProbe_disturbed hfw hp h, fun h k hwarn hlo hhi => marginProbe_warned hfw hp h hwarn hlo hhi,
      fun h hwarn => marginProbe_quiet hfw hp h hwarn⟩, fun hp hdue => ⟨fun hbook => marginProbe_books hfw hp hdue hbook, fun hbook hslot => ?_⟩⟩
    intro u
    have hslotted := marginProbe_slot (d := d) hfw hp hdue hbook hslot
    refine ⟨fun hno => ?_, fun hst hidle htemp => ?_⟩
    · have hskip : ¬ ((s.region r).state == 0 && s.regionIdle r && decide (d.temp < 85)) = true := by
        simp only [Bool.and_eq_true, beq_iff_eq, decide_eq_true_eq, and_assoc]
        exact hno
      exact ⟨fun hfew => hslotted.trans (congrArg Host.Outcome.next ((if_neg hskip).trans (if_pos hfew))),
        fun hmany => hslotted.trans (congrArg Host.Outcome.next ((if_neg hskip).trans (if_neg (Nat.not_lt.mpr hmany))))⟩
    · refine hslotted.trans (congrArg Host.Outcome.next (if_pos ?_))
      simp only [Bool.and_eq_true, beq_iff_eq, decide_eq_true_eq]
      exact ⟨⟨hst, hidle⟩, htemp⟩
  · exact congrArg Host.Outcome.next (if_neg (Bool.not_eq_true _ ▸ ha))
  · exact congrArg Host.Outcome.next ((if_pos ha).trans (if_neg (Bool.not_eq_true _ ▸ hopen)))
  · refine congrArg Host.Outcome.next (if_neg ?_)
    rw [hfault]
    decide

end Sys2Proof.Proofs
end

section
/-! SUPPORT. Power-on, power-up and the mailbox (21_boot_security.md, R529 to R546). -/

namespace Sys2Proof.Proofs

open Sys2Proof Sys2Proof.Machine

/-! ## Rails -/

section
variable {s : State} {rail : BitVec 4} {nom ppt top : Nat} (hrail : railOf rail.toNat = some (nom, ppt, top)) (mv ns : Nat)
include hrail

theorem supplyFault_eq : execSupplyFault rail mv ns s =
    if top < mv then .fault (.beyondAbsoluteMaximum rail)
    else if 1000 < ns ∧ (1000 * mv < nom * (1000 - ppt) ∨ nom * (1000 + ppt) < 1000 * mv) then .next s.powerOff
    else .next s := by
  simp only [execSupplyFault, hrail]

end

/-! ## The mailbox -/

/-- The request word of the mailbox, and the payload that it gives the length of. -/
def mailWord (s : State) : W64 := s.mem.word 0x8F_C000_0000
def mailArg (s : State) : List Byte := s.mem.bytes 0x8F_C000_0008 (min 4088 (fld (mailWord s) 24 12))

/-- A request answered: STATUS, the answer and its length in the response page, and the message that the request asks for. -/
def mailReply (w : W64) (seq : BitVec 16) (st : Nat) (out : List Byte) (u : State) : State :=
  let o := out.take 4088
  let t : State := { u with
    mem := (u.mem.store 0x8F_C000_1008 o).setWord 0x8F_C000_1000 (pack [(0, 16, seq.toNat), (16, 8, st), (24, 12, o.length)])
    boot := { u.boot with mbxSeq := seq } }
  if bit w 48 then t.trigger (fld w 36 12) else t

section
variable {s : State} (hready : s.disc.fwReady = true) (hseq : BitVec.ofNat 16 (fld (mailWord s) 0 16) = s.boot.mbxSeq + 1)
  {op : Nat} (hop : fld (mailWord s) 16 8 = op)
include hready hseq hop

theorem mailbox_eq (run : List Byte → State → (Nat × List Byte) × State) : s.mailbox op run =
    let x := if op != 1 && !s.boot.mbxVersion then ((3, []), s) else run (mailArg s) s
    mailReply (mailWord s) (BitVec.ofNat 16 (fld (mailWord s) 0 16)) x.1.1 x.1.2 x.2 := by
  have hopen : ¬ (!s.disc.fwReady || BitVec.ofNat 16 (fld (s.mem.word 0x8F_C000_0000) 0 16) != s.boot.mbxSeq + 1 ||
      fld (s.mem.word 0x8F_C000_0000) 16 8 != op) = true := by
    rw [hready, show BitVec.ofNat 16 (fld (s.mem.word 0x8F_C000_0000) 0 16) = _ from hseq, show fld (s.mem.word 0x8F_C000_0000) 16 8 = _ from hop,
      bne_self_eq_false, bne_self_eq_false]
    decide
  exact if_neg hopen

/-- A request that runs: VERSION, or any command once the version is agreed. -/
theorem mailbox_runs {run : List Byte → State → (Nat × List Byte) × State} (hver : op = 1 ∨ s.boot.mbxVersion = true)
    {st : Nat} {out : List Byte} {u : State} (hrun : run (mailArg s) s = ((st, out), u)) :
    s.mailbox op run = mailReply (mailWord s) (BitVec.ofNat 16 (fld (mailWord s) 0 16)) st out u := by
  have hgo : ¬ (op != 1 && !s.boot.mbxVersion) = true := by
    rw [Bool.and_eq_true, bne_iff_ne, Bool.not_eq_true']
    rintro ⟨hne, hno⟩
    rcases hver with h | h
    · exact hne h
    · exact Bool.false_ne_true (hno.symm.trans h)
  rw [mailbox_eq hready hseq hop, if_neg hgo, hrun]

/-- Any other command before the version is agreed. -/
theorem mailbox_refuses {run : List Byte → State → (Nat × List Byte) × State} (hne : op ≠ 1) (hver : s.boot.mbxVersion = false) :
    s.mailbox op run = mailReply (mailWord s) (BitVec.ofNat 16 (fld (mailWord s) 0 16)) 3 [] s := by
  have hno : (op != 1 && !s.boot.mbxVersion) = true := by
    rw [hver, Bool.and_eq_true, bne_iff_ne]
    exact ⟨hne, rfl⟩
  rw [mailbox_eq hready hseq hop, if_pos hno]

end

/-- A reply without a message takes its SEQ. -/
theorem mailReply_seq {w : W64} (hquiet : bit w 48 = false) (seq : BitVec 16) (st : Nat) (out : List Byte) (u : State) :
    (mailReply w seq st out u).boot.mbxSeq = seq := by
  rw [mailReply, hquiet]
  rfl

theorem add_one_ne (x : BitVec 16) : x + 1 ≠ x := by
  bv_omega

/-! ## Power-up -/

/-- The device as PERST_N leaves it, with its SMBus address. -/
def strapped (s : State) (p : PowerUp) : State :=
  let r := s.powerOff
  { r with pins := { r.pins with perst := false, smbAddr := BitVec.ofNat 7 (0x4C + 2 * p.strap1.toNat + p.strap0.toNat) } }

/-- The journal verified and resumed, with the event of an abrupt loss. -/
def resumed (u : State) : State :=
  let j := u.verifyJournal
  let v : State := { j with pat := j.pat.powerOn.1 }
  match j.pat.powerOn.2 with
  | some t => v.patinaEvent 0x09 0 t 0 0
  | none => v

/-- Links, mailbox and bulk tier up, and what the self-test finds recorded. -/
def tested (u : State) (p : PowerUp) : State :=
  p.selfTest.foldl (fun s e => s.selfTestError e) (((resumed u).trainQcl p.hostMin p.hostMax).mailboxReady.trainBulk p.dimms)

theorem execPerstNDeassert_eq {s : State} (hperst : s.pins.perst = true) (p : PowerUp) :
    execPerstNDeassert p s = .next (if (strapped s p).bootRom.2 then
        (if p.tpps then (tested (strapped s p).bootRom.1 p).writeTlControl 3 1 else tested (strapped s p).bootRom.1 p).enterDonor
      else (strapped s p).bootRom.1) := by
  cases hboot : (strapped s p).bootRom with
  | mk u ok =>
    unfold strapped at hboot
    dsimp only at hboot
    cases ok with
    | false =>
      simp only [execPerstNDeassert, hperst, hboot]
      rfl
    | true =>
      simp only [execPerstNDeassert, hperst, hboot]
      rfl

/-! ## The obligation -/

/-- Settles O54. -/
theorem bootAndMailbox : Obligations.BootAndMailbox := by
  unfold Obligations.BootAndMailbox
  intro s
  refine ⟨⟨_, rfl, rfl, rfl, rfl, rfl, rfl, rfl, rfl, rfl⟩, fun rail nom ppt top mv ns hrail => ?_, fun p hperst => execPerstNDeassert_eq hperst p, ?_⟩
  · have hfault := supplyFault_eq (s := s) hrail mv ns
    refine ⟨fun h => hfault.trans (if_pos h), fun hle hns hout => hfault.trans ((if_neg (Nat.not_lt.mpr hle)).trans (if_pos ⟨hns, hout⟩)),
      fun hle hlo hhi => hfault.trans ((if_neg (Nat.not_lt.mpr hle)).trans (if_neg ?_))⟩
    omega
  · intro w seq op arg reply c hready hseq
    have hword : seq = BitVec.ofNat 16 (fld (mailWord s) 0 16) := congrArg (BitVec.ofNat 16) (fld_zero (mailWord s) 16).symm
    have hreply (st : Nat) (out : List Byte) (u : State) : reply st out u = mailReply (mailWord s) seq st out u := rfl
    have harg : arg = mailArg s := rfl
    have hopf : fld (mailWord s) 16 8 = op := rfl
    have hbit : bit w 48 = bit (mailWord s) 48 := rfl
    clear_value reply arg op w seq
    subst hword harg
    have hgo {n : Nat} {run : List Byte → State → (Nat × List Byte) × State} {st : Nat} {out : List Byte} {u : State} (hop : op = n)
        (hver : n = 1 ∨ s.boot.mbxVersion = true) (hrun : run (mailArg s) s = ((st, out), u)) : s.mailbox n run = reply st out u :=
      (mailbox_runs hready hseq (hopf.trans hop) hver hrun).trans (hreply st out u).symm
    have hno {n : Nat} {run : List Byte → State → (Nat × List Byte) × State} (hop : op = n) (hne : n ≠ 1) (hver : s.boot.mbxVersion = false) :
        s.mailbox n run = reply 3 [] s :=
      (mailbox_refuses hready hseq (hopf.trans hop) hne hver).trans (hreply 3 [] s).symm
    refine ⟨fun hop => ⟨fun hin => ?_, fun hout => ?_⟩, fun hver => ⟨fun hop => ?_, fun hop => ?_⟩,
      fun hver => ⟨fun hop hmode => ?_, fun hop hfree hmode => ?_, fun hop hheld => ?_, fun dimms hop hquiet => ?_, fun hop => ?_,
        fun hop => ?_, fun hop => ?_, fun hop => ?_, fun hop => ⟨fun hz => ?_, fun hlo hhi => ?_, fun hbad => ?_⟩, fun hop hloc => ?_⟩⟩
    · exact congrArg Host.Outcome.next (hgo hop (.inl rfl) (if_pos hin))
    · exact congrArg Host.Outcome.next (hgo hop (.inl rfl) (if_neg hout))
    · exact congrArg Host.Outcome.next (hno hop (by decide) hver)
    · exact congrArg Host.Outcome.next (hno hop (by decide) hver)
    · exact congrArg Host.Outcome.next (hgo hop (.inr hver) (if_neg (by rw [beq_iff_eq]; exact hmode)))
    · refine congrArg Host.Outcome.next (hgo hop (.inr hver) ((if_neg (Bool.not_eq_true _ ▸ hfree)).trans ?_))
      rw [if_pos (beq_iff_eq.mpr hmode)]
    · exact congrArg Host.Outcome.next (hgo hop (.inr hver) (if_pos hheld))
    · intro u
      have htaken : s.mailbox 4 (fun _ s => ((0, []), s)) = u := hgo hop (.inr hver) rfl
      have hseq4 : u.boot.mbxSeq = s.boot.mbxSeq + 1 :=
        (congrArg (fun t : State => t.boot.mbxSeq) (hreply 0 [] s)).trans ((mailReply_seq (hbit ▸ hquiet) _ _ _ _).trans hseq)
      rw [exec_reset, execReset, htaken]
      refine congrArg Host.Outcome.next (if_pos ?_)
      rw [hseq4, hver, Bool.and_true, bne_iff_ne]
      exact add_one_ne _
    · intro slot
      refine ⟨fun hrun => congrArg Host.Outcome.next (hgo hop (.inr hver) (if_pos hrun)), fun hrun => ⟨fun hover => ?_, fun hfit => ?_⟩⟩
      · exact congrArg Host.Outcome.next (hgo hop (.inr hver) ((if_neg hrun).trans (if_pos hover)))
      · exact congrArg Host.Outcome.next (hgo hop (.inr hver) ((if_neg hrun).trans (if_neg (Nat.not_lt.mpr hfit))))
    · intro slot trial
      by_cases hvalid : s.boot.imageValid slot = true
      · rw [if_pos hvalid]
        exact congrArg Host.Outcome.next (hgo hop (.inr hver) (if_pos hvalid))
      rw [if_neg hvalid]
      by_cases hauth : (s.boot.authentic slot && decide (s.boot.svn slot < s.boot.minSvn)) = true
      · rw [if_pos hauth]
        exact congrArg Host.Outcome.next (hgo hop (.inr hver) ((if_neg hvalid).trans (if_pos hauth)))
      · rw [if_neg hauth]
        exact congrArg Host.Outcome.next (hgo hop (.inr hver) ((if_neg hvalid).trans (if_neg hauth)))
    · exact congrArg Host.Outcome.next (hgo hop (.inr hver) rfl)
    · intro n
      by_cases htrial : c.trial = true
      · rw [if_pos htrial]
        exact congrArg Host.Outcome.next (hgo hop (.inr hver) (if_pos htrial))
      · rw [if_neg htrial]
        exact congrArg Host.Outcome.next (hgo hop (.inr hver) (if_neg htrial))
    · exact congrArg Host.Outcome.next (hgo hop (.inr hver) (if_pos hz))
    · refine congrArg Host.Outcome.next (hgo hop (.inr hver) ((if_neg ?_).trans (if_neg ?_)))
      · omega
      · omega
    · refine congrArg Host.Outcome.next (hgo hop (.inr hver) ((if_neg ?_).trans (if_pos ?_)))
      · omega
      · omega
    · exact congrArg Host.Outcome.next (hgo hop (.inr hver) (if_neg (Nat.not_le.mpr hloc)))

end Sys2Proof.Proofs
end

section
/-! SUPPORT. Engine entries, kernels, blocks and the barrier watchdog of a core (R67 to R69, R101 to R125, R307, R374). -/

namespace Sys2Proof.Proofs

open Sys2Proof Sys2Proof.Machine

/-! ## ENGINE_ENTRY_FETCH -/

theorem engineEntryFetch_taken {s : State} {c : CoreNum} {e : Eng} {k : Core} (hrun : s.runs c = true)
    (hhold : bit (s.core c).control (engNum e) = false) (hk : (s.core c).fetchEntry s.fresh e = k) (hlen : k.queued e ≠ (s.core c).queued e) :
    execEngineEntryFetch c e s = .next (State.dropProbe { s.setCore c k with fresh := s.fresh + 1 } (regionOf c)) := by
  have hgo : (s.runs c && !bit (s.core c).control (engNum e)) = true := by
    rw [hrun, hhold]
    rfl
  have hset : s.updCore c (fun k => k.fetchEntry s.fresh e) = s.setCore c k := congrArg (s.setCore c) hk
  have hcore : (State.core { s.setCore c k with fresh := s.fresh + 1 } c).queued e ≠ (s.core c).queued e := by
    rw [show State.core { s.setCore c k with fresh := s.fresh + 1 } c = k from State.core_setCore_same s c k]
    exact hlen
  unfold execEngineEntryFetch
  dsimp only
  rw [if_pos hgo, hset, if_neg hcore]

section
variable {k : Core} {x : EngineEntry} {q : List EngineEntry} (gid : Nat)

theorem fetchEntry_se (hq : k.seQ = x :: q) (hidle : k.se.entry = none) : k.fetchEntry gid .se =
    { k with seQ := q
             se := { k.se.cleared with entry := some x, sregs := seStart x, preds := 0, pc := BitVec.ofNat 64 (fld x.word1 0 57), gid := gid } } := by
  simp only [Core.fetchEntry, hq, hidle]

theorem fetchEntry_ve (hq : k.veQ = x :: q) (hidle : k.ve.entry = none) :
    k.fetchEntry gid .ve = { k with veQ := q, ve := { k.ve.cleared with entry := some x, gid := gid } } := by
  simp only [Core.fetchEntry, hq, hidle]

theorem fetchEntry_me (hq : k.meQ = x :: q) (hroom : k.me.fifo.length < 8) :
    k.fetchEntry gid .me = { k with meQ := q, me := { k.me with fifo := k.me.fifo ++ [x.command] } } := by
  simp only [Core.fetchEntry, hq, if_pos hroom]

theorem fetchEntry_de (hq : k.deQ = x :: q) (hroom : k.de.fifo.length < 8) :
    k.fetchEntry gid .de = { k with deQ := q, de := { k.de with fifo := k.de.fifo ++ [x.command] } } := by
  simp only [Core.fetchEntry, hq, if_pos hroom]

end

/-! ## The write-back of a data cache with nothing dirty -/

/-- A data cache with no line to write back, no fill and no write-back under way. -/
structure Calm (s : State) (c : CoreNum) : Prop where
  flush : (s.core c).dc.flush = []
  wb : (s.core c).dc.wb = none
  miss : (s.core c).dc.miss = none
  dirty : (s.core c).dc.dirtyOnes = []
  backs : s.backsOf c .flush = 0

/-- A core whose cache is being written back whole, for one reason. -/
def flushing (k : Core) (why : FlushWhy) : Core := { k with dc := { k.dc with flush := [why] } }

/-- With nothing dirty, what the write-back is for follows at once. -/
theorem startFlush_calm {s : State} {c : CoreNum} (h : Calm s c) (why : FlushWhy) :
    s.startFlush c why = s.updCore c (fun k => k.flushed why) := by
  have hbegin : s.updCore c (fun k => { k with dc := { k.dc with
      flush := if k.dc.flush.contains why then k.dc.flush else k.dc.flush ++ [why] } }) = s.setCore c (flushing (s.core c) why) := by
    rw [State.updCore, h.flush]
    rfl
  have hcore : (s.setCore c (flushing (s.core c) why)).core c = flushing (s.core c) why := State.core_setCore_same s c _
  have hwb : (flushing (s.core c) why).dc.wb = none := h.wb
  have hmiss : (flushing (s.core c) why).dc.miss = none := h.miss
  have hdirty : (flushing (s.core c) why).dc.dirtyOnes = [] := h.dirty
  have hclean : (s.setCore c (flushing (s.core c) why)).cleanLines c .flush (fun _ => true) = s.setCore c (flushing (s.core c) why) := by
    simp only [State.cleanLines, hcore, hwb, hdirty, List.filter_nil, List.foldl_nil]
  have hcleaned : (s.setCore c (flushing (s.core c) why)).cleaned c .flush (fun _ => true) = true := by
    simp only [State.cleaned, hcore, hdirty, hwb, show (s.setCore c (flushing (s.core c) why)).backsOf c .flush = 0 from h.backs]
    rfl
  have hback : ({ s.core c with dc := { (s.core c).dc with flush := [] } } : Core) = s.core c := by
    rw [← h.flush]
  have hopen : ¬ (flushing (s.core c) why).dc.flush.isEmpty = true := Bool.false_ne_true
  rw [State.startFlush, hbegin, State.flushGo]
  dsimp only
  rw [hclean, hcleaned, hcore, hmiss, if_neg hopen, if_neg (by decide), State.updCore, State.setCore_setCore, hcore]
  exact congrArg (fun k : Core => s.setCore c (k.flushed why)) hback

/-! ## KERNEL_END and ENTRY_COMPLETE -/

section
variable {s : State} {c : CoreNum} (hrun : s.runs c = true)

section
variable (hended : (s.core c).se.ended = true) (hdrained : (s.core c).se.drained = false)
  (hstores : s.engineStores c false = false) (hloads : (s.core c).engineLoads false = false)
include hrun hended hdrained hstores hloads

theorem kernelEnd_se_flush (h : (s.core c).lostAtEnd (s.core c).se.lost (launchOf (s.core c).se.entry) = none) :
    execKernelEnd c .se s = .next (s.startFlush c (.ending false)) := by
  simp only [execKernelEnd, hrun, hended, hdrained, hstores, hloads, h]
  rfl

theorem kernelEnd_se_lost {a : W64} (h : (s.core c).lostAtEnd (s.core c).se.lost (launchOf (s.core c).se.entry) = some a) :
    execKernelEnd c .se s = .next (s.raise c (launchOf (s.core c).se.entry)
      { code := 0x08, engine := 0, pc := (s.core c).se.pc.toNat, detail := a }) := by
  simp only [execKernelEnd, hrun, hended, hdrained, hstores, hloads, h]
  rfl

end

include hrun in
theorem kernelEnd_ve_flush (hended : (s.core c).ve.ended = true) (hdrained : (s.core c).ve.drained = false)
    (hstores : s.engineStores c true = false) (hloads : (s.core c).engineLoads true = false) (hxf : (s.core c).ve.xf = [])
    (h : (s.core c).lostAtEnd (s.core c).ve.lost (launchOf (s.core c).ve.entry) = none) :
    execKernelEnd c .ve s = .next (s.startFlush c (.ending true)) := by
  simp only [execKernelEnd, hrun, hended, hdrained, hstores, hloads, hxf, h]
  rfl

variable {x : EngineEntry} (hbacks : s.backsPending c = false)
include hbacks

theorem entryComplete_se (hentry : (s.core c).se.entry = some x) (hdrained : (s.core c).se.drained = true) : execEntryComplete c .se s =
    .next ((s.updCore c (fun k => { k with se := k.se.cleared })).entryDone x.launch x.node x.rank .se) := by
  simp only [execEntryComplete, hentry, hdrained, hbacks]
  rfl

theorem entryComplete_ve (hentry : (s.core c).ve.entry = some x) (hdrained : (s.core c).ve.drained = true) : execEntryComplete c .ve s =
    .next ((s.updCore c (fun k => { k with ve := k.ve.cleared })).entryDone x.launch x.node x.rank .ve) := by
  simp only [execEntryComplete, hentry, hdrained, hbacks]
  rfl

end

/-! ## Blocks -/

theorem blockAdmit_eq {s : State} {c : CoreNum} {x : EngineEntry} {bs i : Nat} {rest : List Nat} (hrun : s.runs c = true)
    (hentry : (s.core c).ve.entry = some x) (hstarted : (s.core c).ve.started = true) (hmore : (s.core c).ve.nextBlock ≠ (s.core c).ve.endBlock)
    (hlimit : (s.core c).headLimit = 0) (hslots : freeSlots (s.core c).ve.blocks 16 = bs :: rest)
    (hplace : (s.core c).drawerRun x.kib (128 - x.reserve) = some i) (hkib : x.kib ≠ 0) :
    let gs := ((freeSlots (s.core c).ve.groups 32).take x.groups).mapIdx (fun j slot => (slot, admitGroup x j bs (s.fresh + j)))
    let t : State := s.updCore c (fun k => { k with ve := { k.ve with
      groups := gs.foldl (fun m p => Sparse.put m p.1 p.2) k.ve.groups, nextBlock := k.ve.nextBlock + 1
      blocks := Sparse.put k.ve.blocks bs { block := k.ve.nextBlock, base := i * 1024, kib := x.kib } } })
    execBlockAdmit c s = .next (({ t with fresh := s.fresh + x.groups } : State).scramble (drawerBase c + i * 1024) (x.kib * 1024)) := by
  intro gs t
  have hgo : ¬ (!s.runs c || !(s.core c).ve.started || (s.core c).ve.nextBlock == (s.core c).ve.endBlock || (s.core c).headLimit != 0) = true := by
    rw [hrun, hstarted, hlimit, beq_false_of_ne hmore]
    decide
  have hhead : (freeSlots (s.core c).ve.blocks 16).head? = some bs := by
    rw [hslots]
    rfl
  simp only [execBlockAdmit, hentry, hhead, if_neg hgo, hplace, if_neg hkib]
  rfl

/-! ## The barrier watchdog -/

theorem barrierWatchdog_raises {s : State} {c : CoreNum} {slot : BitVec 5} {g : Group} {l : Nat} {ls : List Nat} {since : W64} (hrun : s.runs c = true)
    (hgroup : Sparse.find (s.core c).ve.groups slot.toNat = some g) (hat : g.at_ .group = l :: ls) (hsince : g.barStart = some since)
    (hus : fld (s.niche (s.ownerNiche c)).control 32 16 ≠ 0)
    (hlate : fld (s.niche (s.ownerNiche c)).control 32 16 * 1000 ≤ s.waited c since) (hstores : s.storesPending c (some slot) = false) :
    execBarrierWatchdogExpiry c false slot s = .next (s.raise c (launchOf (s.core c).ve.entry)
      { code := 0x07, engine := 1, group := g.index, block := (Sparse.getD (s.core c).ve.blocks g.blockSlot {}).block, lane := l
        pc := (g.thread l).pc.toNat, detail := BitVec.ofNat 64 (maskOf (g.missing .group)) }) := by
  have hset : (s.watchdog (s.ownerNiche c) != 0) = true := by
    rw [State.watchdog, bne_iff_ne]
    omega
  have hdue : (s.runs c && s.watchdog (s.ownerNiche c) != 0 && decide (s.watchdog (s.ownerNiche c) ≤ s.waited c since) &&
      !s.storesPending c (some slot)) = true := by
    rw [hrun, hset, show s.watchdog (s.ownerNiche c) = fld (s.niche (s.ownerNiche c)).control 32 16 * 1000 from rfl, decide_eq_true hlate, hstores]
    rfl
  have hhead : (g.at_ .group).head? = some l := by
    rw [hat]
    rfl
  simp only [execBarrierWatchdogExpiry, Bool.false_eq_true, if_false, hgroup, hhead, hsince, hdue, if_true]

/-! ## The obligation -/

/-- Settles O37. -/
theorem engineEntries : Obligations.EngineEntries := by
  unfold Obligations.EngineEntries
  intro s c x q k at_ sregs cmd fetched calm hrun
  have hcalm (h : calm) : Calm s c := by
    obtain ⟨hflush, hwb, hmiss, hdirty, hbacks⟩ := h
    exact ⟨hflush, hwb, hmiss, hdirty, hbacks⟩
  have hat : at_ = BitVec.ofNat 64 (fld x.word1 0 57) := congrArg (BitVec.ofNat 64) (fld_zero x.word1 57).symm
  have hsregs : sregs = seStart x := by
    rw [seStart, fld_zero]
    rfl
  refine ⟨fun hhold hq hidle => ?_, fun hhold hq hidle => ?_, fun hhold hq hroom => ?_, fun hhold hq hroom => ?_, fun hentry hnew => ⟨fun hok => ?_, fun hbad => ?_⟩,
    fun hready => ⟨fun hentry hstop hnew hstores => ⟨?_, fun h => ?_⟩, fun hstarted hstop hnew hstores => ⟨?_, fun hentry h => ?_⟩⟩,
    fun bs rest i hentry hstarted hmore hlimit hslots hplace hkib => ?_, fun hended hdrained hstores hloads => ⟨fun hnone => ⟨?_, fun h => ?_⟩, fun a hlost => ?_⟩,
    fun hended hdrained hstores hloads hxf hnone => ⟨?_, fun h => ?_⟩, fun hbacks => ⟨fun hentry hdrained => ?_, fun hentry hdrained => ?_⟩,
    fun slot g l ls since => ?_⟩
  · rw [hsregs, hat]
    refine engineEntryFetch_taken hrun hhold (fetchEntry_se s.fresh hq hidle) ?_
    simp only [Core.queued, show (s.core c).seQ = x :: q from hq, List.length_cons]
    omega
  · refine engineEntryFetch_taken hrun hhold (fetchEntry_ve s.fresh hq hidle) ?_
    simp only [Core.queued, show (s.core c).veQ = x :: q from hq, List.length_cons]
    omega
  · refine engineEntryFetch_taken hrun hhold (fetchEntry_me s.fresh hq hroom) ?_
    simp only [Core.queued, show (s.core c).meQ = x :: q from hq, List.length_cons]
    omega
  · refine engineEntryFetch_taken hrun hhold (fetchEntry_de s.fresh hq hroom) ?_
    simp only [Core.queued, show (s.core c).deQ = x :: q from hq, List.length_cons]
    omega
  · rw [exec_launchEntryStart]
    simp only [execLaunchEntryStart, show (s.core c).ve.entry = some x from hentry, hrun, show (s.core c).ve.started = false from hnew, hok, fld_zero]
    rfl
  · rw [exec_launchEntryStart]
    simp only [execLaunchEntryStart, show (s.core c).ve.entry = some x from hentry, hrun, show (s.core c).ve.started = false from hnew, hbad]
    rfl
  · refine congrArg Host.Outcome.next (if_pos ?_)
    rw [hrun, hentry, hstop, hnew, hready, hstores]
    rfl
  · rw [startFlush_calm (hcalm h)]
    refine updCore_congr ?_
    rw [Core.flushed, if_pos (by rw [show (s.core c).se.entry.isSome = true from hentry, show (s.core c).se.ended = false from hnew]; rfl)]
    rfl
  · refine congrArg Host.Outcome.next (if_pos ?_)
    rw [hrun, hstarted, hstop, hnew, hready, hstores]
    rfl
  · rw [startFlush_calm (hcalm h)]
    refine updCore_congr ?_
    rw [Core.flushed, if_pos (by rw [show (s.core c).ve.entry.isSome = true from hentry, show (s.core c).ve.started = true from hstarted,
      show (s.core c).ve.ended = false from hnew]; rfl)]
    rfl
  · exact blockAdmit_eq hrun hentry hstarted hmore hlimit hslots hplace hkib
  · exact kernelEnd_se_flush hrun hended hdrained hstores hloads hnone
  · rw [startFlush_calm (hcalm h)]
    refine updCore_congr ?_
    rw [Core.flushed, if_pos hended]
  · exact kernelEnd_se_lost hrun hended hdrained hstores hloads hlost
  · exact kernelEnd_ve_flush hrun hended hdrained hstores hloads hxf hnone
  · rw [startFlush_calm (hcalm h)]
    refine updCore_congr ?_
    rw [Core.flushed, if_pos hended]
  · exact entryComplete_se hbacks hentry hdrained
  · exact entryComplete_ve hbacks hentry hdrained
  · intro us hgroup hbar hsince hus hlate hstores
    exact ⟨_, barrierWatchdog_raises hrun hgroup hbar hsince hus hlate hstores, rfl, rfl, rfl, rfl⟩

end Sys2Proof.Proofs
end

section
/-! SUPPORT. The caches of a core (03_core.md, R77 to R92, R563): a line filled, a line that leaves, a line of instructions. -/

namespace Sys2Proof.Proofs

open Sys2Proof Sys2Proof.Machine

/-! ## Reads of memory at home -/

section
variable {s : State} {a : Nat} (hm : (s.classOf a).isMemory = true) (hi : bit s.err.inject 0 = false) (n : Nat)
include hm hi

theorem homeRead_eq_memRead : s.homeRead a n =
    ((((s.traffic a n false).memRead a n).1, s.mem.firstPoison a n), ((s.traffic a n false).memRead a n).2) := by
  simp only [State.homeRead, inject_unarmed hi, State.devRead, hm, if_true]

end

/-- A read leaves everything but counters and the stream of free choices. -/
theorem trafficRead_frame (s : State) (a n : Nat) : ((s.traffic a n false).memRead a n).2 =
    { s with counters := (s.traffic a n false).counters, fresh := ((s.traffic a n false).memRead a n).2.fresh } := by
  rw [memRead_frame, traffic_counters]

theorem trafficRead_mem (s : State) (a n : Nat) : ((s.traffic a n false).memRead a n).2.mem = s.mem := by
  rw [trafficRead_frame]

theorem trafficRead_classOf (s : State) (a n b : Nat) : ((s.traffic a n false).memRead a n).2.classOf b = s.classOf b :=
  classOf_congr (by rw [trafficRead_frame]) b

/-! ## A line placed -/

theorem chooseWay_lt (d : DCache) (set : Nat) : (d.chooseWay set).1 < 4 := by
  unfold DCache.chooseWay
  split
  next w hw => exact List.mem_range.mp (List.mem_of_find?_eq_some hw)
  next => exact Nat.mod_lt _ (by decide)

theorem fill_lines (d : DCache) (line : Nat) (data : List Byte) (poison : List Nat) : (d.fill line data poison).lines =
    Sparse.put d.lines (lineSet line * 4 + (d.chooseWay (lineSet line)).1) { addr := line, data := data, poison := poison } := by
  unfold DCache.fill
  dsimp only
  split
  · split <;> rfl
  · rfl

/-- A victim that is dirty moves to the write-back buffer. -/
theorem fill_wb_of_dirty {d : DCache} {line : Nat} {v : CacheLine}
    (hv : d.line? (lineSet line * 4 + (d.chooseWay (lineSet line)).1) = some v) (hdirty : v.dirty = true) (data : List Byte) (poison : List Nat) :
    (d.fill line data poison).wb = some v := by
  simp only [DCache.fill, hv, hdirty, if_true]

theorem line?_fill_same (d : DCache) (line : Nat) (data : List Byte) (poison : List Nat) :
    (d.fill line data poison).line? (lineSet line * 4 + (d.chooseWay (lineSet line)).1) = some { addr := line, data := data, poison := poison } := by
  have hvalid : ({ addr := line, data := data, poison := poison } : CacheLine).valid = true := by
    have h7 : majority 7 = true := by decide
    exact h7
  rw [DCache.line?, fill_lines, Sparse.find_put_same]
  exact if_pos hvalid

theorem line?_fill_other (d : DCache) (line : Nat) (data : List Byte) (poison : List Nat) {k : Nat}
    (h : k ≠ lineSet line * 4 + (d.chooseWay (lineSet line)).1) : (d.fill line data poison).line? k = d.line? k := by
  rw [DCache.line?, DCache.line?, fill_lines, Sparse.find_put_other _ _ _ _ h]

/-- A line found nowhere before is found in the way that it was put into. -/
theorem way_fill {d : DCache} {line : Nat} (hmiss : d.way line = none) (data : List Byte) (poison : List Nat) :
    (d.fill line data poison).way line = some (d.chooseWay (lineSet line)).1 := by
  rw [DCache.way, List.find?_eq_none] at hmiss
  rw [DCache.way, List.find?_range_eq_some]
  refine ⟨?_, List.mem_range.mpr (chooseWay_lt d _), fun w hw => ?_⟩
  · rw [line?_fill_same]
    exact beq_self_eq_true line
  · rw [line?_fill_other _ _ _ _ (by omega), Bool.not_eq_true', ← Bool.not_eq_true]
    exact hmiss w (List.mem_range.mpr (hw.trans (chooseWay_lt d _)))

theorem hit_fill {d : DCache} {line : Nat} (hmiss : d.way line = none) (data : List Byte) (poison : List Nat) :
    (d.fill line data poison).hit line = some { addr := line, data := data, poison := poison } := by
  simp only [DCache.hit, way_fill hmiss, line?_fill_same]

/-! ## DCACHE_FILL -/

section
variable {s : State} {c : CoreNum} {line : Nat} {ve : Bool} (hmiss : (s.core c).dc.miss = some (line, ve)) (hdrains : s.drains c = true)
  (hroom : (s.core c).dc.fillWaits line = false)
include hmiss hdrains hroom

theorem dcacheFill_arrived {bs : List Byte} {poison : List Nat} (h : (s.core c).dc.arrived = some (bs, poison)) :
    execDcacheFill c s = .next (s.fillLine c line bs poison) := by
  simp only [execDcacheFill, hmiss, hdrains, hroom, h]
  rfl

theorem dcacheFill_home (harr : (s.core c).dc.arrived = none) (hlocal : s.isLocal line = true) (hawake : s.awake (some (regionOf c)) (line % 2 ^ 48) = true)
    (hturn : s.inTurn c { lane := 0, va := 0, tgt := .dev (line % 2 ^ 48), cache := true, bytes := [], port := (s.core c).dc.missPort, node := (s.core c).dc.missNode } = true)
    (hi : bit s.err.inject 0 = false) (hm : (s.classOf (line % 2 ^ 48)).isMemory = true) :
    let r := (s.traffic (line % 2 ^ 48) 64 false).memRead (line % 2 ^ 48) 64
    execDcacheFill c s = .next (r.2.fillLine c line r.1 (linePoison s.mem (line % 2 ^ 48))) := by
  intro r
  simp only [execDcacheFill, hmiss, hdrains, hroom, harr, hlocal, hturn, hawake, homeRead_eq_memRead hm hi, trafficRead_classOf, hm, trafficRead_mem,
    Bool.not_true, Bool.or_self, Bool.false_eq_true, if_false, if_true, r]

end

/-! ## DCACHE_WRITEBACK -/

/-- The state behind a line of the write-back buffer that has left for its home on this device. -/
def lineSentHome (s : State) (c : CoreNum) (l : CacheLine) : State :=
  let u := s.homeWrite (l.addr % 2 ^ 48) l.data
  ({ u with mem := u.mem.addPoison (l.poison.map (fun w => l.addr % 2 ^ 48 + 8 * w)) } : State).updCore c
    (fun k => { k with dc := { k.dc with wb := none, wbSent := false } })

section
variable {s : State} {c : CoreNum} {l : CacheLine} (hwb : (s.core c).dc.wb = some l) (hsent : (s.core c).dc.wbSent = false)
  (hready : s.backReady c l = true) (hgood : s.lineBad c l 0 64 = false) (hlocal : s.isLocal l.addr = true)
  (hm : (s.classOf (l.addr % 2 ^ 48)).isMemory = true) (hbacks : s.backsOf c .buffer = 0) (hi : bit s.err.inject 0 = false)

include hgood hlocal hm hi in
theorem writeBack_home (why : BackWhy) : s.writeBack c why l =
    (let u := s.homeWrite (l.addr % 2 ^ 48) l.data
     { u with mem := u.mem.addPoison (l.poison.map (fun w => l.addr % 2 ^ 48 + 8 * w)) } : State) := by
  have hclass : (s.homeWrite (l.addr % 2 ^ 48) l.data).classOf (l.addr % 2 ^ 48) = s.classOf (l.addr % 2 ^ 48) :=
    classOf_congr (by rw [homeWrite_frame hm hi]) _
  simp only [State.writeBack, hgood, hlocal, hclass, hm, if_true, Bool.false_eq_true, if_false]

include hwb hsent hready hgood hlocal hm hbacks hi in
theorem drainBuffer_home : s.drainBuffer c = lineSentHome s c l := by
  have hkeep : (s.writeBack c .buffer l).backsOf c .buffer = 0 := by
    rw [writeBack_home hgood hlocal hm hi, homeWrite_frame hm hi]
    exact hbacks
  simp only [State.drainBuffer, hwb, hsent, hready, hkeep]
  rw [writeBack_home hgood hlocal hm hi]
  rfl

end

/-- What the line leaves at its home and in the cache. -/
theorem lineSentHome_facts {s : State} {l : CacheLine} (c : CoreNum) (hm : (s.classOf (l.addr % 2 ^ 48)).isMemory = true)
    (hi : bit s.err.inject 0 = false) (hsent : (s.core c).dc.wbSent = false) :
    (lineSentHome s c l).mem = (s.mem.store (l.addr % 2 ^ 48) l.data).addPoison (l.poison.map (fun w => l.addr % 2 ^ 48 + 8 * w)) ∧
      ((lineSentHome s c l).core c).dc = { (s.core c).dc with wb := none } := by
  have hmem := homeWrite_mem hm hi l.data
  have hcore : ((s.homeWrite (l.addr % 2 ^ 48) l.data).core c).dc = (s.core c).dc := by
    rw [homeWrite_core hm hi]
  refine ⟨congrArg (Memory.addPoison · _) hmem, ?_⟩
  rw [lineSentHome, State.core_updCore_same]
  refine Eq.trans (congrArg (fun d : DCache => ({ d with wb := none, wbSent := false } : DCache)) hcore) ?_
  rw [← hsent]

/-! ## ICACHE_FILL -/

theorem icacheFill_home {s s1 : State} {t : Strm} {pc lane pa : Nat} {cb : Bool} (hfetch : s.fetchAt t = some (pc, lane))
    (hready : (s.core (strmCore t)).ic.ready = true) (hwin : windowOff (s.entryOn t) pc = none)
    (htr : s.translate (some (strmCore t)) (s.ownerNiche (strmCore t)) pc .fetch = (.ok (.dev pa) cb, s1))
    (hhas : (s1.core (strmCore t)).ic.has (s1.lineOf (.dev pa)) = false) (hbad : (s1.core (strmCore t)).ic.bad (s1.lineOf (.dev pa)) (pc % 64) = false)
    (hreach : s1.reaches (strmCore t) (.dev pa) = true) (hlines : s1.linesHeld (pa / 64 * 64) 64 false = [])
    (hi : bit s1.err.inject 0 = false) (hm : (s1.classOf (pa / 64 * 64)).isMemory = true) (hclean : s1.mem.firstPoison (pa / 64 * 64) 64 = none)
    (hword : s1.mem.poisoned (pa / 8 * 8) 8 = false) :
    let r := (s1.traffic (pa / 64 * 64) 64 false).memRead (pa / 64 * 64) 64
    execIcacheFill t s = .next (r.2.updCore (strmCore t) (fun k => { k with ic := k.ic.fill (s1.lineOf (.dev pa)) r.1 })) := by
  intro r
  simp only [execIcacheFill, hfetch, hready, hwin, htr, hbad, hhas, hlines, hreach, homeRead_eq_memRead hm hi, trafficRead_mem, hword, hclean,
    Bool.not_true, Bool.false_eq_true, if_false, Option.isSome_none, List.isEmpty_nil, Bool.false_and, r]

/-! ## The obligation -/

/-- With no error armed, none is injected into a scrubbed word. -/
theorem armed_unarmed {s : State} (hi : bit s.err.inject 0 = false) (n : Nat) : s.armed n = false := by
  rw [State.armed, hi, Bool.false_and]

theorem scrubRead_eq {s : State} {c : CoreNum} (hrun : (s.region (regionOf c)).running = true) (hen : bit (s.core c).control 6 = true)
    (hi : bit s.err.inject 0 = false) (word : BitVec 14) (f : EccFind) : execScrubRead c word f s =
      .next (f.rec s (s.correctWord (drawerBase c + 8 * word.toNat) true false) (s.poisonWord (drawerBase c + 8 * word.toNat) true false)) := by
  cases f <;> simp only [execScrubRead, hrun, hen, armed_unarmed hi] <;> rfl

/-- Settles O38. -/
theorem caches : Obligations.Caches := by
  unfold Obligations.Caches
  intro s c k upd
  refine ⟨fun line ve hmiss hdrains hroom => ⟨fun bs poison harr => ?_, fun harr hlocal hawake hturn hi hm => ?_⟩,
    fun d line data poison hmiss => ⟨hit_fill hmiss data poison, fun v hv hdirty => fill_wb_of_dirty hv hdirty data poison⟩, fun l => ?_,
    fun t pc lane pa cb s1 hcore => ?_, fun hrun => ⟨congrArg Host.Outcome.next (if_pos hrun), congrArg Host.Outcome.next (if_pos hrun)⟩,
    fun a ha => ⟨congrArg Host.Outcome.next (if_pos ha), congrArg Host.Outcome.next (if_pos ha)⟩, fun e slot va kind tg cb s1 hrun htr => ?_, rfl,
    fun word => ?_⟩
  · exact dcacheFill_arrived hmiss hdrains hroom harr
  · exact dcacheFill_home hmiss hdrains hroom harr hlocal hawake hturn hi hm
  · intro a hwb hsent hready hgood hlocal hm hbacks hi
    obtain ⟨hmem, hdc⟩ := lineSentHome_facts c hm hi hsent
    refine ⟨_, ?_, hmem, hdc⟩
    rw [exec_dcacheWriteback, execDcacheWriteback, drainBuffer_home hwb hsent hready hgood hlocal hm hbacks hi]
  · subst hcore
    intro hfetch hready hwin htr hhas hbad hreach hlines hi hm hclean hword
    exact icacheFill_home hfetch hready hwin htr hhas hbad hreach hlines hi hm hclean hword
  · rw [exec_translationWalk]
    simp only [execTranslationWalk, hrun, htr]
    rfl
  · intro a hrun hen hi
    exact ⟨scrubRead_eq hrun hen hi word .clean, scrubRead_eq hrun hen hi word .single, scrubRead_eq hrun hen hi word .double⟩

end Sys2Proof.Proofs
end

section
/-! SUPPORT. The matrix engine (08_matrix_array.md, 09_accumulation.md): how a command starts, a chunk, a drain's write, an end. -/

namespace Sys2Proof.Proofs

open Sys2Proof Sys2Proof.Machine

/-! ## The head of the FIFO -/

/-- The state whose FIFO has given its head away. -/
def meTaken (s : State) (c : CoreNum) (rest : List FifoCmd) : State := s.updMe c (fun m => { m with fifo := rest })

/-- The run of a command that starts now, with its drain record. -/
def runOf (s : State) (c : CoreNum) (f : FifoCmd) (rec : List Byte) : MeRun :=
  { cmd := f, chunk := 0, chunks := if f.kind = 0 then f.chunks else 0, rows := f.rowsToRead, record := rec, dest := f.dest rec, since := s.cyclesOf c }

/-- The state in which that run is the last of those started. -/
def startedOn (s u : State) (c : CoreNum) (f : FifoCmd) (rec : List Byte) : State := u.updMe c (fun m => { m with runs := m.runs ++ [runOf s c f rec] })

/-- The drain record of a command at the head is read, where it drains. -/
def RecordRead (s : State) (c : CoreNum) (f : FifoCmd) (rest : List FifoCmd) (rec : List Byte) (u : State) : Prop :=
  (f.doesDrain = false ∧ rec = [] ∧ u = meTaken s c rest) ∨
  (f.doesDrain = true ∧ s.mem.firstPoison (drawerBase c + f.paramOff) 32 = none ∧ f.recordOk rec = true ∧
    rec = (s.mem.blurred s.fresh c (f.dest (s.mem.bytesAt s.fresh (drawerBase c + f.paramOff) 32))).bytesAt s.fresh (drawerBase c + f.paramOff) 32 ∧
    u = { meTaken s c rest with fresh := s.fresh + 1 })

/-- What a command that has its record keeps of the state. -/
structure Opening (s u : State) (c : CoreNum) : Prop where
  err : u.err = s.err
  regions : u.regions = s.regions
  runs : (u.core c).me.runs = (s.core c).me.runs

section
variable {s u : State} {c : CoreNum} {f : FifoCmd} {rest : List FifoCmd} {rec : List Byte}

theorem meTaken_runs (s : State) (c : CoreNum) (rest : List FifoCmd) : ((meTaken s c rest).core c).me.runs = (s.core c).me.runs := by
  rw [meTaken, State.updMe, State.core_updCore_same]

theorem RecordRead.opening (h : RecordRead s c f rest rec u) : Opening s u c := by
  rcases h with ⟨_, _, rfl⟩ | ⟨_, _, _, _, rfl⟩
  · exact ⟨rfl, rfl, meTaken_runs s c rest⟩
  · exact ⟨rfl, rfl, meTaken_runs s c rest⟩

theorem meHead_starts (hfifo : (s.core c).me.fifo = f :: rest) (hrun : s.runs c = true) (hcan : (s.core c).me.canStart f = true)
    (hwait : f.waitEn = false) {p : Nat → Bool} (hp : p f.kind = true) : s.meHead c p = (some f, meTaken s c rest) := by
  simp only [State.meHead, hfifo, hrun, hcan, hwait, hp]
  rfl

theorem readRecord_opened (hi : bit s.err.inject 0 = false) (h : RecordRead s c f rest rec u) :
    (meTaken s c rest).readRecord c f = .ok (rec, u) := by
  have hunarmed : (meTaken s c rest).inject (drawerBase c + f.paramOff) 32 = meTaken s c rest :=
    inject_unarmed (s := meTaken s c rest) hi _ _
  rcases h with ⟨hno, rfl, rfl⟩ | ⟨hdrains, hclean, hok, rfl, rfl⟩
  · simp only [State.readRecord, hno]
    rfl
  · simp only [State.readRecord, hdrains, hunarmed, show (meTaken s c rest).mem = s.mem from rfl,
      show (meTaken s c rest).fresh = s.fresh from rfl, hclean, hok]
    rfl

theorem toRun_eq (h : Opening s u c) : f.toRun rec (u.cyclesOf c) = runOf s c f rec := by
  have hcycles : u.cyclesOf c = s.cyclesOf c := by
    rw [State.cyclesOf, State.cyclesOf, State.region, State.region, h.regions]
  simp only [FifoCmd.toRun, runOf, hcycles, beq_iff_eq]

/-- A command with valid fields and its record read becomes a run, the last of those started. -/
theorem meStart_opened (hi : bit s.err.inject 0 = false) (hok : f.fieldsOk = true) {extra : Bool} (hextra : extra = true)
    (h : RecordRead s c f rest rec u) (go : State → Nat → MeRun → State) :
    (meTaken s c rest).meStart c f extra go = go (startedOn s u c f rec) (s.core c).me.runs.length (runOf s c f rec) := by
  have hgo : ¬ (!(f.fieldsOk && extra)) = true := by
    rw [hok, hextra]
    decide
  rw [State.meStart, if_neg hgo, readRecord_opened hi h, ← h.opening.runs, ← toRun_eq h.opening]
  simp only [startedOn, toRun_eq h.opening]

end

/-! ## MULTIPLY and FLAGS -/

/-- The weights that the loader finds for a chunk. -/
def weightsOf (u : State) (c : CoreNum) (r : MeRun) (p : ChunkAt) : Shadow :=
  { blocks := p.kbs.flatMap (fun kb => (List.range r.cmd.cols).map (fun n =>
      (u.mem.blurred u.fresh c r.dest).rawBlock u.fresh c r.cmd.fmtB p.bOff (kb * 32 + n)))
    bad := u.weightPoison c r.cmd p }

theorem loadWeights_unarmed {u : State} (hi : bit u.err.inject 0 = false) (c : CoreNum) (r : MeRun) (p : ChunkAt) :
    u.loadWeights c r p = (weightsOf u c r p, { u with fresh := u.fresh + 1 }) := by
  simp only [State.loadWeights, inject_unarmed hi]
  rfl

theorem nextWeights_load {u : State} (hi : bit u.err.inject 0 = false) {c : CoreNum} {r : MeRun} (hmore : r.chunk < r.chunks) {p : ChunkAt}
    (hp : r.chunkAt = some p) (i : Nat) : u.nextWeights c i r =
      State.updRun { u with fresh := u.fresh + 1 } c i (fun y => { y with shadow := some (weightsOf u c r p) }) := by
  simp only [State.nextWeights, if_pos hmore, hp, loadWeights_unarmed hi]

/-- A change to the run that was started last. -/
theorem modify_last {α : Type} (l : List α) (x : α) (g : α → α) : (l ++ [x]).modify l.length g = l ++ [g x] := by
  induction l with
  | nil => rfl
  | cons y l ih =>
    rw [List.cons_append, List.length_cons, List.modify_succ_cons, ih]
    rfl

theorem flags_started {s u : State} {c : CoreNum} {f : FifoCmd} {rec : List Byte} (h : Opening s u c) :
    (((startedOn s u c f rec).updRun c (s.core c).me.runs.length (fun _ => { runOf s c f rec with
      writes := [{ col := 0, cols := 32, writes := [(f.outOff, leBytes 8 ((startedOn s u c f rec).core c).me.flags.toNat)] }] })).updMe c
        (fun m => { m with flags := m.flags &&& ~~~BitVec.ofNat 8 (fld f.hi 0 8) })) =
    u.updMe c (fun m => { m with
      runs := m.runs ++ [{ runOf s c f rec with writes := [{ col := 0, cols := 32, writes := [(f.outOff, leBytes 8 m.flags.toNat)] }] }]
      flags := m.flags &&& ~~~BitVec.ofNat 8 (f.hi.toNat % 256) }) := by
  have hflags : ((startedOn s u c f rec).core c).me.flags = (u.core c).me.flags := by
    rw [startedOn, State.updMe, State.core_updCore_same]
  rw [hflags, ← h.runs, fld_zero]
  simp only [startedOn, State.updRun, State.updMe, State.updCore_updCore]
  refine updCore_congr ?_
  rw [modify_last]
  rfl

/-! ## The values of a grant -/

/-- Whether the values of a grant that a command reads are free of poison and of errors. -/
def grantSound (s : State) (c : CoreNum) (f : FifoCmd) : Prop :=
  ∀ p ∈ f.quarterRows, ∀ n < f.cols, spillKey f.grant p.2 n ∉ (s.region (regionOf c)).spillPoison ∧
    spillKey f.grant p.2 n ∉ (s.region (regionOf c)).spillBad

/-- The grant values that a command reads. -/
def grantKeys (f : FifoCmd) : List Nat := f.quarterRows.flatMap (fun p => (List.range f.cols).map (fun n => spillKey f.grant p.2 n))

theorem mem_grantKeys {f : FifoCmd} {k : Nat} (h : k ∈ grantKeys f) : ∃ p ∈ f.quarterRows, ∃ n < f.cols, spillKey f.grant p.2 n = k := by
  simpa only [grantKeys, List.mem_flatMap, List.mem_map, List.mem_range] using h

/-- A fold none of whose steps moves. -/
theorem foldl_stays {α β : Type} {g : α → β → α} {a : α} {l : List β} (h : ∀ x ∈ l, g a x = a) : l.foldl g a = a := by
  induction l with
  | nil => rfl
  | cons x l ih => rw [List.foldl_cons, h x List.mem_cons_self, ih fun y hy => h y (List.mem_cons_of_mem _ hy)]

theorem spillPoisoned_sound {u : State} {c : CoreNum} {f : FifoCmd} (hi : bit u.err.inject 0 = false) (h : grantSound u c f) :
    u.spillPoisoned c f = (false, u) := by
  have hkeys : ∀ k ∈ grantKeys f, k ∉ (u.region (regionOf c)).spillPoison ∧ k ∉ (u.region (regionOf c)).spillBad := by
    intro k hk
    obtain ⟨p, hp, n, hn, rfl⟩ := mem_grantKeys hk
    exact h p hp n hn
  have hpoison : (grantKeys f).any (fun k => (u.region (regionOf c)).spillPoison.contains k) = false :=
    List.any_eq_false.mpr fun k hk hc => (hkeys k hk).1 (List.contains_iff_mem.mp hc)
  have hbad : ∀ k ∈ grantKeys f, (u.region (regionOf c)).spillBad.contains k = false := fun k hk =>
    Bool.eq_false_iff.mpr fun hc => (hkeys k hk).2 (List.contains_iff_mem.mp hc)
  simp only [State.spillPoisoned, ← grantKeys.eq_1]
  rw [foldl_stays (a := u) (l := grantKeys f) fun k hk => if_neg (by rw [hbad k hk]; decide)]
  simp only [armed_unarmed hi, Bool.false_and, Bool.false_eq_true, if_false, hpoison]

/-! ## The commands at the head -/

section
variable {s u : State} {c : CoreNum} {f : FifoCmd} {rest : List FifoCmd} {rec : List Byte}

theorem reserved_invalid (hhead : s.meHead c (fun k => decide (5 ≤ k)) = (some f, meTaken s c rest)) :
    exec (.reservedCommandKind c false) s = .next ((meTaken s c rest).meRaise c 0x0B f 0) := by
  rw [exec_reservedCommandKind, execReservedCommandKind, hhead]
  rfl

variable (hi : bit s.err.inject 0 = false) (hok : f.fieldsOk = true) (h : RecordRead s c f rest rec u)
include hi hok h

theorem multiply_starts (hhead : s.meHead c (fun k => k == 0) = (some f, meTaken s c rest)) (hkind : f.kind = 0) (hchunks : 0 < f.chunks)
    {p : ChunkAt} (hp : (runOf s c f rec).chunkAt = some p) : exec (.multiply c) s =
      .next (State.updRun { startedOn s u c f rec with fresh := u.fresh + 1 } c (s.core c).me.runs.length
        (fun y => { y with shadow := some (weightsOf u c (runOf s c f rec) p) })) := by
  have hmore : (runOf s c f rec).chunk < (runOf s c f rec).chunks := by
    rw [runOf, if_pos hkind]
    exact hchunks
  have harm : bit (startedOn s u c f rec).err.inject 0 = false := by
    rw [show (startedOn s u c f rec).err = u.err from rfl, h.opening.err, hi]
  rw [exec_multiply, execMultiply, hhead]
  exact congrArg Host.Outcome.next ((meStart_opened hi hok rfl h _).trans (nextWeights_load harm hmore hp _))

theorem drain_starts (hhead : s.meHead c (fun k => k == 1) = (some f, meTaken s c rest)) :
    exec (.drain c) s = .next ((startedOn s u c f rec).pumpDrain c 4) := by
  rw [exec_drain, execDrain, hhead]
  exact congrArg Host.Outcome.next (meStart_opened hi hok rfl h _)

theorem flags_starts (hhead : s.meHead c (fun k => k == 2) = (some f, meTaken s c rest)) (hkind : f.kind = 2) :
    exec (.flags c) s = .next ((meTaken s c rest).updMe c (fun m => { m with
      runs := m.runs ++ [{ runOf s c f rec with writes := [{ col := 0, cols := 32, writes := [(f.outOff, leBytes 8 m.flags.toNat)] }] }]
      flags := m.flags &&& ~~~BitVec.ofNat 8 (f.hi.toNat % 256) })) := by
  have hno : f.doesDrain = false := by
    rw [FifoCmd.doesDrain, hkind]
    rfl
  have hu : u = meTaken s c rest := by
    rcases h with ⟨_, _, hu⟩ | ⟨hd, _⟩
    · exact hu
    · exact absurd hd (by rw [hno]; decide)
  rw [exec_flags, execFlags, hhead]
  refine congrArg Host.Outcome.next ((meStart_opened hi hok rfl h _).trans ?_)
  rw [flags_started h.opening, hu]

end

/-! ## SPILL and RESUME -/

theorem spillReseed_err (s : State) (r : RegionNum) : (s.spillReseed r).err = s.err := by
  rw [State.spillReseed]
  split <;> rfl

theorem spillReseed_marks (s : State) (r : RegionNum) : ((s.spillReseed r).region r).spillPoison = (s.region r).spillPoison ∧
    ((s.spillReseed r).region r).spillBad = (s.region r).spillBad := by
  rw [State.spillReseed]
  split
  · show ((s.updRegion r (fun x => { x with spillSeed := some s.fresh })).region r).spillPoison = _ ∧
      ((s.updRegion r (fun x => { x with spillSeed := some s.fresh })).region r).spillBad = _
    rw [State.region_updRegion_same]
    exact ⟨rfl, rfl⟩
  · exact ⟨rfl, rfl⟩

theorem tileParity_unarmed {s : State} (hi : bit s.err.inject 0 = false) (c : CoreNum) (f : FifoCmd) : s.tileParity c f = none := by
  rw [State.tileParity, armed_unarmed hi, Bool.false_and]
  rfl

section
variable {s u : State} {c : CoreNum} {f : FifoCmd} {rest : List FifoCmd} {rec : List Byte}

theorem reseeded_unarmed (h : Opening s u c) (hi : bit s.err.inject 0 = false) :
    bit ((startedOn s u c f rec).spillReseed (regionOf c)).err.inject 0 = false := by
  rw [spillReseed_err, show (startedOn s u c f rec).err = u.err from rfl, h.err, hi]

theorem reseeded_sound (h : Opening s u c) (hi : bit s.err.inject 0 = false) (hs : grantSound s c f) :
    ((startedOn s u c f rec).spillReseed (regionOf c)).spillPoisoned c f = (false, (startedOn s u c f rec).spillReseed (regionOf c)) := by
  have hregion : (startedOn s u c f rec).region (regionOf c) = s.region (regionOf c) := by
    rw [State.region, State.region, show (startedOn s u c f rec).regions = u.regions from rfl, h.regions]
  obtain ⟨hpoison, hbad⟩ := spillReseed_marks (startedOn s u c f rec) (regionOf c)
  refine spillPoisoned_sound (reseeded_unarmed h hi) ?_
  rw [grantSound, hpoison, hbad, hregion]
  exact hs

variable (hi : bit s.err.inject 0 = false) (hok : f.fieldsOk = true) (h : RecordRead s c f rest rec u) (hgrant : s.grantOk c f = true)
include hi hok h hgrant

theorem spill_starts (hhead : s.meHead c (fun k => k == 3) = (some f, meTaken s c rest)) (hs : f.acc = true → grantSound s c f) :
    exec (.spill c) s = .next (((if f.acc then (startedOn s u c f rec).spillReseed (regionOf c) else startedOn s u c f rec).meSeed c).spillRows c f) := by
  rw [exec_spill, execSpill, hhead]
  refine congrArg Host.Outcome.next ((meStart_opened hi hok hgrant h _).trans ?_)
  cases hacc : f.acc with
  | true => simp only [if_true, reseeded_sound h.opening hi (hs hacc), tileParity_unarmed (reseeded_unarmed h.opening hi), Bool.false_eq_true, if_false]
  | false =>
    have harm : bit (startedOn s u c f rec).err.inject 0 = false := by
      rw [show (startedOn s u c f rec).err = u.err from rfl, h.opening.err, hi]
    simp only [Bool.false_eq_true, if_false, tileParity_unarmed harm]

theorem resume_starts (hhead : s.meHead c (fun k => k == 4) = (some f, meTaken s c rest)) (hs : grantSound s c f) :
    exec (.resume c) s = .next (if f.drains then ((startedOn s u c f rec).spillReseed (regionOf c)).pumpDrain c 4
      else (((startedOn s u c f rec).spillReseed (regionOf c)).meSeed c).resumeRows c f) := by
  rw [exec_resume, execResume, hhead]
  refine congrArg Host.Outcome.next ((meStart_opened hi hok hgrant h _).trans ?_)
  simp only [reseeded_sound h.opening hi hs, tileParity_unarmed (reseeded_unarmed h.opening hi), ite_self, Bool.false_eq_true, if_false]

end

/-! ## Chunks, writes, ends -/

theorem weightLoad_steps {s : State} {c : CoreNum} {i : Nat} {r : MeRun} {p : ChunkAt} {w : Shadow} (hi : bit s.err.inject 0 = false)
    (hfind : ((s.core c).me.runs.mapIdx (fun i r => (i, r))).find? (fun q => decide (q.2.chunk < q.2.chunks)) = some (i, r))
    (hp : r.chunkAt = some p) (hw : r.shadow = some w) (hbad : w.bad = none) (hrows : s.rowPoison c r.cmd p = none)
    (hpath : (s.core c).pathBad = 0) (haudit : r.cmd.audit = false) (hrun : s.runs c = true)
    (hdrains : drainBefore ((s.core c).me.runs.take i) r.cmd = false) :
    exec (.weightLoadDone c) s = .next ((((State.updRun { (s.meSeed c).updMe c ((s.meSeed c).chunkMe c r p w) with fresh := (s.meSeed c).fresh + 1 }
      c i (fun _ => { r with chunk := r.chunk + 1, shadow := none })).nextWeights c i { r with chunk := r.chunk + 1, shadow := none }).feedStalls c).pumpDrain c 4) := by
  have hchunk : s.runChunk c i r p = ((State.updRun { (s.meSeed c).updMe c ((s.meSeed c).chunkMe c r p w) with fresh := (s.meSeed c).fresh + 1 }
      c i (fun _ => { r with chunk := r.chunk + 1, shadow := none })).nextWeights c i { r with chunk := r.chunk + 1, shadow := none }).feedStalls c := by
    simp only [State.runChunk, hw, inject_unarmed hi, hbad, hrows, Option.or_none, tileParity_unarmed hi, pathRead_none hpath,
      State.auditChunk, haudit, Bool.not_false, if_true, Bool.false_eq_true, if_false]
  rw [exec_weightLoadDone, execWeightLoadDone, ← hchunk]
  simp only [hfind, hp, hrun, hdrains, Bool.not_false, Bool.and_self, if_true]

theorem drainRowWrite_performs {s : State} {c : CoreNum} {idx i j : Nat} {g : Granule} (hw : (s.core c).me.waiting[idx]? = some (i, j, g))
    (hclock : s.clocked c = true) (hfirst : ∀ w ∈ (s.core c).me.waiting.take idx, w.2.2.meets g = false) :
    exec (.drainRowWrite ⟨c, idx⟩) s = .next ((((((g.writes.foldl (fun t w => t.homeWrite (drawerBase c + w.1) w.2) s).addStat c g.stat).drainStalls c).updRun c i
      (fun r => { r with writes := r.writes.eraseIdx j }))).pumpDrain c 4) := by
  have hany : ((s.core c).me.waiting.take idx).any (fun w => w.2.2.meets g) = false :=
    List.any_eq_false.mpr fun w hw => by rw [hfirst w hw]; decide
  rw [exec_drainRowWrite, execDrainRowWrite]
  simp only [hw, hclock, hany, Bool.not_true, Bool.or_self, Bool.false_eq_true, if_false]

theorem meCommandComplete_ends {s : State} {c : CoreNum} {i : Nat} {r : MeRun}
    (hfind : ((s.core c).me.runs.mapIdx (fun i r => (i, r))).find? (fun q => q.2.finished) = some (i, r)) (hclock : s.clocked c = true)
    (hsig : r.cmd.sigEn = false) (hissuer : ∃ pc, r.cmd.issuer = .insn pc) : exec (.meCommandComplete c) s = .next
      ((s.updMe c (fun m => { m with runs := (m.runs.eraseIdx i).map (fun y => { y with since := s.cyclesOf c }) })).selfAdd c 5
        (s.cyclesOf c - (((s.core c).me.runs.head?.map (·.since)).getD (s.cyclesOf c)))) := by
  obtain ⟨pc, hpc⟩ := hissuer
  rw [exec_meCommandComplete, execMeCommandComplete]
  cases hruns : (s.core c).me.runs with
  | nil => rw [hruns] at hfind; exact absurd hfind (by simp)
  | cons x xs =>
    rw [hruns] at hfind
    simp only [hfind, hclock, hsig, State.cmdDone, hpc, if_true, Bool.false_eq_true, if_false, List.head?_cons, Option.map_some, Option.getD_some]

/-- Settles O34. -/
theorem matrixCommands : Obligations.MatrixCommands := by
  unfold Obligations.MatrixCommands
  intro s c f rest k s1 a run on opened loaded x sound hi
  refine ⟨fun hfifo hrun hcan hwait => ?_, fun i r p w hfind hp hw hbad hrows hpath haudit hrun hdrains =>
    weightLoad_steps hi hfind hp hw hbad hrows hpath haudit hrun hdrains, fun idx i j g hw hclock hfirst =>
    drainRowWrite_performs hw hclock hfirst, fun i r hfind hclock hsig hissuer => meCommandComplete_ends hfind hclock hsig hissuer⟩
  have hhead : ∀ {p : Nat → Bool}, p f.kind = true → s.meHead c p = (some f, meTaken s c rest) := meHead_starts hfifo hrun hcan hwait
  refine ⟨fun h5 => reserved_invalid (hhead (decide_eq_true h5)), fun hok r u h => ⟨?_, ?_, ?_, ?_, ?_⟩⟩
  · exact fun hk hchunks p hp => multiply_starts hi hok h (hhead (beq_iff_eq.mpr hk)) hk hchunks hp
  · exact fun hk => drain_starts hi hok h (hhead (beq_iff_eq.mpr hk))
  · exact fun hk => flags_starts hi hok h (hhead (beq_iff_eq.mpr hk)) hk
  · exact fun hk hgrant hs => spill_starts hi hok h hgrant (hhead (beq_iff_eq.mpr hk)) hs
  · exact fun hk hgrant hs => resume_starts hi hok h hgrant (hhead (beq_iff_eq.mpr hk)) hs

end Sys2Proof.Proofs
end

section
/-! SUPPORT. The DMA engine and the armature (13_streams.md, 09_accumulation.md): commands, the start of a block, its copy, late data, additions. -/

namespace Sys2Proof.Proofs

open Sys2Proof Sys2Proof.Machine

/-! ## Commands at the head -/

/-- The state whose DE FIFO has given its head away. -/
def deTaken (s : State) (c : CoreNum) (rest : List FifoCmd) : State := s.updDe c (fun m => { m with fifo := rest })

section
variable {s : State} {c : CoreNum} {f : FifoCmd} {rest : List FifoCmd}

theorem deHead_starts (hidle : (s.core c).de.run = none) (hfifo : (s.core c).de.fifo = f :: rest) (hrun : s.runs c = true)
    (hwait : f.deWaitEn = false) {p : Nat → Bool} (hp : p f.kind = true) : s.deHead c p = (some f, deTaken s c rest) := by
  simp only [State.deHead, hidle, hfifo, hrun, hwait, hp]
  rfl

theorem deReserved_invalid (hhead : s.deHead c (fun k => decide (2 ≤ k)) = (some f, deTaken s c rest)) :
    exec (.reservedCommandKind c true) s = .next ((deTaken s c rest).deRaise c 0x0B f 0) := by
  rw [exec_reservedCommandKind, execReservedCommandKind, if_pos rfl, hhead]

theorem list_starts (hhead : s.deHead c (fun k => k == 0) = (some f, deTaken s c rest)) (hok : f.listOk = true) :
    exec (.list c) s = .next (((deTaken s c rest).updDe c (fun m => { m with run := some (s.listRun c f) })).readAhead c) := by
  rw [exec_list, execList, hhead]
  exact congrArg Host.Outcome.next (if_neg (by rw [hok]; decide))

theorem redFor_found {i : Nat} {t : State} (l idx : Nat) (h : t.fe.reds.findIdx? (fun r => r.launch == l && r.index == idx) = some i) :
    t.redFor l idx = (some i, t) := by
  simp only [State.redFor, h]

theorem contrib_accepted (hhead : s.deHead c (fun k => k == 1) = (some f, deTaken s c rest)) (hok : f.contribOk = true)
    (hi : bit s.err.inject 0 = false) {i : Nat} {r : Reduction}
    (hfind : s.fe.reds.findIdx? (fun r => r.launch == f.launch && r.index == fld f.hi 0 16) = some i) (hred : s.fe.reds[i]? = some r)
    (hacc : r.accepts (bit f.lo 4) f.conRows f.conCols (fld f.hi 30 14) (fld f.hi 44 6) (fld f.hi 50 7) = true) :
    exec (.contrib c) s = .next (((deTaken s c rest).accept i r ((fld f.hi 30 14 * r.g + fld f.hi 44 6) * r.c + fld f.hi 50 7)
      (s.partial_ c f)).deEnd c f) := by
  have hunarmed : (deTaken s c rest).inject (drawerBase c + f.conSrc) 8 = deTaken s c rest :=
    inject_unarmed (s := deTaken s c rest) hi _ _
  have hred' : (deTaken s c rest).fe.reds[i]? = some r := hred
  have hvalues : (deTaken s c rest).partial_ c f = s.partial_ c f := rfl
  rw [exec_contrib, execContrib, hhead]
  simp only [hok, hunarmed, redFor_found (t := deTaken s c rest) _ _ hfind, hred', hacc, hvalues, Bool.not_true, Bool.false_eq_true, if_false]

end

/-! ## The start of a block -/

/-- The list once the DE has its next entry. -/
def entryUsed (r : DeRun) (e : BlockWords) : DeRun :=
  if r.ahead.any (fun x => x.1 == r.next) then r else { r with ahead := r.ahead ++ [(r.next, some e.bytes)] }

/-- A block as it starts. -/
def startedBlock (r : DeRun) (e : BlockWords) (ps : List Piece) (issued : Nat) : DeBlock :=
  { index := r.next, w0 := e.w0, w1 := e.w1, w2 := e.w2, w3 := e.w3, pieces := ps, issued := issued }

/-- The list once the block has started. -/
def blockStarted (r : DeRun) (e : BlockWords) (ps : List Piece) (issued : Nat) : DeRun :=
  { r with
    next := r.next + 1
    taken := false
    ahead := r.ahead.filter (fun e => e.1 != r.next)
    blocks := r.blocks ++ [startedBlock r e ps issued]
    wrote := r.wrote ++ ps.map (fun p => (p.dst, p.len)) }

theorem entryUsed_filter (r : DeRun) (e : BlockWords) :
    (entryUsed r e).ahead.filter (fun e => e.1 != r.next) = r.ahead.filter (fun e => e.1 != r.next) := by
  rw [entryUsed]
  split
  · rfl
  · simp

theorem entryUsed_frame (r : DeRun) (e : BlockWords) : entryUsed r e = { r with ahead := (entryUsed r e).ahead } := by
  rw [entryUsed]
  split <;> rfl

/-- A part of a block with no end on another device. -/
theorem near_of_farBlock {ps : List Piece} (h : farBlock ps = false) {p : Piece} (hp : p ∈ ps) :
    p.dst.isRemote = false ∧ p.fromFar = false := by
  have hnear := List.any_eq_false.mp h p hp
  rw [Bool.not_eq_true, Bool.or_eq_false_iff] at hnear
  obtain ⟨hdst, hsrc⟩ := hnear
  obtain ⟨src, dst, len, srcVa, dstVa⟩ := p
  constructor
  · cases dst <;> exact hdst
  · cases src with
    | none => rfl
    | some t => cases t <;> exact hsrc

/-- The requests of a part with no end on another device send nothing. -/
theorem blockSends_near {s : State} {c : CoreNum} {f : FifoCmd} {ch index : Nat} {ps : List (Nat × Piece)}
    (h : ∀ ip ∈ ps, ip.2.dst.isRemote = false ∧ ip.2.fromFar = false) : s.blockSends c f ch index ps = s := by
  refine foldl_stays fun ip hip => ?_
  obtain ⟨hdst, hsrc⟩ := h ip hip
  obtain ⟨i, src, dst, len, srcVa, dstVa⟩ := ip
  cases src with
  | none => exact if_neg (by rw [hdst]; decide)
  | some t =>
    cases t with
    | remote d a => cases hsrc
    | dev a => exact if_neg (by rw [hdst]; decide)
    | host a => exact if_neg (by rw [hdst]; decide)

theorem part_pieces {b : DeBlock} {lo hi : Nat} {ip : Nat × Piece} (h : ip ∈ b.part lo hi) : ip.2 ∈ b.pieces := by
  obtain ⟨i, hi, hip⟩ := List.mem_mapIdx.mp (List.mem_of_mem_take (List.mem_of_mem_drop h))
  rw [← hip]
  exact List.getElem_mem hi

/-- A change to the block that was started last, no other of its number. -/
theorem map_last_block {l : List DeBlock} {x : DeBlock} (g : DeBlock → DeBlock) (h : ∀ b ∈ l, b.index ≠ x.index) :
    (l ++ [x]).map (fun b => if b.index = x.index then g b else b) = l ++ [g x] := by
  rw [List.map_append, List.map_singleton, if_pos rfl, List.map_congr_left fun b hb => if_neg (h b hb), List.map_id']

theorem updDe_updDe (s : State) (c : CoreNum) (f g : De → De) : (s.updDe c f).updDe c g = s.updDe c (fun m => g (f m)) :=
  State.updCore_updCore _ _ _ _

theorem blockStarted_used (r : DeRun) (e : BlockWords) (ps : List Piece) (n : Nat) :
    blockStarted (entryUsed r e) e ps n = blockStarted r e ps n := by
  have hnext : (entryUsed r e).next = r.next := by rw [entryUsed_frame]
  rw [blockStarted, hnext, entryUsed_filter, entryUsed_frame]
  rfl

/-- A list with a change to one of its started blocks. -/
def changedBlock (r : DeRun) (index : Nat) (g : DeBlock → DeBlock) : DeRun :=
  { r with blocks := r.blocks.map (fun b => if b.index = index then g b else b) }

theorem updBlock_run (s : State) (c : CoreNum) (r : DeRun) (index : Nat) (g : DeBlock → DeBlock) :
    (s.updDe c (fun m => { m with run := some r })).updBlock c index g =
      s.updDe c (fun m => { m with run := some (changedBlock r index g) }) := by
  rw [State.updBlock, updDe_updDe]
  rfl

/-- The requests of the block that has started, as it starts. -/
theorem issueParts_started {s : State} {c : CoreNum} {r : DeRun} {e : BlockWords} {ps : List Piece} (hnear : farBlock ps = false)
    (hother : ∀ b ∈ r.blocks, b.index ≠ r.next) (f : FifoCmd) (n : Nat) :
    (s.updDe c (fun m => { m with run := some (blockStarted r e ps 0) })).issueParts c f (startedBlock r e ps 0) n =
      s.updDe c (fun m => { m with run := some (blockStarted r e ps n) }) := by
  have hsend : ∀ ip ∈ (startedBlock r e ps 0).part (startedBlock r e ps 0).issued n, ip.2.dst.isRemote = false ∧ ip.2.fromFar = false :=
    fun ip hip => near_of_farBlock hnear (part_pieces hip)
  have hissued : changedBlock (blockStarted r e ps 0) (startedBlock r e ps 0).index (fun b => { b with issued := max b.issued n }) =
      blockStarted r e ps n := by
    rw [changedBlock, blockStarted, map_last_block (x := startedBlock r e ps 0) _ hother, startedBlock, Nat.zero_max]
    rfl
  rw [State.issueParts, blockSends_near hsend, updBlock_run, hissued]

/-- A checked entry with no count to take, no end on another device and no clash starts. -/
theorem startBlock_near {s : State} {c : CoreNum} {r : DeRun} {e : BlockWords} {ps : List Piece} (hnowait : bit e.w2 38 = false)
    (hnorel : bit e.w2 55 = false) (hnear : farBlock ps = false)
    (hother : ∀ b ∈ r.blocks, b.index ≠ r.next ∧ (b.performed = false → clash ps b.pieces = false)) :
    s.startBlock c r e ps = (State.updDe { s with fresh := s.fresh + 1 } c (fun m =>
      { m with run := some (blockStarted r e ps (Config.freeNat s.fresh % (ps.length + 1))) })).readAhead c := by
  have hheld : ps.filter (fun p => p.dst.isRemote && !p.fromFar) = [] :=
    List.filter_eq_nil_iff.mpr fun p hp => by rw [(near_of_farBlock hnear hp).1, Bool.false_and]; decide
  have hclash : (r.blocks.filter (fun b => !b.performed)).any (fun b => clash ps b.pieces) = false :=
    List.any_eq_false.mpr fun b hb => by
      obtain ⟨hmem, hopen⟩ := List.mem_filter.mp hb
      rw [(hother b hmem).2 (by simpa using hopen)]
      decide
  rw [← issueParts_started hnear (fun b hb => (hother b hb).1) r.cmd]
  simp only [State.startBlock, hnear, hnorel, hnowait, hclash, hheld, Bool.false_and, Bool.or_self, Bool.false_eq_true, if_false]
  rfl

theorem blockStart_starts {s s2 s3 : State} {c : CoreNum} {r : DeRun} {e : BlockWords} {ps : List Piece} (hde : (s.core c).de.run = some r)
    (hrun : s.runs c = true) (hlist : r.isList = true) (hmore : r.next < r.count) (hwaits : r.waiting = false)
    (hroom : (r.blocks.filter (fun b => !b.performed)).length < 6) (hrels : ∀ b ∈ r.blocks, b.performed = true ∨ bit b.w2 55 = false)
    (hread : s.readEntry c r r.next = (.words e, s2)) (hok : e.ok = true) (hnowait : bit e.w2 38 = false) (hnorel : bit e.w2 55 = false)
    (hpieces : (s2.updDe c (fun m => { m with run := some (entryUsed r e) })).blockPieces c r.cmd.super e = (.ok ps, s3))
    (hnear : farBlock ps = false) (hother : ∀ b ∈ r.blocks, b.index ≠ r.next ∧ (b.performed = false → clash ps b.pieces = false)) :
    exec (.blockStart c) s = .next ((State.updDe { s3 with fresh := s3.fresh + 1 } c (fun m =>
      { m with run := some (blockStarted r e ps (Config.freeNat s3.fresh % (ps.length + 1))) })).readAhead c) := by
  have hopen : (r.blocks.filter (fun b => !b.performed)).any (fun b => bit b.w2 55) = false :=
    List.any_eq_false.mpr fun b hb => by
      obtain ⟨hmem, hopen⟩ := List.mem_filter.mp hb
      rcases hrels b hmem with hp | hrel
      · rw [hp] at hopen
        exact absurd hopen (by decide)
      · rw [hrel]
        decide
  have hguard : (!s.runs c || !r.isList || decide (r.count ≤ r.next) || r.waiting ||
      decide (6 ≤ (r.blocks.filter (fun b => !b.performed)).length) || (r.blocks.filter (fun b => !b.performed)).any (fun b => bit b.w2 55)) = false := by
    rw [hrun, hlist, decide_eq_false (Nat.not_le.mpr hmore), hwaits, decide_eq_false (Nat.not_le.mpr hroom), hopen]
    rfl
  have hused : entryUsed r e = { r with ahead := (entryUsed r e).ahead } := entryUsed_frame r e
  have hstart : s3.startBlock c (entryUsed r e) e ps = (State.updDe { s3 with fresh := s3.fresh + 1 } c (fun m =>
      { m with run := some (blockStarted r e ps (Config.freeNat s3.fresh % (ps.length + 1))) })).readAhead c := by
    rw [startBlock_near hnowait hnorel hnear (by rw [hused]; exact hother), blockStarted_used]
  have hcmd : (entryUsed r e).cmd = r.cmd := by rw [hused]
  rw [exec_blockStart, execBlockStart, ← hstart]
  simp only [hde, hguard, hread, ← entryUsed.eq_1, hok, hnowait, hcmd, hpieces, Bool.not_true, Bool.false_and, Bool.false_eq_true, if_false]

/-! ## A block performed -/

theorem notCsr_of_memory {s : State} {a : Nat} (h : (s.classOf a).isMemory = true) : s.classOf a ≠ .csr := by
  intro hc
  rw [hc] at h
  exact absurd h (by decide)

/-- What a block that lands at its home is noted as is no part of memory or of the cores. -/
theorem noteBlock_frame (s : State) (c : CoreNum) (index : Nat) (t : Tgt) (bs : List Byte) :
    s.noteBlock c index t bs = { s with rels := (s.noteBlock c index t bs).rels } := by
  unfold State.noteBlock
  split <;> rfl

theorem landPiece_memory {s : State} {c : CoreNum} {f : FifoCmd} {p : Piece} {d : Nat} (hdst : p.dst = .dev d)
    (hm : (s.classOf d).isMemory = true) (hi : bit s.err.inject 0 = false) (ch index i : Nat) (bs : List Byte) (bad : W64) :
    (s.landPiece c f ch index i p bs [] bad).mem = s.mem.store d bs ∧
    ((s.landPiece c f ch index i p bs [] bad).core c).de = (s.core c).de := by
  have hm' : ((s.selfAdd c 7 (BitVec.ofNat 64 bs.length)).classOf d).isMemory = true := hm
  have hi' : bit (s.selfAdd c 7 (BitVec.ofNat 64 bs.length)).err.inject 0 = false := hi
  have hcore : ((s.selfAdd c 7 (BitVec.ofNat 64 bs.length)).core c).de = (s.core c).de := by
    rw [State.selfAdd, State.core_updCore_same]
  have hmem : (s.selfAdd c 7 (BitVec.ofNat 64 bs.length)).mem = s.mem := rfl
  simp only [State.landPiece, hdst]
  generalize s.selfAdd c 7 (BitVec.ofNat 64 bs.length) = u at hm' hi' hcore hmem ⊢
  rw [if_neg (notCsr_of_memory hm'), noteBlock_frame]
  have hstored : (u.homeWrite d bs).mem = s.mem.store d bs := by rw [homeWrite_mem hm' hi', hmem]
  have hcores : ((u.homeWrite d bs).core c).de = (s.core c).de := by rw [homeWrite_core hm' hi' bs c, ← hcore]
  split
  · exact ⟨hstored, hcores⟩
  · exact ⟨hstored, hcores⟩

/-- A part whose source is zeros, or memory of this device with no poisoned word. -/
def cleanSource (s : State) (p : Piece) (bs : List Byte) : Prop :=
  (p.src = none ∧ bs = List.replicate p.len 0) ∨
  ∃ a, p.src = some (.dev a) ∧ (s.classOf a).isMemory = true ∧ s.mem.firstPoison a p.len = none ∧ bs = (s.memRead a p.len).1

theorem copyPiece_memory {s : State} {c : CoreNum} {f : FifoCmd} {p : Piece} {d : Nat} {bs : List Byte} (hdst : p.dst = .dev d)
    (hm : (s.classOf d).isMemory = true) (hi : bit s.err.inject 0 = false) (hsrc : cleanSource s p bs) (ch index i : Nat) :
    (s.copyPiece c f ch index i p).mem = s.mem.store d bs ∧ ((s.copyPiece c f ch index i p).core c).de = (s.core c).de := by
  rcases hsrc with ⟨hnone, rfl⟩ | ⟨a, ha, hma, hclean, rfl⟩
  · simp only [State.copyPiece, State.pieceRead, hnone]
    exact landPiece_memory hdst hm hi _ _ _ _ _
  · have hbytes : ((s.traffic a p.len false).memRead a p.len).1 = (s.memRead a p.len).1 := by
      rw [memRead_fst, memRead_fst, traffic_counters]
    have hframe := trafficRead_frame s a p.len
    simp only [State.copyPiece, State.pieceRead, ha, if_neg (notCsr_of_memory hma), homeRead_eq_memRead hma hi, hclean, hbytes]
    generalize ((s.traffic a p.len false).memRead a p.len).2 = u at hframe ⊢
    have hmu : (u.classOf d).isMemory = true := by rw [hframe]; exact hm
    have hiu : bit u.err.inject 0 = false := by rw [hframe]; exact hi
    have hland := landPiece_memory (c := c) (f := f) hdst hmu hiu ch index i (s.memRead a p.len).1 0
    rw [show u.mem = s.mem by rw [hframe], show u.core c = s.core c by rw [hframe]; rfl] at hland
    exact hland

/-- The last part of a list's only block is copied: the block is performed and leaves the list. -/
theorem performed_leaves {s : State} {c : CoreNum} {r : DeRun} {b : DeBlock} (hde : (s.core c).de.run = some r) (hblocks : r.blocks = [b])
    (hnosig : bit b.w2 45 = false) (hmore : r.next < r.count) :
    ((s.updBlock c b.index (fun b => { b with performed := true })).deSignals c 2).mem = s.mem ∧
    (((s.updBlock c b.index (fun b => { b with performed := true })).deSignals c 2).core c).de.run = some { r with blocks := [] } := by
  have hperformed : changedBlock r b.index (fun b => { b with performed := true }) = { r with blocks := [{ b with performed := true }] } := by
    rw [changedBlock, hblocks, List.map_singleton, if_pos rfl]
  have hrun : ((s.updBlock c b.index (fun b => { b with performed := true })).core c).de.run =
      some { r with blocks := [{ b with performed := true }] } := by
    rw [State.updBlock, State.updDe, State.core_updCore_same, hde, ← hperformed]
    rfl
  have hmem : (s.updBlock c b.index (fun b => { b with performed := true })).mem = s.mem := rfl
  generalize s.updBlock c b.index (fun b => { b with performed := true }) = u at hrun hmem ⊢
  have hend : ((u.updDe c (fun m => { m with run := some { r with blocks := [] } })).core c).de.run = some { r with blocks := [] } := by
    rw [State.updDe, State.core_updCore_same]
  have hnot : (r.next == r.count) = false := beq_eq_false_iff_ne.mpr (Nat.ne_of_lt hmore)
  simp only [State.deSignals, hrun, hnosig, hend, hnot, Bool.and_false, if_true, Bool.false_eq_true, if_false]
  exact ⟨hmem, trivial⟩

/-- The only block of a list, of one part on this device, is performed. -/
theorem blockPerformed_copies {s : State} {c : CoreNum} {r : DeRun} {b : DeBlock} {p : Piece} {d : Nat} {bs : List Byte}
    (hde : (s.core c).de.run = some r) (hblocks : r.blocks = [b]) (hopen : b.performed = false) (hfresh : b.stale = false) (hdone : b.done = 0)
    (hnosig : bit b.w2 45 = false) (hmore : r.next < r.count) (hpieces : b.pieces = [p]) (hrun : s.runs c = true) (hdrains : s.drains c = true)
    (hreach : s.pieceReach c p = true) (hidle : s.blockBusy c r.cmd.launch b.index = false) (hdst : p.dst = .dev d)
    (hm : (s.classOf d).isMemory = true) (hi : bit s.err.inject 0 = false) (hsrc : cleanSource s p bs) (hheld : s.pieceLines [p] = [])
    (hown : ownOverlap [p] = []) : ∃ t, exec (.blockPerformed c 0) s = .next t ∧ t.mem = s.mem.store d bs ∧
      (t.core c).de.run = some { r with blocks := [] } := by
  have hnear : p.near = true := by
    rcases hsrc with ⟨hnone, _⟩ | ⟨a, ha, _⟩
    · rw [Piece.near, Piece.fromFar, hnone, hdst]
      rfl
    · rw [Piece.near, Piece.fromFar, ha, hdst]
      rfl
  have hpart : (b.part 0 1).filter (fun ip => ip.2.near) = [(0, p)] := by
    rw [DeBlock.part, hpieces]
    exact List.filter_cons_of_pos hnear
  have hfar : (b.part b.issued 1).any (fun ip => !ip.2.near) = false := List.any_eq_false.mpr fun ip hip => by
    have hone : ip.2 = p := List.mem_singleton.mp (hpieces ▸ part_pieces hip)
    rw [hone, hnear]
    decide
  have hflit : s.meshFlit = s := if_neg (by rw [armed_unarmed hi]; decide)
  obtain ⟨hmem, hcore⟩ := copyPiece_memory (f := r.cmd) hdst hm hi hsrc (fld b.w2 46 4) b.index 0 (c := c)
  have hcopied : ((s.copyPiece c r.cmd (fld b.w2 46 4) b.index 0 p).core c).de.run = some r := by rw [hcore, hde]
  obtain ⟨hleft, hleaves⟩ := performed_leaves hcopied hblocks hnosig hmore
  refine ⟨_, ?_, hleft.trans hmem, hleaves⟩
  have hcopy : s.copyParts c r.cmd b [(0, p)] = s.copyPiece c r.cmd (fld b.w2 46 4) b.index 0 p := if_neg (by rw [hde, hnear, Option.isNone_some]; decide)
  have hblur : (s.copyPiece c r.cmd (fld b.w2 46 4) b.index 0 p).blurOverlap b = s.copyPiece c r.cmd (fld b.w2 46 4) b.index 0 p := by
    rw [State.blurOverlap, hpieces, hown]
    rfl
  rw [exec_blockPerformed, execBlockPerformed]
  simp only [hde, hblocks, List.getElem?_cons_zero, hpieces, List.length_singleton, hrun, if_true, hdone, hpart, List.map_singleton, hheld, hopen,
    hdrains, hfresh, hfar, hidle, List.all_cons, List.all_nil, hreach, hflit, hcopy, hcopied, hblur, List.isEmpty_nil, Option.isNone_some,
    Nat.lt_irrefl, Bool.not_true, Bool.and_true, Bool.or_self, Bool.false_eq_true, if_false]

theorem pieceLines_copy {s : State} {p : Piece} {d a : Nat} (hdst : p.dst = .dev d) (hsrc : p.src = some (.dev a))
    (hd : s.linesHeld d p.len true = []) (ha : s.linesHeld a p.len false = []) : s.pieceLines [p] = [] := by
  simp only [State.pieceLines, List.flatMap_cons, List.flatMap_nil, hdst, hsrc, hd, ha, List.append_nil]

theorem pieceLines_fill {s : State} {p : Piece} {d : Nat} (hdst : p.dst = .dev d) (hsrc : p.src = none)
    (hd : s.linesHeld d p.len true = []) : s.pieceLines [p] = [] := by
  simp only [State.pieceLines, List.flatMap_cons, List.flatMap_nil, hdst, hsrc, hd, List.append_nil]

theorem ownOverlap_copy {p : Piece} {d a : Nat} (hdst : p.dst = .dev d) (hsrc : p.src = some (.dev a))
    (h : overlaps d p.len a p.len = false) : ownOverlap [p] = [] := by
  simp only [ownOverlap, List.flatMap_cons, List.flatMap_nil, List.filterMap_cons, List.filterMap_nil, hdst, hsrc, h, Bool.false_eq_true,
    if_false, List.append_nil]

theorem ownOverlap_fill {p : Piece} (hsrc : p.src = none) : ownOverlap [p] = [] := by
  simp only [ownOverlap, List.flatMap_cons, List.flatMap_nil, List.filterMap_cons, List.filterMap_nil, hsrc, List.append_nil]

/-! ## Late data -/

theorem lateData_counted {s : State} {c : CoreNum} {r : DeRun} {i due : Nat} (hde : (s.core c).de.run = some r)
    (hlate : s.lateEntry c r = some (i, due)) : ∃ recs, exec (.lateData c) s = .next
      ((((s.updDe c (fun m => { m with run := some { r with late := r.late ++ [i] } })).updRegion (regionOf c) (fun y =>
        { y with late := satAdd y.late 1, lateStretched := satAdd y.lateStretched r.leftRun.toNat })).selfAdd c 12 1).frieze (regionOf c) 0x20 recs) ∧
      recs.length = 2 := by
  rw [exec_lateData, execLateData]
  simp only [hde, hlate]
  exact ⟨_, rfl, rfl⟩

/-! ## Additions -/

theorem armatureAdd_sums {s : State} {i lo hi : Nat} {r : Reduction} {a b : List (Option X80)} (hred : s.fe.reds[i]? = some r)
    (hdone : r.done = false) (hlong : lo + 1 < hi) (hnode : r.isNode lo hi 64 0 r.ranks = true) (ha : r.part lo (r.split lo hi) = some a)
    (hb : r.part (r.split lo hi) hi = some b) :
    exec (.armatureAdd i lo hi) s = .next (((s.setRed (r.add lo (r.split lo hi) hi a b)).count 114 1).redFinish i) := by
  rw [exec_armatureAdd, execArmatureAdd]
  simp only [hred, hdone, hnode, ha, hb, Nat.not_le.mpr hlong, Bool.not_true, Bool.or_self, Bool.false_eq_true, if_false]

/-- The sum is the partial of the whole range. -/
theorem add_part {r : Reduction} {lo hi : Nat} (hnone : r.part lo hi = none) (mid : Nat) (a b : List (Option X80)) :
    (r.add lo mid hi a b).part lo hi = some ((a.zip b).map (fun p => (addValue r.x80 p.1 p.2).1)) := by
  have hold : r.parts.find? (fun p => p.1 == lo && p.2.1 == hi) = none := by
    rw [Reduction.part, Option.map_eq_none_iff] at hnone
    exact hnone
  have hrest : (r.parts.filter (fun p => !(p.1 == lo && p.2.1 == mid) && !(p.1 == mid && p.2.1 == hi))).find?
      (fun p => p.1 == lo && p.2.1 == hi) = none :=
    List.find?_eq_none.mpr fun p hp => List.find?_eq_none.mp hold p (List.mem_of_mem_filter hp)
  have hsum : (r.add lo mid hi a b).parts.find? (fun p => p.1 == lo && p.2.1 == hi) =
      some (lo, hi, ((a.zip b).map (fun p => addValue r.x80 p.1 p.2)).map (·.1)) := by
    rw [Reduction.add, List.find?_append, hrest, Option.none_or]
    exact List.find?_cons_of_pos (by rw [beq_self_eq_true, beq_self_eq_true]; rfl)
  rw [Reduction.part, hsum, List.map_map]
  rfl

/-- Settles O36. -/
theorem dmaAndArmature : Obligations.DmaAndArmature := by
  unfold Obligations.DmaAndArmature
  intro s c f rest s1 x r0 used started
  refine ⟨fun hidle hfifo hrun hwait => ?_, fun r hde => ⟨?_, ?_, ?_⟩, ?_⟩
  · have hhead : ∀ {p : Nat → Bool}, p f.kind = true → s.deHead c p = (some f, deTaken s c rest) := deHead_starts hidle hfifo hrun hwait
    refine ⟨fun h2 => deReserved_invalid (hhead (decide_eq_true h2)), fun hk hok => list_starts (hhead (beq_iff_eq.mpr hk)) hok, ?_⟩
    exact fun hk hok hi i r hfind hred hacc => contrib_accepted (hhead (beq_iff_eq.mpr hk)) hok hi hfind hred hacc
  · exact fun e s2 s3 ps hrun hlist hmore hwaits hroom hrels hread hok hnowait hnorel hpieces hnear hother =>
      blockStart_starts hde hrun hlist hmore hwaits hroom hrels hread hok hnowait hnorel hpieces hnear hother
  · intro b p d hblocks hopen hstale hdone hnosig hmore hpieces hrun hdrains hreach hidle hdst hm hheld hi _
    have hcopies : ∀ {bs}, cleanSource s p bs → s.pieceLines [p] = [] → ownOverlap [p] = [] → _ := fun {bs} =>
      blockPerformed_copies (bs := bs) hde hblocks hopen hstale hdone hnosig hmore hpieces hrun hdrains hreach hidle hdst hm hi
    constructor
    · rintro ⟨a, ha, hma, haheld, hover, hclean⟩
      obtain ⟨t, ht⟩ := hcopies (.inr ⟨a, ha, hma, hclean, rfl⟩) (pieceLines_copy hdst ha hheld haheld) (ownOverlap_copy hdst ha hover)
      exact ⟨a, t, ha, ht⟩
    · exact fun hnone => hcopies (.inl ⟨hnone, rfl⟩) (pieceLines_fill hdst hnone hheld) (ownOverlap_fill hnone)
  · exact fun i due hlate => lateData_counted hde hlate
  · exact fun i lo hi r a b hred hdone hlong hnode ha hb => ⟨armatureAdd_sums hred hdone hlong hnode ha hb, fun hnone => add_part hnone _ a b⟩

end Sys2Proof.Proofs
end
